-- ==== Sys2Proof/Word.lean ====
section
/-!
DEFINITION. The plain words the manual counts in: bytes, time stamps and the widths of fields.
Field values are natural numbers below the power of two their table gives; bytes of packets and of
memory are 8-bit vectors.
-/
namespace Sys2Proof

/-- One byte of a packet, of an accession or of the MRAM (R10 lays multi-byte fields out low byte first). -/
abbrev Byte := BitVec 8

/-- A TS64 time stamp: nanoseconds of the time base (R370). -/
abbrev TS := Nat

/-- Nanoseconds in a micro-step, in a control frame and in a management round (R23). -/
def microNs : Nat := 256
def frameNs : Nat := 2560
def roundNs : Nat := 256000000

/-- The effective TS64 of an OK_QUEUED reply (R44). -/
def neverTS : Nat := 0xFFFFFFFFFFFFFFFF

end Sys2Proof
end

