-- ==== Sys2Proof/Machine/Data.lean ====
section
/-!
DEFINITION. The parts the state of the controller is made of, as plain data: registers, queues, buffers, modes and pins.
-/
namespace Sys2Proof.Machine

open Sys2Proof

/-- Where a packet came from (R58, R65, R66, R89): the PCIe function; a UDP endpoint, by source address and port and the
controller port and UDP port it arrived on; or the RS-485 line. -/
inductive Endpoint where
  | pcie
  | udp (srcIp srcPort ctlPort dstPort : Nat)
  | serial
  deriving DecidableEq, Repr, Inhabited

/-- Where a command's reply goes: session, stream and sequence of its slot. -/
structure Ticket where
  sess : Nat
  stream : Nat
  seq : Nat
  deriving DecidableEq, Repr, Inhabited

/-- The two grades (R1). -/
inductive Grade where
  | yq2460 | yq1260
  deriving DecidableEq, Repr, Inhabited

/-- The straps read at the balls: grade of the die, TWIN_ROLE, HOST_SEL, BOOT (R401, R450). -/
structure Straps where
  grade : Grade
  roleB : Bool
  serialHost : Bool
  boot : Nat
  deriving DecidableEq, Repr, Inhabited

/-! ## Replies and sessions -/

/-- A decided result (R43, R44, R49): result code, effective TS64, reply payload after the 20 common bytes, and the
instant of decision. -/
structure Decided where
  result : Nat
  eff : TS
  payload : List Byte
  stamp : TS
  deriving DecidableEq, Repr, Inhabited

/-- A slot of a stream (R51): a consumed command, decided or not, delivered or not. `ord` is the model's count of
consumed commands; `ready` is the order in which its reply became ready to write (R62); `mirror` tells whether the reply has
been sent to the SHADOW: 0 not yet, 1 sent, 2 held by it or none needed, 3 never to be delivered here (R406, R417); `status` is
the status word its delivery carried (R80). -/
structure Slot where
  seq : Nat
  op : Nat
  flags : Nat
  accepted : TS
  ord : Nat
  dec : Option Decided
  ready : Option Nat
  delivered : Bool
  mirror : Nat
  status : Option Nat
  deriving DecidableEq, Repr, Inhabited

/-- A consumed command that its interpreter has not yet begun, because an earlier one of the stream holds it back
(OP-1, R83, R95). -/
structure Waiting where
  op : Nat
  seq : Nat
  ord : Nat
  stamp : TS
  flags : Nat
  payload : List Byte
  twin : Bool
  deriving DecidableEq, Repr, Inhabited

/-- One stream of a session (R47, R50, R51): expected sequence, slots in sequence order, the sequences refused and
not yet consumed, and the commands waiting at its interpreter. -/
structure StreamSt where
  expected : Nat
  slots : List Slot
  refused : List Nat
  waiting : List Waiting
  deriving DecidableEq, Repr, Inhabited

/-- A session (R67, R68, R70, R71). Instance 0 is the owner session; `held` marks an owner session that has closed and
is kept for RESUME; replies of commands consumed before `lastOrd` may still leave a closed one (the SESSION_CLOSE itself). -/
structure Session where
  isOpen : Bool
  held : Bool
  level : Nat
  ep : Endpoint
  gen : Nat
  slotKey : Nat
  lastAt : TS
  streams : List StreamSt
  lastOrd : Nat
  deriving DecidableEq, Repr, Inhabited

/-- A nonce given out (R69, R433): for SESSION_OPEN from an endpoint, or for LOG_CLEAR of a session. -/
structure Nonce where
  forLog : Bool
  ep : Endpoint
  sess : Nat
  id : Nat
  issued : TS
  deriving DecidableEq, Repr

/-- A submission ring (R59, R60). -/
structure SubRing where
  base : Nat
  size : Nat
  enabled : Bool
  headWb : Nat
  tail : Nat
  head : Nat
  stopped : Bool
  deriving DecidableEq, Repr, Inhabited

/-- A reply ring (R59, R61). -/
structure ReplyRing where
  base : Nat
  size : Nat
  enabled : Bool
  tailWb : Nat
  headDb : Nat
  tail : Nat
  wraps : Nat
  deriving DecidableEq, Repr, Inhabited

/-- What the controller puts out during one step, at its host links and its machine-facing balls. -/
inductive Output where
  /-- A reply on a transport: stream, opcode, sequence, flags, status word, accepted and effective TS64, payload. -/
  | reply (ep : Endpoint) (stream op seq flags status : Nat) (acc eff : TS) (payload : List Byte)
  /-- A write to host memory: address, bytes. -/
  | hostWrite (address : Nat) (data : List Byte)
  /-- An SHP1 reply (R89): ACK, result code, attention set. -/
  | shp1 (ep : Endpoint) (address seq : Nat) (ack : Bool) (result attention : Nat)
  /-- Bytes on an Ethernet port: PTP messages, launched frames, ARP and ICMP answers. -/
  | ethernet (port : Nat) (stamp : TS) (data : List Byte)
  /-- A digital serial frame on a laser port (R118, R119). -/
  | laserFrame (port : Nat) (bits : Nat)
  /-- A gate edge of a laser port, to the ns (R117). -/
  | gateEdge (port : Nat) (stamp : TS) (level : Bool)
  /-- A new level of MOD in analog mode, and of the 16 bits of AOUT (R116); AOUT of a module without TWIN_OWN is high-impedance
  (R121). -/
  | modEdge (port : Nat) (stamp : TS) (level : Bool)
  | aout (port : Nat) (stamp : TS) (level : Option Nat)
  /-- A pulse on MOD in pulse-frequency mode (R116). -/
  | modPulse (port : Nat) (stamp : TS) (width : Nat)
  /-- A downstream head-link frame with its idle pairs, as code groups of ten bits, the first bit sent highest (R212, R213,
  R241). -/
  | headFrame (port : Nat) (codes : List Nat)
  /-- A frame of an XY2-100 port: the twenty bits of SYNC and of X, Y and Z, the first bit sent highest (R243). -/
  | legacyFrame (port : Nat) (sync : Nat) (words : List Nat)
  /-- A STEP pulse of a step/direction cell, with the level of DIR (R285). -/
  | stepPulse (cell : Nat) (stamp : TS) (dir : Bool)
  /-- SDb_EN of a step/direction cell: its level, none while it is high-impedance (R285, R286). -/
  | sdEnable (cell : Nat) (stamp : TS) (level : Option Bool)
  /-- The coil targets of a stepper stage, in mA; none while its bridges are off (R282). -/
  | coils (stage : Nat) (stamp : TS) (ab : Option (Int × Int))
  /-- A new state of the bridge of a coil: 0 off, 1 driven forward, 2 driven in reverse, 3 both low-side switches on (R283). -/
  | bridge (stage : Nat) (coilB : Bool) (stamp : TS) (state : Nat)
  /-- The bias of the lamp-board NTC starts or ends to flow, in µA (R501). -/
  | ntcBias (uA : Nat)
  /-- A read of an absolute encoder begins: the first edge of MA, at a rate in kHz (R264, R270). -/
  | absClock (port : Nat) (stamp : TS) (rate : Nat)
  /-- New levels of an output group: OA, OB, OZ (R268). -/
  | encoderOut (port : Nat) (stamp : TS) (a b z : Bool)
  /-- A camera trigger pulse, a PPS pulse, a strobe window: start and width. -/
  | camTrigger (pipe : Nat) (stamp : TS) (width : Nat) (activeHigh : Bool)
  | pps (k : Nat) (stamp : TS) (width : Nat)
  | strobe (pattern : Nat) (stamp : TS) (width : Nat)
  /-- Effective duties of the lamp from a period start on, by row * 16 + channel (R325). -/
  | lampDuties (stamp : TS) (duties : List Nat)
  /-- An I2C transfer begun on a bus: bus number (0-7 cameras, 8 lamp), device, bytes written, bytes to read. -/
  | i2c (bus dev : Nat) (data : List Byte) (readLen : Nat)
  /-- A message on the twin link. -/
  | twin (kind : Nat) (data : List Byte)
  /-- New levels of the GPO pins (R463). -/
  | gpo (stamp : TS) (levels : Nat)
  /-- An ARP reply: port, the asking station's hardware and IPv4 address, the address answered for. -/
  | arpReply (port mac ip own : Nat)
  /-- An ICMP echo reply: port, destination, identifier, sequence and data as received. -/
  | echoReply (port ip : Nat) (body : List Byte)
  deriving DecidableEq, Repr

/-- A reply outside the slots of a stream that waits to leave (R50, R52, R80): when it became ready; endpoint and generation it
goes to; stream, opcode, sequence and flags; the session whose credit it carries; result, and the status word of a re-delivery;
the two TS64 and the payload; whether it is a re-delivery of a retained reply (R48, R80). -/
structure Loose where
  order : Nat
  ep : Endpoint
  gen : Nat
  stream : Nat
  op : Nat
  seq : Nat
  flags : Nat
  sess : Option Nat
  result : Nat
  status : Option Nat
  acc : TS
  eff : TS
  payload : List Byte
  replay : Bool
  deriving DecidableEq, Repr, Inhabited

/-- The host side (R43-R73): sessions, lock, nonces, attention, rings and the PCIe link. -/
structure HostSt where
  sessions : List Session
  locked : Bool
  ownerEver : Bool
  nonces : List Nonce
  nonceCount : Nat
  attention : Nat
  epoch : Nat
  /-- The instant at which the epoch was last advanced (R56). -/
  epochAt : Option TS
  readyCount : Nat
  ordCount : Nat
  loose : List Loose
  sub : List SubRing
  rings : List ReplyRing
  pcieUp : Bool
  /-- The generation and width the PCIe link has trained to (R58). -/
  pcieGen : Nat
  pcieWidth : Nat
  perstHigh : Bool
  ethUp : List Bool
  ethSpeed : List Nat
  deriving DecidableEq, Repr

/-- A Provenance or catalogue record (R425). -/
structure Rec where
  first : TS
  last : TS
  seq : Nat
  src : Nat
  code : Nat
  count : Nat
  flags : Nat
  version : Nat
  payload : List Byte
  index : Nat
  powerups : Nat
  deriving DecidableEq, Repr, Inhabited

/-- A catalogue segment (R395, R396). -/
structure CatSeg where
  number : Nat
  acc : Nat
  entries : List Rec
  lostBefore : Nat
  firstAt : TS
  sealedAt : Option TS
  compressed : Option Nat
  job : Option Nat
  released : Bool
  deriving DecidableEq, Repr, Inhabited

/-- The Provenance log and the catalogue (R394-R399, R426-R431). -/
structure LogSt where
  recs : List Rec
  head : Nat
  mark : Nat
  clears : Nat
  seqs : List (Nat × Nat)
  savedSeqs : List (Nat × Nat)
  sinceClear : Nat
  openSeg : Option CatSeg
  segs : List CatSeg
  nextSeg : Nat
  lost : Nat
  lostEpisode : Nat
  lostFrom : TS
  lostTo : TS
  /-- The stamp of the last record written; the stamp of the command or record in whose train records are written (R82). -/
  lastTs : TS
  cause : Option TS
  deriving DecidableEq, Repr, Inhabited

/-- A parameter write accepted and waiting for its control-frame boundary (R26). -/
structure PendingWrite where
  due : TS
  sess : Nat
  stream : Nat
  seq : Nat
  op : Nat
  writes : List (Nat × Nat)
  payload : List Byte
  deriving DecidableEq, Repr, Inhabited

/-- A fault class in effect at a cell, block or region: source path, class, originating code and sequence, cause
present (R420). -/
structure FaultIn where
  src : Nat
  cls : Nat
  code : Nat
  origin : Nat
  present : Bool
  deriving DecidableEq, Repr, Inhabited

/-! ## Beam cells, the Gallery map and the Warder -/

/-- What an exposure command exposes (R94, R143). -/
inductive ExpKind where
  | list (acc off len : Nat)
  | inline (data : List Byte)
  | mark
  | rasRun
  | rasPush (desc : List Byte)
  deriving DecidableEq, Repr, Inhabited

/-- An exposure command of a cell's queue (R95, R96), with its progress: bytes fetched, whether every record has been
planned, records exposed, cancelled and skipped, and the end cause of R133. -/
structure ExpCmd where
  ord : Nat
  seq : Nat
  tag : Nat
  kind : ExpKind
  begun : Bool
  fetched : Nat
  recNo : Nat
  planned : Bool
  exposed : Nat
  cancelled : Nat
  skipped : Nat
  cause : Nat
  stamp : TS
  deriving DecidableEq, Repr, Inhabited

/-- A BEAM_ENABLE or BEAM_DISABLE that waits in the cell, with its slot (R127, R128). -/
structure CtlCmd where
  enable : Bool
  resume : Bool
  mode : Nat
  sess : Nat
  stream : Nat
  seq : Nat
  ord : Nat
  decided : Bool
  begunAt : Option TS
  deriving DecidableEq, Repr, Inhabited

/-- A vector record in the vector ring (R91): its command, index, offset in the list, bytes, and whether its header
already shows it malformed. -/
structure VRec where
  ord : Nat
  idx : Nat
  off : Nat
  data : List Byte
  bad : Bool
  deriving DecidableEq, Repr, Inhabited

/-- The shape of a piece of path. Coordinates are in 2^-40 nm (log entry 20). -/
inductive Shape where
  | hold
  | line
  | arc (cx cy : Int) (sweep : Int)
  | accel
  | decel
  deriving DecidableEq, Repr, Inhabited

/-- A piece of path in path time (ns): its geometry runs from t0 to t1, the part a..b of it is in force. -/
structure Seg where
  shape : Shape
  t0 : Int
  t1 : Int
  a : Int
  b : Int
  x0 : Int
  y0 : Int
  x1 : Int
  y1 : Int
  vid : Nat
  deriving DecidableEq, Repr, Inhabited

/-- The kinds of vector the planner tells apart (R98, R103). -/
inductive VKind where
  | none | jump | mark | arc | poly | sky | dwell | hatch | skyHatch | raster
  deriving DecidableEq, Repr, Inhabited

/-- A planned vector, hatch line or raster line: whose it is, how it is powered, its path interval, and its fate. -/
structure VecInfo where
  vid : Nat
  ord : Nat
  tag : Nat
  idx : Nat
  line : Nat
  kind : VKind
  set : Nat
  cl : Bool
  gff : Bool
  ramp : Bool
  power : Nat
  z : Int
  speed : Nat
  t0 : Int
  t1 : Int
  lastOfRec : Bool
  resolved : Bool
  done : Bool
  gateOpened : Bool
  row : Nat
  /-- How long its gate has been open (R131). -/
  openNs : Nat
  /-- The stamp of the edge that started a raster line in line sync (R145, R167). -/
  edge : TS
  deriving DecidableEq, Repr, Inhabited

/-- A gate interval in path time (R104-R107). -/
structure GateInt where
  t0 : Int
  t1 : Int
  vid : Nat
  opened : Bool
  closed : Bool
  deriving DecidableEq, Repr, Inhabited

/-- A Warder segment: the path from one pause point to the next, its core cells (R160, R161), and its request:
0 not posted, 1 pending, 2 reserved, 3 granted. -/
structure WSeg where
  id : Nat
  t0 : Int
  t1 : Int
  core : List Nat
  status : Nat
  posted : TS
  age : Nat
  reservedAt : Nat
  size : Nat
  excl : Bool
  vec : Nat
  tag : Nat
  started : Bool
  deriving DecidableEq, Repr, Inhabited

/-- A path step interpolated and mapped ahead of the laser (R91, R156): bed point, Gallery factor, head setpoints. -/
structure Ahead where
  t : Int
  x : Int
  y : Int
  g : Nat
  mx : Int
  my : Int
  mf : Int
  deriving DecidableEq, Repr, Inhabited

/-- The planner's place at the end of the path planned so far. -/
structure PlanSt where
  cx : Int
  cy : Int
  hx : Int
  hy : Int
  tEnd : Int
  prev : VKind
  prevVid : Nat
  tanX : Int
  tanY : Int
  chainOpen : Bool
  cands : List Int
  /-- The path starts of JUMPs for which the waits of R93 are not settled yet. -/
  starts : List Int
  segStart : Int
  rateT : Int
  rateWaits : Nat
  deriving DecidableEq, Repr, Inhabited

/-- Where a beam was interrupted (R130, R131). -/
structure Intr where
  vid : Nat
  t : Int
  x : Int
  y : Int
  cause : Nat
  part : Bool
  openNs : Nat
  lx : Int
  ly : Int
  /-- The path stands at a pause point (R92, R112). -/
  still : Bool
  deriving DecidableEq, Repr, Inhabited

/-- A shutdown under way (R128): mode, its beginning, the ramp, whether the gate has closed and the park motion begun. -/
structure Shut where
  mode : Nat
  cause : Nat
  began : TS
  /-- The ramp of a NOW disable: its first micro-step and its length; length 0 for none. -/
  rampAt : Int
  ramp : Nat
  closed : Bool
  /-- The jump to park: its start and its end, and the end of the wait behind it (R128, R240). -/
  parkFrom : Int
  parkTo : Int
  parkT : Option Int
  deriving DecidableEq, Repr, Inhabited

/-- The raster timing generator of a beam (R141-R151). -/
structure RasSt where
  pending : Option (List Byte)
  pendingSeq : Nat
  pendingFresh : Bool
  active : Option (List Byte)
  blanking : Bool
  exposed : Nat
  skipped : Nat
  clamped : Nat
  repeated : Nat
  bufRows : List Nat
  /-- 64-byte pieces of buffered rows that have not arrived after an error of the buffer: the row's key and the piece (R346, R356). -/
  lost : List (Nat × Nat)
  cache : List (Nat × List Nat)
  regionOpen : Bool
  halts : List CtlCmd
  edges : List TS
  xingT : TS
  xingPos : Int
  xingKnown : Bool
  /-- The model's count of the command whose region is open, and where the last line done ended (R143, R151). -/
  regionOrd : Nat
  endAt : Option Int
  /-- The active region failed its field check (R142). -/
  outside : Bool
  /-- The row for whose start the turnaround has been planned in line sync (R145, R147). -/
  turned : Option Nat
  /-- The pixel on the laser timeline, by vector and place, with the power scale and the shapes it keeps (R150). -/
  pix : Option (Nat × Nat)
  pixScale : Nat
  pixShapes : List Nat
  /-- The last change of RAS_PSCALE or RAS_SHAPE, and the values before it. -/
  scaleAt : TS
  oldScale : Nat
  oldShapes : List Nat
  deriving DecidableEq, Repr, Inhabited

/-- A beam's deposit not yet written to the map (R155); `ord` the model's count of the command of its first step (R83); `shut` where the
gate has closed since. -/
structure Deposit where
  cell : Nat
  energy : Nat
  since : TS
  lastMs : Nat
  ord : Nat
  shut : Bool
  deriving DecidableEq, Repr, Inhabited

/-- The laser port of a beam (R113-R121): input levels, outputs, the correction path and the powers of the frame. -/
structure LaserSt where
  readyIn : Bool
  alarmIn : Bool
  /-- READY_IN and ALARM_IN as the last micro-step sampled them (R120). -/
  readyS : Bool
  alarmS : Bool
  syncIn : Bool
  gate : Bool
  gateOnAt : TS
  modOut : Bool
  /-- The 16 bits of AOUT (R116). -/
  aout : Nat
  power : Nat
  powers : List Nat
  cPrev : Int
  cNow : Int
  cNext : Option Int
  openFrame : Bool
  openPrev : Bool
  nextPulse : Option TS
  /-- The pulse width of mode 1 in the micro-step under way (R116, R138). -/
  pulseWidth : Nat
  /-- The path time at which the micro-step under way begins, the time up to which its edges are out, and how long the gate has been
  open in it without a deposit. -/
  stepAt : Int
  ranTo : Int
  openNs : Nat
  lastSync : TS
  identTries : Nat
  /-- The tick at which the IDENT attempt in progress was sent (R119). -/
  identAt : Option TS
  identOk : Bool
  lastBase : Nat
  lastVid : Nat
  prevBase : Nat
  deriving DecidableEq, Repr, Inhabited

/-- Running sums of a MELT_SUM run (R397), in exact units of the binary32 values summed. -/
structure MeltSt where
  openFrames : Nat
  validFrames : Nat
  sumT : Int
  sumI : Int
  sumC : Int
  sumG : Int
  openG : Nat
  frameOpen : Bool
  gNow : Option Nat
  deriving DecidableEq, Repr, Inhabited

/-- A beam cell (R90-R134). -/
structure Beam where
  st : Nat
  cmds : List ExpCmd
  ctl : List CtlCmd
  arming : Option CtlCmd
  armAt : TS
  closers : List CtlCmd
  ring : List VRec
  segs : List Seg
  gates : List GateInt
  vecs : List VecInfo
  wsegs : List WSeg
  plan : PlanSt
  vids : Nat
  wids : Nat
  front : Int
  committed : Int
  ahead : List Ahead
  hold : Option Int
  holdNow : Bool
  holdAt : TS
  starved : Bool
  intr : Option Intr
  shut : Option Shut
  fcAcc : Nat
  hmAcc : Nat
  /-- ADV before its last change, and the path time from which the committed setpoints follow the new one (R90, R91). -/
  advOld : Nat
  advFrom : Int
  /-- The interruption whose resume point the laser timeline has not reached yet (R131). -/
  resumed : Option Intr
  /-- The planner's place before the path planned for an ARMED beam (R35, R98). -/
  readyPlan : Option PlanSt
  px : Int
  py : Int
  laser : LaserSt
  ras : RasSt
  dep : Option Deposit
  melt : MeltSt
  tagNow : Nat
  deriving DecidableEq, Repr, Inhabited

/-- A zone the Warder keeps in force (R162). -/
structure Zone where
  beam : Nat
  id : Nat
  core : List Nat
  future : Bool
  excl : Bool
  haloUntil : Option TS
  plumeUntil : Option TS
  /-- The gate of its segment is open; its last gate-close, if it has opened (R162, R165). -/
  gateOn : Bool
  lastClose : Option Int
  deriving DecidableEq, Repr, Inhabited

/-- The Gallery map and the Warder (R152-R166). A cell not listed is cold. Snapshots asked for, the first under way: its slot and
target; the map as it was when the copy started, and when (R159). -/
structure GalSt where
  cells : List (Nat × Nat)
  acc : Nat
  sweptAt : TS
  expStop : TS
  expOn : Bool
  zones : List Zone
  resCount : Nat
  snaps : List (Ticket × Nat)
  snapCells : List (Nat × Nat)
  snapSwept : TS
  snapAt : TS
  deriving DecidableEq, Repr, Inhabited

/-! ## Head ports, the Conservator and the legacy ports -/

/-- A head port cell (R221-R240): link state, consecutive good frames, pages received, alignment, the last frame's
error, the rows of this frame and when they were available, the delay measurement, the type and AXMODE sent, the axes
the head ran by its own loop, supervision counts, the causes present, the light samples and their stamps, whether the
measurement of this frame is valid, when the last frame was sent, setpoints of the last, this and the next frame, the
currents, the running disparity of either direction, the idle commas in a row on which the words were found aligned. The
delays of the last good frames are held doubled, so that halves of a nanosecond stay (R223). -/
structure HeadPort where
  state : Nat
  goodRun : Nat
  page0 : Bool
  page1 : Bool
  aligned : Bool
  lastErr : Bool
  arrived : Bool
  rowsOk : Bool
  rowsAt : Nat
  aLast : Nat
  delta : Int
  dHist : List Int
  trainAt : TS
  typeSent : Nat
  axmode : Nat
  ownLoop : Nat
  posPrev : List Int
  velCnt : List Nat
  folCnt : List Nat
  over192 : Nat
  noFollow : Nat
  causes : Nat
  pyr : List Nat
  meltOk : Bool
  sentAt : TS
  sent : Bool
  atTarget : Bool
  latched : Bool
  setPrev : List Int
  setNow : List Int
  setNext : List Int
  cur : List Int
  curFresh : List Bool
  pyrOk : Bool
  latchAt : TS
  pyrAt : List TS
  txRd : Bool
  rxRd : Option Bool
  commas : Nat
  deriving DecidableEq, Repr, Inhabited

/-- What a Conservator slot holds beside its parameters (R177, R186-R200): kind and targets, mode, IMPL, whether it is
in MANUAL by command, a bumpless transfer due, the mode changes not recorded yet, notch states, held frames, row-2
predictions by frame, the last camera record used, mean-square current, the linear moves of R196, the last change of a
hysteretic output, the rows of the last frame, and x after its step 2. -/
structure CSlot where
  kind : Nat
  a : Nat
  b : Nat
  mode : Nat
  impl : Bool
  byCmd : Bool
  xfer : Bool
  recs : List (Nat × Nat)
  notch : List Nat
  held : Nat
  hist : List (Nat × Nat)
  camUsed : List (Nat × Nat)
  ms : Nat
  ramp : List (Option Nat)
  rampFrom : List Nat
  hyAt : TS
  y : List Nat
  x2 : List Nat
  valid : Nat
  lateRow : Bool
  heldNow : Bool
  deriving DecidableEq, Repr, Inhabited

/-- A trace (R206). -/
structure Trace where
  slot : Nat
  acc : Nat
  frames : Nat
  written : Nat
  sess : Nat
  stream : Nat
  seq : Nat
  from_ : TS
  deriving DecidableEq, Repr, Inhabited

/-- A blob record as published in a pipeline's slot of the system pages (R175, R312). -/
structure Blob where
  fn : Nat
  ts : TS
  area : Nat
  peak : Nat
  spat : Nat
  pubAt : TS
  deriving DecidableEq, Repr, Inhabited

/-- The Conservator: slots, slot table in force, slots that will miss the deadline of this frame, trace, the newest
blob records, and the ones read at the tick of this frame. -/
structure CnsSt where
  slots : List CSlot
  order : List Nat
  late : List Nat
  trace : Option Trace
  blobs : List (Option Blob)
  seen : List (Option Blob)
  deriving DecidableEq, Repr, Inhabited

/-- An XY2-100 port: the last status frame had bad parity (R247). -/
structure Xy2Port where
  lastBad : Bool
  causeNow : Bool
  deriving DecidableEq, Repr, Inhabited

/-! ## Motion -/

/-- A latch of a feedback port (R267). -/
structure FLatch where
  captured : Bool
  past : Bool
  pos : Int
  raw : Int
  speed : Nat
  valid : Bool
  uncertain : Bool
  posTs : TS
  trigTs : TS
  deriving DecidableEq, Repr, Inhabited

/-- A feedback port cell (R252-R267): levels of A, B, Z and the Hall code, the last legal Hall state; counts; flags; the
fault's cause; what the speed rule keeps (reference, last edge, last direction); illegal transitions of the last 1 ms
with whether each is an impossible Hall state; the sin/cos phase and the last sample; runs of bad amplitudes and reads;
the last absolute read; the latches and the triggers of a type 2 port that await the next sample, with POS at the sample before;
the levels at the balls of A, B, Z, U, V, W and TRIG with the entry stamp of their last change (R253), the accepted level of TRIG,
the first MA edge of the last read begun; the next sample of an impossible Hall state that has not been counted; and whether latch 2 has
captured an index that no homing has taken yet, with RAW there. -/
structure FbkPort where
  a : Bool
  b : Bool
  z : Bool
  hall : Nat
  hallLast : Nat
  pos : Int
  raw : Int
  valid : Bool
  uncertain : Bool
  fault : Bool
  hallBad : Bool
  ampBad : Bool
  absCrc : Bool
  still : Bool
  cause : Nat
  armed : Bool
  ref : Option (Int × TS)
  last : Int × TS
  dLast : Option Bool
  ills : List (TS × Bool)
  phase : Option Nat
  sampT : TS
  sampRaw : Int
  ampRun : Nat
  absPrev : Option Nat
  absBad : Nat
  neRun : Nat
  absAt : Option TS
  absTs : TS
  latches : List FLatch
  trig : List (Nat × TS × Int)
  idxRaw : Int
  ins : List (Bool × TS)
  trg : Bool
  maAt : Option TS
  hallNext : TS
  idxHit : Bool
  deriving DecidableEq, Repr, Inhabited

/-- An entry of the position page (R266); `ok` tells that it is not marked invalid. -/
structure PageEntry where
  pos : Int
  raw : Int
  speed : Nat
  flags : Nat
  ts : TS
  ok : Bool
  deriving DecidableEq, Repr, Inhabited

/-- An output group (R268, R271): S0, output count wanted, count emitted, edges owed as signed runs in order, last edge placed, the edges
placed in the frame in progress that have not come yet. -/
structure OutGrp where
  s0 : Int
  want : Int
  emitted : Int
  owed : List Int
  lastEdge : TS
  placed : List (TS × Int)
  deriving DecidableEq, Repr, Inhabited

/-- A move (R274), or a homing (R279): mode 3. `seq` is the sequence of its command (R86), `ord` the model's count of it (R83). -/
structure Move where
  mode : Nat
  target : Int
  fromEnd : Bool
  spd : Nat
  acc : Nat
  dec : Nat
  jerk : Nat
  tag : Nat
  due : TS
  seq : Nat
  ord : Nat
  deriving DecidableEq, Repr, Inhabited

/-- A piece of a planned profile: start in 2^-16 ns, duration, and position, speed, acceleration, jerk at its start in
2^-32 units and seconds. -/
structure PPhase where
  t0 : Int
  dur : Int
  p0 : Int
  v0 : Int
  a0 : Int
  j : Int
  deriving DecidableEq, Repr, Inhabited

/-- A PRF_CHANGE that waits for its boundary (R275). -/
structure PrfChange where
  k : Ticket
  due : TS
  spd : Option Nat
  acc : Option Nat
  dec : Option Nat
  deriving DecidableEq, Repr, Inhabited

/-- A profile cell (R272-R281): state; position in 2^-16 units at the last tick; plan and exact end; running move and
queue; target of the move before; DEC deferred to later moves; ACC and DEC in effect; changes and stops that wait;
the state to enter at rest; homing stage, P and tag; references and count of the stall rule; fault cause. The output of the frame in
progress goes in a straight line from `lo` at `lt` to `hi` at `ht`, in 2^-16 units; `reach` is the unit up to which the phase index has
followed it, or its pulses have been placed (R272). `ord` is the model's count of the move begun last (R83), `limited` whether a limit
has stopped it (R278). -/
structure PrfCell where
  st : Nat
  pos : Int
  spd : Int
  plan : List PPhase
  endAt : Option Int
  run : Option Move
  queue : List Move
  lastTarget : Option Int
  decLater : Option Nat
  acc : Nat
  dec : Nat
  changes : List PrfChange
  stopAsk : Option (Bool × TS)
  stoppers : List Ticket
  offs : List Ticket
  after : Nat
  home : Nat
  homeP : Int
  homeTag : Nat
  c0 : Int
  r0 : Int
  devRun : Nat
  cause : Nat
  restAt : TS
  lt : TS
  ht : TS
  lo : Int
  hi : Int
  reach : Int
  ord : Nat
  limited : Bool
  deriving DecidableEq, Repr, Inhabited

/-- The chopper of a coil (R283): its phase (0 bridge off, 1 on, 2 fast decay, 3 slow decay) and the instant it ends (0: none),
the lengths of the two parts of this cycle's off phase, and whether the coil is driven forward. -/
structure Chop where
  phase : Nat
  till : TS
  fast : Nat
  slow : Nat
  fwd : Bool
  deriving DecidableEq, Repr, Inhabited

/-- A stepper stage (R282-R284), with the choppers of its coils. -/
structure StpSt where
  on : Bool
  oc : Bool
  openA : Bool
  openB : Bool
  uv : Bool
  fault : Bool
  holding : Bool
  phase : Nat
  chopA : Chop
  chopB : Chop
  deriving DecidableEq, Repr, Inhabited

/-- A STEP pulse not yet emitted (R285): the instant of its unit crossing, its direction, the model's count of its move, and when it was
placed. -/
structure Pulse where
  due : TS
  dir : Bool
  ord : Nat
  placed : TS
  deriving DecidableEq, Repr, Inhabited

/-- A step/direction cell (R285): enabled, DIR, the FLT level at its ball, pulses not yet emitted, the last pulse and the
last change of DIR. -/
structure SdSt where
  on : Bool
  dir : Bool
  flt : Bool
  owed : List Pulse
  lastPulse : TS
  dirAt : TS
  stopped : Bool
  deriving DecidableEq, Repr, Inhabited

/-- A switch input (R277): the level at its ball; accepted level, and an edge in its debounce: entry stamp, level, latched position
and count. -/
structure SwSt where
  ball : Bool
  level : Bool
  pend : Option (TS × Bool × Int × Int)
  homeEdge : Bool
  deriving DecidableEq, Repr, Inhabited

/-- The motion region. -/
structure MotSt where
  ports : List FbkPort
  page : List PageEntry
  outs : List OutGrp
  cells : List PrfCell
  stps : List StpSt
  sds : List SdSt
  sws : List SwSt
  vmotLow : Bool
  vmot : Nat
  deriving DecidableEq, Repr, Inhabited

/-! ## Vision and the lamp -/

/-- An output slot of a pipeline (R306): its accessions; owner 0 free, 1 taken by the pipeline, 2 the host, 3 left. -/
structure PSlot where
  frame : Nat
  stats : Nat
  comp : Nat
  owner : Nat
  deriving DecidableEq, Repr, Inhabited

/-- A frame in progress (R294-R298): channel, sensor number, frame number, slot, stamps, lines (none: a bad one),
generation, lamp pattern and its window's start, and the parameters of its stages as latched at its start. -/
structure PFrame where
  vc : Nat
  n : Nat
  fn : Nat
  slot : Option Nat
  start : TS
  lastPkt : TS
  lines : List (Option (List Nat))
  ecc : Nat
  ovf : Bool
  mixed : Bool
  gen : Nat
  pat : Nat
  patTs : TS
  cfg : List Nat
  deriving DecidableEq, Repr, Inhabited

/-- A frame that has ended and whose results are not all published (R308, R312, R313): its status, the statistics
accession's bytes and the blob record, whether they are published and compression is awaited, the compressed result, the index and
slot accessions it was given, and the number of that slot. `slot` is none once PIPE_BUFS has replaced the ring. -/
structure PDone where
  fn : Nat
  gen : Nat
  start : TS
  ended : TS
  slot : Option Nat
  status : Nat
  pat : Nat
  stats : List Byte
  blob : List Byte
  published : Bool
  zip : Bool
  comp : Nat
  index : Nat
  accs : PSlot
  place : Nat
  deriving DecidableEq, Repr, Inhabited

/-- The reference of the temporal filter (R301): frame, slot, its accession on loan, and what must agree. -/
structure PRef where
  fn : Nat
  slot : Nat
  acc : Nat
  vc : Nat
  w : Nat
  h : Nat
  gen : Nat
  deriving DecidableEq, Repr, Inhabited

/-- A commit of register writes (R314, R315): generation, writes (device, register, bytes as sent on the bus), slot of a commit
accepted while STOPPED, sequence, F, whether its writes have begun. -/
structure Commit where
  gen : Nat
  writes : List (Nat × Nat × List Byte)
  k : Option Ticket
  seq : Nat
  f : Nat
  begun : Bool
  deriving DecidableEq, Repr, Inhabited

/-- A single bus transfer (R317, R333). -/
structure I2cXfer where
  k : Ticket
  dev : Nat
  data : List Byte
  readLen : Nat
  ready : Bool
  begun : Bool
  deriving DecidableEq, Repr, Inhabited

/-- A camera pipeline (R295-R319). -/
structure PipeSt where
  run : Bool
  stops : List Ticket
  /-- Stops that have taken effect and wait for the last index entry (R319). -/
  ending : List Ticket
  index : Nat
  slots : List PSlot
  last : Nat
  deflate : Bool
  fn : Nat
  nLast : Nat
  first : Bool
  cur : Option PFrame
  drop : List (Nat × Option TS)
  done : List PDone
  ref : Option PRef
  shade : Nat
  gen : Nat
  commits : List Commit
  wframes : List (Nat × Nat)
  baseGen : Nat
  badGens : List Nat
  ended : Option Nat
  xfers : List I2cXfer
  trigs : List TS
  trigAt : TS
  pub : List Byte
  deriving DecidableEq, Repr, Inhabited

/-- A strobe window (R329): pattern, start, end. -/
structure Window where
  pat : Nat
  start : TS
  stop : TS
  deriving DecidableEq, Repr, Inhabited

/-- A short test under way (R326): the command that waits, its beginning, whether it is LAMP_ENABLE, and the state before. -/
structure LampTest where
  k : Ticket
  began : TS
  enable : Bool
  back : Nat
  deriving DecidableEq, Repr, Inhabited

/-- The lamp block (R321-R331): state; test; masks; patterns; origin of the PWM periods; duties set but not in force, with
their period start; effective duties in force by row * 16 + channel, since when, and those before; the instants before which the steady
outputs and the windows do not act; NTC faulted; sequence step, windows shown, windows whose start lies ahead (start, pattern, width),
windows kept for attribution. -/
structure LampSt where
  st : Nat
  test : Option LampTest
  disabled : Nat
  openMask : Nat
  shorts : List (Nat × Nat)
  patterns : List (List Nat)
  pwm0 : TS
  sets : List (Ticket × TS × List (Nat × Nat × Nat))
  effAt : Option TS
  eff : List Nat
  effFrom : TS
  effPrev : List Nat
  holdTo : TS
  liveAt : TS
  ntcBad : Bool
  step : Nat
  shown : Nat
  due : List (TS × Nat × Nat)
  windows : List Window
  xfers : List I2cXfer
  deriving DecidableEq, Repr, Inhabited

/-! ## The Accession Store -/

/-- An accession (R336-R341): state code of R339, size, loans, poisoned lines and their saturating count, pin, creation,
and for a FREEING one the instant and loans of its free. -/
structure Accn where
  state : Nat
  size : Nat
  granules : Nat
  loans : Nat
  poison : List Nat
  poisonCount : Nat
  pinned : Bool
  created : TS
  freedAt : TS
  loansAtFree : Nat
  /-- The channel its first granule is on, and its granules on channels 0 and 1 (R337). -/
  start : Nat
  g0 : Nat
  g1 : Nat
  deriving DecidableEq, Repr, Inhabited

/-- The unit that reads a line of the store (R356): a beam's vector or table fetch, its line buffer, a Gallery map cell, a
Warder cell, the position page, a pipeline's reference or lens-shading grid, an engine's input, a host transport, or the
store front on its own behalf. -/
inductive Requester where
  | vector (beam : Nat)
  | table (beam : Nat)
  | raster (beam : Nat)
  | gallery (cell : Nat)
  | warder (cell : Nat)
  | page (port : Nat)
  | pipeRef (pipe : Nat)
  | pipeShade (pipe : Nat)
  | zip (engine : Nat)
  | host (cell : Nat)
  | front
  deriving DecidableEq, Repr, Inhabited

/-- What a read of a line met: no error, a single-bit or an uncorrectable error in DRAM, the same in the store front. -/
inductive ReadError where
  | none | dramSingle | dramUncorrectable | sramSingle | sramUncorrectable
  deriving DecidableEq, Repr, Inhabited

/-- A job of a compression engine (R362-R365): kind 0 compress, 1 decompress, 2 frame compression of a pipeline,
3 catalogue segment. -/
structure ZipJob where
  kind : Nat
  sess : Nat
  stream : Nat
  seq : Nat
  framing : Nat
  dyn : Bool
  input : Nat
  off : Nat
  len : Nat
  output : Nat
  chain : Nat
  ref : Nat
  began : Option TS
  deriving DecidableEq, Repr, Inhabited

/-- A compression engine: host queue, pipeline queue, and whose turn is next (R364, R365). -/
structure ZipEng where
  jobs : List ZipJob
  pipe : List ZipJob
  running : Option ZipJob
  pipeTurn : Bool
  deriving DecidableEq, Repr, Inhabited

/-- A rank of DRAM (R350-R360): STATE code, open row of each bank, postponed refreshes, the row-hammer tables of its
banks (row, count), last use, and the source of its training set. -/
structure Rank where
  state : Nat
  openRow : List (Option Nat)
  postponed : Nat
  rh : List (List (Nat × Nat))
  lastUse : TS
  /-- Of each bank, its last access (R351). -/
  used : List TS
  /-- When its next REF falls due (R352). -/
  refDue : TS
  deriving DecidableEq, Repr, Inhabited

/-- A 64-byte line in the store front's cache (R345): the key of its first byte, and whether it awaits its write-back. -/
structure CacheLine where
  key : Nat
  dirty : Bool
  deriving DecidableEq, Repr, Inhabited

/-- A command issued to a rank that has not been acknowledged (R357): 0 activate, 1 read, 2 REF, 3 precharge, with its bank and row, and
when it was issued. -/
structure DramCmd where
  kind : Nat
  rank : Nat
  bank : Nat
  row : Nat
  at_ : TS
  deriving DecidableEq, Repr, Inhabited

/-- A DMA transfer or a pin copy under way. -/
structure StoreJob where
  sess : Nat
  stream : Nat
  seq : Nat
  acc : Nat
  off : Nat
  len : Nat
  addr : Nat
  inward : Bool
  deriving DecidableEq, Repr, Inhabited

/-- The store region. `mem` lists the bytes that have been written, keyed accession * 2^30 + offset, in rising order; `cache` the lines
that the store front holds, the last used first (R345); `pinBad` the lines of pinned copies that hold an uncorrectable error (R346);
`retry` and `rhAt` of each channel its retry buffer (R357) and the last clearing of its row-hammer tables (R354). -/
structure StoreSt where
  accs : List (Nat × Accn)
  mem : List Host.Cell
  next : List Nat
  dma : List StoreJob
  pins : List StoreJob
  zips : List ZipEng
  ranks : List Rank
  stopped : Bool
  cache : List CacheLine
  pinBad : List (Nat × Nat)
  retry : List (List DramCmd)
  rhAt : List TS
  deriving DecidableEq, Repr, Inhabited

/-! ## Time base -/

/-- What the start of a PTP message on the line leaves to do (R382): nothing; a Sync's follow-up (sequence, log interval); the stamp of a delay
request (sequence); the follow-up of a peer delay response (sequence, correction, requester). -/
inductive Egress where
  | plain
  | sync (seq logInt : Nat)
  | delay (seq : Nat)
  | resp (seq : Nat) (corr : Int) (sender : Nat)
  deriving DecidableEq, Repr, Inhabited

/-- A frame that gives way to a launch (R388): its port, what is put out, its length, and what its start leaves to do. -/
structure MacFrame where
  port : Nat
  out : Output
  len : Nat
  egress : Egress
  deriving DecidableEq, Repr

/-- A frame queued for launch (R388), with the stream and sequence of its command (R86). -/
structure Launch where
  tag : Nat
  due : TS
  data : List Byte
  stream : Nat
  seq : Nat
  ord : Nat
  deriving DecidableEq, Repr, Inhabited

/-- A step of the time base to be made at a frame tick (R378): its amount, or the TS64 it steps to; the tick by its frame
number, the next one where none is named; the cause of TIME_STEP; held in EXPOSE; the TIME_SET that waits. -/
structure StepReq where
  amount : Nat
  dest : Option TS
  frame : Option Nat
  cause : Nat
  held : Bool
  k : Option Ticket
  deriving DecidableEq, Repr, Inhabited

/-- A foreign master heard on a PTP port: its port identity, the data set its Announce gives (priority1, clockClass,
accuracy, variance, priority2, grandmaster identity), stepsRemoved, when it was last heard and how often. -/
structure Foreign where
  sender : Nat
  rank : List Nat
  steps : Nat
  heardAt : TS
  heard : Nat
  deriving DecidableEq, Repr, Inhabited

/-- A PTP port (R380-R383): portState, foreign masters, the Sync that awaits its Follow_Up (sequence, t2, correction), the last
Sync (t1, t2 with corrections, in 2^-16 ns), the delay request sent (sequence, t3 or t1), a peer delay response that awaits
its Follow_Up (t2, t4, correction), the mean delay in 2^-16 ns, whether it has been measured, the sequences sent (Announce,
Sync, delay requests), when the port entered its state. -/
structure PtpPort where
  state : Nat
  foreign : List Foreign
  sync : Option (Nat × Int × Int)
  last : Option (Int × Int)
  req : Option (Nat × Int)
  resp : Option (Int × Int × Int)
  delay : Int
  measured : Bool
  seqs : List Nat
  since : TS
  deriving DecidableEq, Repr, Inhabited

/-- The time block (R370-R393): VALID; the servo's i and y as binary32, its state, offsets within LOCK_THR in a row, offsets
not yet taken (θ, T), the last one and when it came; AHEAD; a step to be made; launches and the end of the frame on the line,
per port; PTP ports; whether TWIN_REF is in use; the last segment the partner sealed and its greatest TS64. -/
structure TimeSt where
  valid : Bool
  i : Nat
  y : Nat
  st : Nat
  lockRun : Nat
  offers : List (Int × Nat)
  lastOfs : Int
  lastAt : TS
  ahead : Bool
  step : Option StepReq
  launches : List (List Launch)
  lineFree : List TS
  /-- Frames that give way to a launch (R388), in the order in which they came. -/
  mac : List MacFrame
  ptp : List PtpPort
  twinRef : Bool
  lastSeal : Option (Nat × TS)
  /-- The fraction below TS64, in 2^-32 ns, that no stamp carries (R370). -/
  frac : Nat
  deriving DecidableEq, Repr, Inhabited

/-! ## Twin pair -/

/-- A forwarded item the SHADOW has not acknowledged yet (R406): a command, or a decided reply. -/
structure FwdItem where
  reply : Bool
  stream : Nat
  seq : Nat
  bytes : Nat
  deriving DecidableEq, Repr, Inhabited

/-- A command of the owner session that waits for its point of effect in a pair (R406): the instant, and whether the
SHADOW has acknowledged it. -/
structure Held where
  stream : Nat
  seq : Nat
  due : TS
  acked : Bool
  deriving DecidableEq, Repr, Inhabited

/-- A forwarded reply that the SHADOW compares with its own decision (R407). -/
structure FwdReply where
  stream : Nat
  seq : Nat
  result : Nat
  eff : TS
  payload : List Byte
  deriving DecidableEq, Repr, Inhabited

/-- The twin block (R401-R416): PAIRED as taken at start-up, ownership, states, what the partner has told, the sideband levels, the heartbeat, the
forwarding queues, the state transfer under way, the takeover under way, and whether TWIN_KILL_IN has cut its head links. -/
structure TwinSt where
  paired : Bool
  own : Bool
  ownAt : TS
  state : Nat
  partner : Nat
  partnerFw : Nat
  mismatch : Bool
  killOut : Bool
  killIn : Bool
  linksCut : Bool
  faultIn : Bool
  hbAt : Option TS
  hbOut : Bool
  hbStop : Bool
  linkUp : Bool
  heardAt : TS
  heard : Bool
  negAt : TS
  lost : Bool
  resolving : Bool
  digestFrame : Nat
  digestSent : Option Nat
  fwd : List FwdItem
  held : List Held
  replies : List FwdReply
  mirrored : Nat
  reAttempt : Nat
  reBegan : TS
  reBytes : Nat
  reAsked : Option Ticket
  takeD : Option TS
  takeH : Option TS
  trigger : Nat
  release : Bool
  measured : Bool
  takeB : Option TS
  cold : Bool
  switchAt : Option TS
  seize : Option Ticket
  twinOfs : Int
  copied : Bool
  powerAt : Option (Nat × TS)
  deriving DecidableEq, Repr, Inhabited

/-! ## Management plane -/

/-- A key slot (R432): level 0 empty, 1 OPERATE, 2 INTEGRATE. -/
structure KeySlot where
  level : Nat
  written : TS
  writer : Nat
  key : List Byte
  deriving DecidableEq, Repr, Inhabited

/-- A calibration entry that has been written since the factory (R453, R454). -/
structure CalEnt where
  value : Nat
  writer : Nat
  written : TS
  deriving DecidableEq, Repr, Inhabited

/-- A firmware image slot (R450-R452): whether its image passes the checks of R451 but the grade, version, grade mask. -/
structure FwSlot where
  good : Bool
  version : Nat
  grades : Nat
  deriving DecidableEq, Repr, Inhabited

/-- A rank's training set (R353): the die serial and the DRAM temperature, in 0.1 °C, that it was made with, and when. -/
structure TrainSet where
  serial : Nat
  temp : Int
  made : TS
  deriving DecidableEq, Repr, Inhabited

/-- What the MRAM keeps across resets beside the log: power-ups, keys, calibration, presets, images, the cause of a
shutdown for the next start-up, and which ranks have a stored training set. -/
structure MramSt where
  powerups : Nat
  keys : List KeySlot
  cal : List (Nat × CalEnt)
  calBad : Bool
  presets : List (Nat × Nat)
  fw : List FwSlot
  fwPref : Nat
  shutdown : Option (List Byte)
  trained : List (Option TrainSet)
  deriving DecidableEq, Repr, Inhabited

/-- A firmware load under way (R452): its slot, target slot, accession; the image verified when a block was checked, and the instant
at which the block's entries took effect (R77). -/
structure FwJob where
  k : Ticket
  slot : Nat
  acc : Nat
  img : Option FwSlot
  since : TS
  deriving DecidableEq, Repr, Inhabited

/-- A POWER_REQUEST under way (R439): its slot, target state, when it was accepted, and whether the steps before STANDBY have
begun (R442). -/
structure PowerReq where
  k : Ticket
  target : Nat
  accepted : TS
  leaving : Bool
  deriving DecidableEq, Repr, Inhabited

/-- An edge latch of AON (R475): source, direction, AON tick of the first edge, count. -/
structure AonLatch where
  id : Nat
  rising : Bool
  tick : Nat
  count : Nat
  deriving DecidableEq, Repr, Inhabited

/-- A housekeeping channel (R457-R459): values of the last rounds with their instants, newest first, the flags of the last
round, and the cause of a warn. -/
structure HkChan where
  hist : List (Nat × TS)
  faulted : Bool
  warn : Bool
  shut : Bool
  limit : Bool
  cause : Nat
  deriving DecidableEq, Repr, Inhabited

/-- Power state, pins and housekeeping of the management plane. -/
structure PowerSt where
  state : Nat
  laserEnA : Bool
  laserEnB : Bool
  safety : Bool
  enDiff : Option TS
  enLow : Bool
  enHigh : Option TS
  req : Option PowerReq
  halted : Nat
  recovery : Bool
  fwRun : Nat
  started : Bool
  pwrGood : Bool
  inReset : Bool
  vin : Bool
  ilkPins : Nat
  gpoPin : Nat
  stbyAt : Option TS
  stbyFrom : TS
  stbyLast : TS
  aonTicks : Nat
  aon : List AonLatch
  hk : List HkChan
  hkAt : TS
  hkNo : Nat
  hkStamps : List TS
  fwJob : Option FwJob
  deriving DecidableEq, Repr, Inhabited

/-- A pending edge source of Docent (R467). -/
structure DocPend where
  count : Nat
  since : TS
  deriving DecidableEq, Repr, Inhabited

/-- Docent (R465-R476): pending edge sources, active levels with the instant they became active, the two
stacks (top first), whether a source has been eligible since the last claim or complete,
the firmware target's disable, and its entry or exit sequence under way. -/
structure DocSt where
  pend : List (Nat × DocPend)
  active : List (Nat × TS)
  stackH : List Nat
  stackF : List Nat
  seen : Bool
  fDis : Bool
  fEntry : Option (Nat × TS)
  fExit : Option TS
  deriving DecidableEq, Repr, Inhabited

/-- Clock gating of a block (R33-R35): CLK_STATE, the instant since which it is idle, and when a request last reached it
gated. -/
structure BlkSt where
  clk : Nat
  idleAt : TS
  askedAt : TS
  deriving DecidableEq, Repr, Inhabited

/-! ## State transfer -/

/-- What a state transfer copies (R410): the boundary it names; the items of the digest table (R409); the owner session with its
streams and slots; the catalogue's segments; and, of its second part, the Gallery map and lease table and the accessions. -/
structure Copy where
  boundary : TS
  bytes : Nat
  beams : List Beam
  heads : List HeadPort
  cns : CnsSt
  gal : GalSt
  xy2 : List Xy2Port
  mot : MotSt
  pipes : List PipeSt
  lamp : LampSt
  owner : Session
  params : List (Nat × Nat)
  writes : List PendingWrite
  nextSeg : Nat
  segs : List CatSeg
  accs : List (Nat × Accn)
  mem : List Host.Cell
  next : List Nat
  stackH : List Nat
  launches : List (List Launch)
  deriving DecidableEq, Repr, Inhabited

end Sys2Proof.Machine
end

