-- ==== Sys2Proof/Syntax.lean ====
section
/-!
DEFINITION. The commands of the block: one constructor per row of the table of operations and events.
A host command carries the packet that holds it; an event carries its TS64 stamp and what its pins bring.
-/
namespace Sys2Proof

open Sys2Proof.Machine

/-- An SHP3 or SHP2 packet whose header check has passed (R38, R87). Its opcode is the one of the row that carries it.
stamp: TS64 of its arrival; gen: generation byte; trailerOk: the CRC-32C trailer holds. -/
structure Packet where
  ep : Endpoint
  stamp : TS
  gen : Nat
  flags : Nat
  stream : Nat
  seq : Nat
  trailerOk : Bool
  payload : List Byte
  deriving DecidableEq, Repr

/-- Why a packet or a datagram is discarded without a reply (R42). -/
inductive Discard where
  | headerCheck | generation | streamField | payloadLength | lengthMismatch | datagramTooLong
  deriving DecidableEq, Repr

/-- An SHP1 frame (R89). -/
structure Shp1Frame where
  ep : Endpoint
  stamp : TS
  address : Nat
  command : Nat
  seq : Nat
  crcOk : Bool
  payload : List Byte
  deriving DecidableEq, Repr

/-- What a descriptor fetch brings (R60): a packet of some opcode with the length its descriptor gives, one whose header check fails, or
a DMA error. -/
inductive Fetched where
  | packet (length : Nat) (opcode : Nat) (p : Packet)
  | corrupt
  | dmaError
  deriving DecidableEq, Repr

/-- What the Curator firmware does at its target of Docent (R466, R468, R469, R474): configure or raise one of its sources,
withdraw one, set its global disable, take the interrupt, or end the handler of the source in service. -/
inductive FwAct where
  | configure (id : Nat) (word : Nat)
  | set (id : Nat)
  | withdraw (id : Nat)
  | disable (on : Bool)
  | enter
  | exit
  deriving DecidableEq, Repr

/-- What the boot ROM and the DRAM training find at a start-up (R353, R444, R451, R456): the straps at the balls, whether
the calibration table's CRC holds, ranks whose training fails, ranks whose stored set does not serve, the DRAM temperature of
each channel in 0.1 °C, the training time of each rank in ms, and the times of steps 3 to 6 in ms. -/
structure Boot where
  roleB : Bool
  serialHost : Bool
  boot : Nat
  calOk : Bool
  badRanks : List Nat
  restoreBad : List Nat
  dramT : List Int
  trainMs : List Nat
  times : List Nat
  deriving DecidableEq, Repr

/-- A hello of the twin (R404). -/
structure Hello where
  grade : Nat
  roleB : Bool
  fw : Nat
  state : Nat
  ts : TS
  deriving DecidableEq, Repr

/-- What the ACTIVE forwards (R406, R407, R441, R386): a command with its accepted TS64 and payload; a decided reply; an
effect notice that names a later boundary; a power state and its boundary; a time step and the frame number of its tick; the
boundary of a switch; a camera commit made (R320); a sealed segment and its greatest TS64 (R399); a log clear (R433); an
owner session opened, with its key slot (R70, R432), and one closed (R71). -/
inductive Forward where
  | command (stream seq op flags : Nat) (acc : TS) (payload : List Byte)
  | reply (stream seq op flags result : Nat) (acc eff : TS) (payload : List Byte)
  | notice (stream seq : Nat) (boundary : TS)
  | power (state : Nat) (boundary : TS)
  | step (amount : Nat) (frame : Nat)
  | switch (boundary : TS)
  | camera (pipe gen frame made bus : Nat)
  | segment (number : Nat) (last : TS)
  | logClear (slot : Nat)
  | session (level gen slot first : Nat) (resume : Bool)
  | close
  deriving DecidableEq, Repr

/-- A request of another station on an Ethernet port (R65): an ARP request (its hardware and IPv4 address, the address asked
for), or an ICMP echo request (its address, the address it is sent to, identifier, sequence and data). -/
inductive NetReq where
  | arp (mac ip target : Nat)
  | echo (ip target : Nat) (body : List Byte)
  deriving DecidableEq, Repr

/-- The timers of a PTP port (R380): announce receipt, Sync interval, Announce interval, delay request interval,
qualification of PRE_MASTER. -/
inductive PtpTimer where
  | receipt | sync | announce | delay | qualify
  deriving DecidableEq, Repr

/-- A long packet of a camera port (R294): data type, header ECC (0 good, 1 corrected, 2 uncorrectable), whether its
CRC-16 holds, its word count in bytes, its samples, and whether the input FIFO overflowed in it (R297). -/
structure CsiLine where
  dtype : Nat
  ecc : Nat
  crcOk : Bool
  words : Nat
  samples : List Nat
  overflow : Bool
  deriving DecidableEq, Repr


/-- The commands. -/
inductive Instr where
  /-- NOP (R85). -/
  | nop (p : Packet)
  /-- HEARTBEAT (R85). -/
  | heartbeat (p : Packet)
  /-- SESSION_CHALLENGE (R69). -/
  | sessionChallenge (p : Packet)
  /-- SESSION_OPEN (R70). -/
  | sessionOpen (p : Packet)
  /-- SESSION_CLOSE (R71). -/
  | sessionClose (p : Packet)
  /-- SESSION_LOCK (R72). -/
  | sessionLock (p : Packet)
  /-- REPLY_REREAD (R85). -/
  | replyReread (p : Packet)
  /-- STREAM_FLUSH (R86). -/
  | streamFlush (p : Packet)
  /-- FENCE (R83). -/
  | fence (p : Packet)
  /-- FENCE_COMPLETE (R83). -/
  | fenceComplete (t : TS) (stream : Nat)
  /-- DEVICE_INFO (R85). -/
  | deviceInfo (p : Packet)
  /-- POWER_REQUEST (R439). -/
  | powerRequest (p : Packet)
  /-- PARAM_READ (R76). -/
  | paramRead (p : Packet)
  /-- PARAM_WRITE (R506). -/
  | paramWrite (p : Packet)
  /-- PARAM_READ_BLOCK (R77). -/
  | paramReadBlock (p : Packet)
  /-- PARAM_WRITE_BLOCK (R77). -/
  | paramWriteBlock (p : Packet)
  /-- PACKET_DISCARD (R42). -/
  | packetDiscard (t : TS) (cause : Discard)
  /-- SHP1_FRAME (R89). -/
  | shp1Frame (f : Shp1Frame)
  /-- SQ_TAIL (R60). -/
  | sqTail (t : TS) (stream : Nat) (value : Nat)
  /-- RQ_HEAD (R62). -/
  | rqHead (t : TS) (ring : Nat) (value : Nat)
  /-- SQ_ENABLE (R59). -/
  | sqEnable (t : TS) (stream : Nat) (value : Nat)
  /-- RQ_ENABLE (R59). -/
  | rqEnable (t : TS) (ring : Nat) (value : Nat)
  /-- BAR0_REGISTER_WRITE (R59). -/
  | bar0RegisterWrite (t : TS) (offset : Nat) (value : Nat)
  /-- DESCRIPTOR_FETCH (R60). -/
  | descriptorFetch (t : TS) (stream : Nat) (got : Fetched)
  /-- REPLY_BATCH_TIMEOUT (R63). -/
  | replyBatchTimeout (t : TS) (stream : Nat)
  /-- PCIE_LINK_CHANGE (R62): the generation and the width the link has trained to, none where it is down. -/
  | pcieLinkChange (t : TS) (link : Option (Nat × Nat))
  /-- SESSION_TIMEOUT (R71). -/
  | sessionTimeout (t : TS) (inst : Nat)
  /-- NONCE_EXPIRE (R69). -/
  | nonceExpire (t : TS) (ep : Endpoint)
  /-- BEAM_ENABLE (R127). -/
  | beamEnable (p : Packet)
  /-- BEAM_DISABLE (R128). -/
  | beamDisable (p : Packet)
  /-- EXPOSE_LIST (R95). -/
  | exposeList (p : Packet)
  /-- EXPOSE_INLINE (R95). -/
  | exposeInline (p : Packet)
  /-- CATALOGUE_MARK (R96). -/
  | catalogueMark (p : Packet)
  /-- CATALOGUE_MARK_REACHED (R96). -/
  | catalogueMarkReached (t : TS) (beam : Nat)
  /-- ARMING_COMPLETE (R126). -/
  | armingComplete (t : TS) (beam : Nat)
  /-- ARM_TIMEOUT (R126). -/
  | armTimeout (t : TS) (beam : Nat)
  /-- LASER_IDENT_REPLY (R119). -/
  | laserIdentReply (t : TS) (beam : Nat) (frame : Option Nat)
  /-- EXPOSE_BEGIN (R96). -/
  | exposeBegin (t : TS) (beam : Nat)
  /-- LIST_END (R133). -/
  | listEnd (t : TS) (beam : Nat)
  /-- VECTOR_FETCH (R91). -/
  | vectorFetch (t : TS) (beam : Nat)
  /-- VECTOR_PLAN (R91). -/
  | vectorPlan (t : TS) (beam : Nat)
  /-- TABLE_LATCH (R112). -/
  | tableLatch (t : TS) (beam : Nat)
  /-- MICRO_STEP_TICK (R91). -/
  | microStepTick (t : TS)
  /-- FRAME_TICK (R24). -/
  | frameTick (t : TS)
  /-- LASER_EN_CHANGE (R122). -/
  | laserEnChange (t : TS) (a : Bool) (b : Bool)
  /-- SAFETY_FAULT (R124). -/
  | safetyFault (t : TS)
  /-- LASER_READY_CHANGE (R120). -/
  | laserReadyChange (t : TS) (beam : Nat) (level : Bool)
  /-- LASER_ALARM (R120). -/
  | laserAlarm (t : TS) (beam : Nat) (level : Bool)
  /-- BEAM_PARK_REACHED (R126). -/
  | beamParkReached (t : TS) (beam : Nat)
  /-- PARK_TIMEOUT (R231). -/
  | parkTimeout (t : TS) (beam : Nat)
  /-- RASTER_COMMIT (R151). -/
  | rasterCommit (p : Packet)
  /-- RASTER_RUN (R143). -/
  | rasterRun (p : Packet)
  /-- RASTER_HALT (R143). -/
  | rasterHalt (p : Packet)
  /-- RASTER_PUSH (R144). -/
  | rasterPush (p : Packet)
  /-- RASTER_BLANKING (R151). -/
  | rasterBlanking (t : TS) (beam : Nat)
  /-- RAS_REGION_END (R169). -/
  | rasRegionEnd (t : TS) (beam : Nat)
  /-- LINE_SYNC_EDGE (R145). -/
  | lineSyncEdge (t : TS) (input : Nat) (rising : Bool)
  /-- LINE_BUFFER_FILL (R148). -/
  | lineBufferFill (t : TS) (beam : Nat)
  /-- RAS_PSCALE_WRITE (R150). -/
  | rasPscaleWrite (p : Packet)
  /-- GALLERY_CLEAR (R159). -/
  | galleryClear (p : Packet)
  /-- GALLERY_SNAPSHOT (R159). -/
  | gallerySnapshot (p : Packet)
  /-- GALLERY_READ (R159). -/
  | galleryRead (p : Packet)
  /-- WARDER_STATUS (R159). -/
  | warderStatus (p : Packet)
  /-- GALLERY_GEOMETRY_WRITE (R170). -/
  | galleryGeometryWrite (p : Packet)
  /-- GALLERY_DEPOSIT (R155). -/
  | galleryDeposit (t : TS) (beam : Nat)
  /-- GALLERY_SWEEP (R158). -/
  | gallerySweep (t : TS)
  /-- WARDER_RESERVE (R163). -/
  | warderReserve (t : TS) (beam : Nat)
  /-- WARDER_ZONE_EXPIRE (R162). -/
  | warderZoneExpire (t : TS)
  /-- WARD_STARVE (R166). -/
  | wardStarve (t : TS) (beam : Nat)
  /-- CNS_BIND (R178). -/
  | cnsBind (p : Packet)
  /-- CNS_MODE (R195). -/
  | cnsMode (p : Packet)
  /-- CNS_ORDER (R179). -/
  | cnsOrder (p : Packet)
  /-- CNS_STATUS (R204). -/
  | cnsStatus (p : Packet)
  /-- CNS_TRACE (R206). -/
  | cnsTrace (p : Packet)
  /-- CNS_TRACE_END (R206). -/
  | cnsTraceEnd (t : TS) (slot : Nat)
  /-- CNS_OVERRUN (R182). -/
  | cnsOverrun (t : TS) (slots : List Nat)
  /-- CNS_IMPLAUSIBLE (R200). -/
  | cnsImplausible (t : TS) (slot : Nat)
  /-- MP_GAP_RESET (R190). -/
  | mpGapReset (t : TS) (slot : Nat)
  /-- HY_SWITCH (R192). -/
  | hySwitch (t : TS) (slot : Nat)
  /-- HY_IMPLAUSIBLE (R193). -/
  | hyImplausible (t : TS) (slot : Nat)
  /-- HEAD_RETURN_FRAME (R223): the code group of its SOF and those that follow. -/
  | headReturnFrame (t : TS) (head : Nat) (sof : BitVec 10) (codes : List (BitVec 10))
  /-- HEAD_FRAME_MISSING (R225). -/
  | headFrameMissing (t : TS) (head : Nat)
  /-- HEAD_LINK_TIMEOUT (R222). -/
  | headLinkTimeout (t : TS) (head : Nat)
  /-- HEAD_LOCK_LOST (R222). -/
  | headLockLost (t : TS) (head : Nat)
  /-- HP_FAULT_CLEAR (R229). -/
  | hpFaultClear (p : Packet)
  /-- HP_GEN_WRITE (R210). -/
  | hpGenWrite (p : Packet)
  /-- XY2_ASSIGN (R244). -/
  | xy2Assign (p : Packet)
  /-- XY2_FRAME (R245). -/
  | xy2Frame (t : TS) (port : Nat)
  /-- XY2_STATUS_FRAME (R247). -/
  | xy2StatusFrame (t : TS) (port : Nat) (bits : Nat)
  /-- PRF_MOVE (R274). -/
  | prfMove (p : Packet)
  /-- PRF_CHANGE (R276). -/
  | prfChange (p : Packet)
  /-- PRF_STOP (R289). -/
  | prfStop (p : Packet)
  /-- PRF_HOME (R279). -/
  | prfHome (p : Packet)
  /-- PRF_SET_POS (R289). -/
  | prfSetPos (p : Packet)
  /-- DRV_ENABLE (R289). -/
  | drvEnable (p : Packet)
  /-- FBK_ARM_INDEX (R258). -/
  | fbkArmIndex (p : Packet)
  /-- FBK_LATCH_READ (R289). -/
  | fbkLatchRead (p : Packet)
  /-- PRF_MOVE_BEGIN (R274). -/
  | prfMoveBegin (t : TS) (cell : Nat)
  /-- PRF_MOVE_END (R274). -/
  | prfMoveEnd (t : TS) (cell : Nat)
  /-- PRF_STALL (R281). -/
  | prfStall (t : TS) (cell : Nat)
  /-- SWITCH_EDGE (R277). -/
  | switchEdge (t : TS) (input : Nat) (high : Bool)
  /-- PRF_FAULT_CLEAR (R288). -/
  | prfFaultClear (p : Packet)
  /-- FBK_FAULT_CLEAR (R288). -/
  | fbkFaultClear (p : Packet)
  /-- FBK_TYPE_WRITE (R252). -/
  | fbkTypeWrite (p : Packet)
  /-- IDX_MODE_WRITE (R258). -/
  | idxModeWrite (p : Packet)
  /-- FBK_EDGE (R254). -/
  | fbkEdge (t : TS) (port : Nat) (a : Bool) (b : Bool)
  /-- FBK_INDEX (R257). -/
  | fbkIndex (t : TS) (port : Nat) (level : Bool)
  /-- FBK_SINCOS_SAMPLE (R261). -/
  | fbkSincosSample (t : TS) (port : Nat) (sin : Int) (cos : Int)
  /-- FBK_HALL_CHANGE (R263). -/
  | fbkHallChange (t : TS) (port : Nat) (code : Nat)
  /-- FBK_ABS_READ (R264). -/
  | fbkAbsRead (t : TS) (port : Nat) (stamp : TS) (bits : Option (List Bool))
  /-- FBK_STANDSTILL (R256). -/
  | fbkStandstill (t : TS) (port : Nat)
  /-- FBK_LATCH_TRIGGER (R267). -/
  | fbkLatchTrigger (t : TS) (port : Nat) (rising : Bool)
  /-- STP_HOLD_CURRENT (R282). -/
  | stpHoldCurrent (t : TS) (stage : Nat)
  /-- STP_OVERCURRENT (R284). -/
  | stpOvercurrent (t : TS) (stage : Nat)
  /-- VMOT_UNDERVOLTAGE (R284). -/
  | vmotUndervoltage (t : TS) (mv : Nat)
  /-- STP_OPEN_LOAD (R284). -/
  | stpOpenLoad (t : TS) (stage : Nat) (coilB : Bool)
  /-- SD_FAULT_INPUT (R285). -/
  | sdFaultInput (t : TS) (cell : Nat) (level : Bool)
  /-- LAMP_ENABLE (R333). -/
  | lampEnable (p : Packet)
  /-- LAMP_SET (R325). -/
  | lampSet (p : Packet)
  /-- LAMP_TEST (R326). -/
  | lampTest (p : Packet)
  /-- LAMP_TEST_DONE (R326). -/
  | lampTestDone (t : TS) (shorts : List (Nat × Nat)) (opens : Nat)
  /-- LAMP_PATTERN (R329). -/
  | lampPattern (p : Packet)
  /-- LAMP_STROBE (R329). -/
  | lampStrobe (p : Packet)
  /-- LAMP_I2C_XFER (R333). -/
  | lampI2cXfer (p : Packet)
  /-- LAMP_PERIOD_START (R322). -/
  | lampPeriodStart (t : TS)
  /-- STROBE_EDGE (R329). -/
  | strobeEdge (t : TS)
  /-- STROBE_WINDOW_END (R329). -/
  | strobeWindowEnd (t : TS)
  /-- PIPE_START (R319). -/
  | pipeStart (p : Packet)
  /-- PIPE_STOP (R319). -/
  | pipeStop (p : Packet)
  /-- PIPE_BUFS (R306). -/
  | pipeBufs (p : Packet)
  /-- PIPE_RELEASE (R306). -/
  | pipeRelease (p : Packet)
  /-- CAM_COMMIT (R315). -/
  | camCommit (p : Packet)
  /-- CAM_I2C_XFER (R317). -/
  | camI2cXfer (p : Packet)
  /-- PIPE_STATUS (R332). -/
  | pipeStatus (p : Packet)
  /-- CSI_FRAME_START (R295). -/
  | csiFrameStart (t : TS) (port : Nat) (vc : Nat) (number : Nat) (ecc : Nat)
  /-- CSI_LINE (R294). -/
  | csiLine (t : TS) (port : Nat) (vc : Nat) (line : CsiLine)
  /-- CSI_FRAME_END (R295). -/
  | csiFrameEnd (t : TS) (port : Nat) (vc : Nat) (number : Nat) (ecc : Nat)
  /-- FRAME_TIMEOUT (R297). -/
  | frameTimeout (t : TS) (pipe : Nat)
  /-- BLOB_PUBLISH (R312). -/
  | blobPublish (t : TS) (pipe : Nat)
  /-- FRAME_INDEX_WRITE (R308). -/
  | frameIndexWrite (t : TS) (pipe : Nat)
  /-- CAM_COMMIT_DONE (R315). -/
  | camCommitDone (t : TS) (pipe : Nat) (made : Nat) (bus : Nat)
  /-- CAM_TRIGGER (R318). -/
  | camTrigger (t : TS) (pipe : Nat)
  /-- STORE_ALLOC (R338). -/
  | storeAlloc (p : Packet)
  /-- STORE_FREE (R341). -/
  | storeFree (p : Packet)
  /-- STORE_WRITE (R342). -/
  | storeWrite (p : Packet)
  /-- STORE_READ (R366). -/
  | storeRead (p : Packet)
  /-- STORE_DMA_IN (R366). -/
  | storeDmaIn (p : Packet)
  /-- STORE_DMA_OUT (R366). -/
  | storeDmaOut (p : Packet)
  /-- STORE_INFO (R366). -/
  | storeInfo (p : Packet)
  /-- STORE_PIN (R344). -/
  | storePin (p : Packet)
  /-- LOAN_RETURN (R341). -/
  | loanReturn (t : TS) (acc : Nat)
  /-- DRAM_READ_COMPLETE (R356). -/
  | dramReadComplete (t : TS) (acc : Nat) (off : Nat) (err : ReadError) (requester : Requester)
  /-- DRAM_ALERT (R358). -/
  | dramAlert (t : TS) (rank : Nat) (commands : Nat) (attempts : Nat) (stall : Nat) (failed : Bool)
  /-- DRAM_REFRESH (R352). -/
  | dramRefresh (t : TS) (rank : Nat) (waiting : Bool)
  /-- ROW_HAMMER_REFRESH (R354). -/
  | rowHammerRefresh (t : TS) (rank : Nat) (bank : Nat) (row : Nat)
  /-- RH_WINDOW_CLEAR (R354). -/
  | rhWindowClear (t : TS) (channel : Nat)
  /-- DRAM_PAGE_CLOSE (R351). -/
  | dramPageClose (t : TS) (rank : Nat) (bank : Nat)
  /-- RANK_POWER_DOWN (R352). -/
  | rankPowerDown (t : TS) (rank : Nat)
  /-- ZIP_COMPRESS (R362). -/
  | zipCompress (p : Packet)
  /-- ZIP_DECOMPRESS (R363). -/
  | zipDecompress (p : Packet)
  /-- ZIP_JOB_END (R364). -/
  | zipJobEnd (t : TS) (engine : Nat)
  /-- TIME_GET (R391). -/
  | timeGet (p : Packet)
  /-- TIME_SET (R391). -/
  | timeSet (p : Packet)
  /-- TIME_LAUNCH (R388). -/
  | timeLaunch (p : Packet)
  /-- LAUNCH_FLUSH (R390). -/
  | launchFlush (p : Packet)
  /-- CAT_SEAL (R396). -/
  | catSeal (p : Packet)
  /-- CAT_LIST (R391). -/
  | catList (p : Packet)
  /-- CAT_RELEASE (R391). -/
  | catRelease (p : Packet)
  /-- SERVO_OFFSET (R376). -/
  | servoOffset (t : TS)
  /-- PTP_MESSAGE (R380). -/
  | ptpMessage (t : TS) (port : Nat) (ip : Bool) (msg : List Byte)
  /-- PPS_IN_EDGE (R384). -/
  | ppsInEdge (t : TS) (k : Nat) (rising : Bool)
  /-- SERVO_HOLDOVER (R377). -/
  | servoHoldover (t : TS)
  /-- TIME_STEP_APPLY (R378). -/
  | timeStepApply (t : TS)
  /-- PPS_OUT (R384). -/
  | ppsOut (t : TS) (k : Nat)
  /-- LAUNCH_SEND (R388). -/
  | launchSend (t : TS) (port : Nat)
  /-- LAUNCH_DROP (R389). -/
  | launchDrop (t : TS) (port : Nat)
  /-- TWIN_TIMING_EXCHANGE (R386). -/
  | twinTimingExchange (t : TS) (t1 : TS) (t2 : TS) (t3 : TS) (t4 : TS)
  /-- CAT_SEAL_TIMEOUT (R396). -/
  | catSealTimeout (t : TS)
  /-- MELT_SUM (R397). -/
  | meltSum (t : TS)
  /-- TWIN_STATUS (R434). -/
  | twinStatus (p : Packet)
  /-- TWIN_SWITCH (R419). -/
  | twinSwitch (p : Packet)
  /-- TWIN_SEIZE (R419). -/
  | twinSeize (p : Packet)
  /-- TWIN_RESYNC (R410). -/
  | twinResync (p : Packet)
  /-- TWIN_HELLO (R404). -/
  | twinHello (t : TS) (hello : Hello)
  /-- NEG_TIMEOUT (R404). -/
  | negTimeout (t : TS)
  /-- HEARTBEAT_LOSS (R411). -/
  | heartbeatLoss (t : TS)
  /-- TWIN_FAULT_RISE (R411). -/
  | twinFaultRise (t : TS)
  /-- TWIN_KILL_IN (R412). -/
  | twinKillIn (t : TS)
  /-- TWIN_RELEASE_WORD (R412). -/
  | twinReleaseWord (t : TS)
  /-- TAKEOVER_WAIT_END (R412). -/
  | takeoverWaitEnd (t : TS)
  /-- TWIN_TAKE_OWN (R412). -/
  | twinTakeOwn (t : TS)
  /-- TWIN_FORWARD_RECEIVE (R407). -/
  | twinForwardReceive (t : TS) (item : Forward)
  /-- TWIN_ACK (R406). -/
  | twinAck (t : TS) (reply : Bool) (stream : Nat) (seq : Nat)
  /-- TWIN_LINK_TIMEOUT (R408). -/
  | twinLinkTimeout (t : TS)
  /-- TWIN_DIGEST (R409). -/
  | twinDigest (t : TS) (partner : Option Nat)
  /-- STATE_TRANSFER (R410). -/
  | stateTransfer (t : TS) (copy : Option Copy)
  /-- RESYNC_TIMEOUT (R410). -/
  | resyncTimeout (t : TS)
  /-- LOG_MIRROR (R431). -/
  | logMirror (t : TS) (entry : Rec)
  /-- LOG_READ (R430). -/
  | logRead (p : Packet)
  /-- LOG_MARK (R430). -/
  | logMark (p : Packet)
  /-- LOG_CHALLENGE (R433). -/
  | logChallenge (p : Packet)
  /-- LOG_CLEAR (R433). -/
  | logClear (p : Packet)
  /-- KEY_WRITE (R432). -/
  | keyWrite (p : Packet)
  /-- KEY_INFO (R434). -/
  | keyInfo (p : Packet)
  /-- FAULT_STATUS (R434). -/
  | faultStatus (p : Packet)
  /-- FAULT_CLEAR (R421). -/
  | faultClear (p : Packet)
  /-- CURATOR_WATCHDOG (R403). -/
  | curatorWatchdog (t : TS)
  /-- DOCENT_CLAIM (R470). -/
  | docentClaim (p : Packet)
  /-- DOCENT_COMPLETE (R472). -/
  | docentComplete (p : Packet)
  /-- DOCENT_FW_INTERRUPT (R474). -/
  | docentFwInterrupt (t : TS) (act : FwAct)
  /-- DOCENT_SRC_WRITE (R466). -/
  | docentSrcWrite (p : Packet)
  /-- DOCENT_SOFT (R465). -/
  | docentSoft (p : Packet)
  /-- DOCENT_DISABLE_WRITE (R469). -/
  | docentDisableWrite (p : Packet)
  /-- EVT_IN_EDGE (R373). -/
  | evtInEdge (t : TS) (input : Nat) (rising : Bool)
  /-- ILK_CHANGE (R440). -/
  | ilkChange (t : TS) (input : Nat) (level : Bool)
  /-- GPO_WRITE (R463). -/
  | gpoWrite (p : Packet)
  /-- MGT_ROUND (R457). -/
  | mgtRound (t : TS) (raw : List (Option Nat)) (light : List (Nat × Nat))
  /-- ANALOG_TRIP (R462). -/
  | analogTrip (t : TS)
  /-- STANDBY_ENTER (R442). -/
  | standbyEnter (t : TS)
  /-- STANDBY_ROUND (R443). -/
  | standbyRound (t : TS) (raw : List (Option Nat))
  /-- AON_EDGE_LATCH (R475). -/
  | aonEdgeLatch (t : TS) (source : Nat) (rising : Bool)
  /-- WAKE_TIMER (R442). -/
  | wakeTimer (t : TS)
  /-- VIN_RISE (R444). -/
  | vinRise (t : TS) (boot : Boot)
  /-- VIN_LOSS (R448). -/
  | vinLoss (t : TS)
  /-- RESET_ASSERT (R447). -/
  | resetAssert (t : TS)
  /-- RESET_RELEASE (R447). -/
  | resetRelease (t : TS) (boot : Boot)
  /-- REF_LOSS (R491). -/
  | refLoss (t : TS) (backup : Bool)
  /-- BLOCK_GATE (R33). -/
  | blockGate (t : TS) (region : Nat) (block : Nat)
  /-- BLOCK_UNGATE (R34). -/
  | blockUngate (t : TS) (region : Nat) (block : Nat)
  /-- PRESET_SAVE (R78). -/
  | presetSave (p : Packet)
  /-- PRESET_FACTORY (R78). -/
  | presetFactory (p : Packet)
  /-- FW_LOAD (R452). -/
  | fwLoad (p : Packet)
  /-- CAL_ENTRY_WRITE (R454). -/
  | calEntryWrite (p : Packet)
  /-- CAL_EXPORT (R455). -/
  | calExport (p : Packet)
  /-- WRD_HOLD_MAX_CLEAR (R11). -/
  | wrdHoldMaxClear (p : Packet)
  /-- TIME_SRC_WRITE (R377). -/
  | timeSrcWrite (p : Packet)
  /-- LASER_SYNC_EDGE (R117). -/
  | laserSyncEdge (t : TS) (beam : Nat)
  /-- ETH_LINK_CHANGE (R389). -/
  | ethLinkChange (t : TS) (port : Nat) (up : Bool) (speed : Nat)
  /-- ARP_ICMP_REQUEST (R65). -/
  | arpIcmpRequest (t : TS) (port : Nat) (req : NetReq)
  /-- PTP_INTERVAL_TIMER (R380). -/
  | ptpIntervalTimer (t : TS) (port : Nat) (timer : PtpTimer)
  /-- VMOT_RESTORE (R487). -/
  | vmotRestore (t : TS) (mv : Nat)
  /-- PERST_EDGE (R442). -/
  | perstEdge (t : TS) (rising : Bool)
  /-- TWIN_HB_EDGE (R404). -/
  | twinHbEdge (t : TS)
  /-- TWIN_KILL_RELEASE (R402). -/
  | twinKillRelease (t : TS)
  /-- STORE_DMA_DONE (R366). -/
  | storeDmaDone (t : TS) (moved : Nat) (ok : Bool) (data : List Byte)
  /-- STORE_PIN_DONE (R344). -/
  | storePinDone (t : TS)
  /-- GALLERY_SNAPSHOT_DONE (R159). -/
  | gallerySnapshotDone (t : TS)
  /-- FW_LOAD_DONE (R452). -/
  | fwLoadDone (t : TS)
  /-- I2C_TRANSFER_DONE (R317). -/
  | i2cTransferDone (t : TS) (bus : Nat) (result : Nat) (data : List Byte)
  /-- POWER_STATE_REACHED (R439). -/
  | powerStateReached (t : TS)
  deriving DecidableEq, Repr

end Sys2Proof
end

