-- ==== Sys2Proof/Decode.lean ====
section
/-!
DEFINITION. The command that a word of the table spells. The table gives no row of this block any bits, so no word spells one.
-/
namespace Sys2Proof

/-- The command a word of nbits bits spells: none, since the table gives bits to no row. -/
def decodeTableWord (_nbits _w : Nat) : Option Instr := none

end Sys2Proof
end

