-- ==== Sys2Proof/Config.lean ====
section
/-!
DEFINITION. What an implementation fixes and the manual leaves open. Each constant is opaque: nothing in Lean can
evaluate it, so a statement about it holds for every value (the log entry of each is named beside it).
-/
namespace Sys2Proof

/-- A byte of an accession or of the MRAM that nothing has written (log entry 3). The argument is its address. -/
opaque Config.undefByte : Nat → Byte
/-- The 16 bytes of the n-th nonce (log entry 4). -/
opaque Config.nonceByte : Nat → Nat → Byte
/-- The die serial of the module (log entry 5). -/
opaque Config.dieSerial : Nat
/-- The bytes of the factory key of slot 0 (log entry 5). -/
opaque Config.factoryKey : Nat → Byte
/-- Version of the firmware image shipped in both slots (log entry 5). -/
opaque Config.fwShipped : Nat
/-- Factory value of calibration entry e (log entry 6). -/
opaque Config.calFactory : Nat → Nat
/-- The n-th draw of a value the manual leaves open (log entry 7). -/
opaque Config.fresh : Nat → Nat
/-- Whether the ECDSA signature of an image with these bytes verifies (log entry 8). -/
opaque Config.signatureOk : List Byte → Bool
/-- The match (length, distance) that the compressor takes at a position of an input (log entry 9). -/
opaque Config.deflateMatch : List Byte → Nat → Nat × Nat
/-- Whether it begins a new block with fixed codes at a position (log entry 9). -/
opaque Config.deflateBreak : List Byte → Nat → Bool
/-- The code lengths it builds for the n-th dynamic block of an input (log entry 9). -/
opaque Config.deflateLens : List Byte → Nat → List Nat × List Nat
/-- The run codes, with their extra bits, by which it writes code lengths (log entry 9). -/
opaque Config.deflateRuns : List Nat → List (Nat × Nat)
/-- The lengths of the code it writes them with (log entry 9). -/
opaque Config.deflateClens : List (Nat × Nat) → List Nat
/-- The number from which the set of a cache line is formed (log entry 42). -/
opaque Config.cacheSet : Nat → Nat
/-- The bytes a digest snapshot's fields take, given the fields in table order (log entry 10). -/
opaque Config.digestBytes : List Nat → List Byte
/-- The opcode and payload an SHP1 command stands for: its command byte and its payload (log entry 45). -/
opaque Config.shp1Command : Nat → List Byte → Option (Nat × List Byte)
/-- Placement of a granule in the DRAM: its rank, bank, row and half of the row's columns, by its first byte (log entry 11). -/
opaque Config.dramPlace : Nat → Nat × Nat × Nat × Nat
/-- Offset of a pipeline's blob slot in the system pages (log entry 113). -/
opaque Config.blobSlot : Nat → Nat
/-- The 32-bit fraction of a nanosecond that the time block keeps below TS64 at an instant (log entry 119). -/
opaque Config.timeFraction : Nat → Nat

/-- Within a housekeeping round, when the conversion of a channel starts (R457; log entry 121). -/
opaque Config.hkDelay : Nat → Nat → Nat

end Sys2Proof
end

