-- ==== Sys2Proof/Machine/Bits.lean ====
section
/-!
DEFINITION. Bit fields, sign extension, byte order and the rounding of R509.
-/
namespace Sys2Proof.Machine

open Sys2Proof

/-- Bits hi:lo of a value. -/
def bits (v hi lo : Nat) : Nat := (v >>> lo) % 2 ^ (hi + 1 - lo)

/-- Bit i of a value, as a Bool. -/
def bit (v i : Nat) : Bool := v.testBit i

/-- A Bool as one bit. -/
def b2n (b : Bool) : Nat := if b then 1 else 0

/-- The two's complement reading of a w-bit field. -/
def toSigned (w v : Nat) : Int :=
  let u := v % 2 ^ w
  if u < 2 ^ (w - 1) then (u : Int) else (u : Int) - (2 ^ w : Nat)

/-- The w-bit field that holds an integer (wrapping). -/
def ofSigned (w : Nat) (i : Int) : Nat := (i % ((2 ^ w : Nat) : Int)).toNat

/-- n bytes, low byte first (R10). -/
def le (n v : Nat) : List Byte :=
  match n with
  | 0 => []
  | n + 1 => BitVec.ofNat 8 v :: le n (v / 256)

/-- The number that bytes spell, low byte first (R10). -/
def unLe : List Byte → Nat
  | [] => 0
  | b :: bs => b.toNat + 256 * unLe bs

/-- n bytes, high byte first (fields of published standards, R10). -/
def be (n v : Nat) : List Byte := (le n v).reverse

/-- The number that bytes spell, high byte first. -/
def unBe (bs : List Byte) : Nat := unLe bs.reverse

/-- n bytes of a payload from an offset on. -/
def field (p : List Byte) (off n : Nat) : List Byte := (p.drop off).take n

/-- Unsigned little-endian fields of a payload. -/
def u8 (p : List Byte) (off : Nat) : Nat := unLe (field p off 1)
def u16 (p : List Byte) (off : Nat) : Nat := unLe (field p off 2)
def u32 (p : List Byte) (off : Nat) : Nat := unLe (field p off 4)
def u64 (p : List Byte) (off : Nat) : Nat := unLe (field p off 8)

/-- Signed little-endian fields of a payload. -/
def i16 (p : List Byte) (off : Nat) : Int := toSigned 16 (u16 p off)
def i32 (p : List Byte) (off : Nat) : Int := toSigned 32 (u32 p off)
def i64 (p : List Byte) (off : Nat) : Int := toSigned 64 (u64 p off)

/-- Put an element before the first one it may stand before. -/
def insertBy {α : Type} (before : α → α → Bool) (x : α) : List α → List α
  | [] => [x]
  | y :: r => if before x y then x :: y :: r else y :: insertBy before x r

/-- A list in order; elements of which each may stand before the other keep their order. -/
def sortBy {α : Type} (before : α → α → Bool) (l : List α) : List α := l.foldr (insertBy before) []

/-- A run of zero bytes. -/
def zeros (n : Nat) : List Byte := List.replicate n 0

/-- Every byte of a run is zero: the reserved fields of a payload. -/
def allZero (p : List Byte) : Bool := p.all (· == 0)

/-- R509: the integer nearest to n / d, an exact half rounded away from zero. -/
def roundDiv (n : Int) (d : Nat) : Int :=
  if d = 0 then 0
  else
    let q := (2 * n.natAbs + d) / (2 * d)
    if n < 0 then - (q : Int) else (q : Int)

/-- R509 on natural numbers. -/
def roundDivNat (n d : Nat) : Nat := if d = 0 then 0 else (2 * n + d) / (2 * d)

/-- The least integer at or above n / d. -/
def ceilDiv (n d : Nat) : Nat := if d = 0 then 0 else (n + d - 1) / d

/-- The floor square root, by one binary digit at a time. -/
def isqrtGo : Nat → Nat → Nat → Nat
  | 0, _, r => r
  | k + 1, n, r =>
    let c := r + 2 ^ k
    if c * c ≤ n then isqrtGo k n c else isqrtGo k n r

def isqrt (n : Nat) : Nat := isqrtGo (n.log2 / 2 + 1) n 0

/-- The integer nearest the square root. -/
def roundSqrt (n : Nat) : Nat :=
  let r := isqrt n
  if n > r * r + r then r + 1 else r

/-- A value held between two bounds. -/
def clampInt (lo hi v : Int) : Int := if v < lo then lo else if v > hi then hi else v

/-- The element of a list at an index, or a default. -/
def nth {α : Type} (l : List α) (i : Nat) (d : α) : α := l.getD i d

/-- One element of a list changed by a function, the others kept. -/
def upd {α : Type} (l : List α) (i : Nat) (f : α → α) : List α := l.modify i f

/-- The indices of a list at which a test holds. -/
def indicesWhere {α : Type} (l : List α) (p : α → Bool) : List Nat :=
  (List.range l.length).filter fun i => match l[i]? with | some x => p x | none => false

/-- Fold a state-changing action over a list of indices, in order. -/
def forEach {σ α : Type} (xs : List α) (f : α → σ → σ) (s : σ) : σ := xs.foldl (fun s x => f x s) s

/-- Bit-reversal of the low w bits. -/
def bitrev : Nat → Nat → Nat
  | 0, _ => 0
  | w + 1, v => (v % 2) * 2 ^ w + bitrev w (v / 2)

/-- The number of set bits among the low w bits. -/
def popCount : Nat → Nat → Nat
  | 0, _ => 0
  | w + 1, v => v % 2 + popCount w (v / 2)

end Sys2Proof.Machine
end

