-- ==== Sys2Proof/Machine/F32.lean ====
section
/-!
DEFINITION. The binary32 arithmetic of R183: round to nearest with ties to even, subnormal inputs and results
flushed to zero, and the fused multiply-add. A value is its 32-bit pattern; finite values are read as
an integer times a power of two, the operation is exact, and one rounding narrows it.
-/
namespace Sys2Proof.Machine

/-- Sign, exponent field and fraction field of a pattern. -/
def fSign (v : Nat) : Bool := bit v 31
def fExp (v : Nat) : Nat := bits v 30 23
def fFrac (v : Nat) : Nat := bits v 22 0

/-- Neither an infinity nor a NaN (R76). -/
def fFinite (v : Nat) : Bool := fExp v != 255

/-- A NaN pattern, and an infinity. -/
def fNaN : Nat := 0x7FC00000
def fIsNaN (v : Nat) : Bool := fExp v == 255 && fFrac v != 0
def fInf (neg : Bool) : Nat := if neg then 0xFF800000 else 0x7F800000

/-- A finite pattern's significand with its sign; its weight is 2 to the fScale. A subnormal reads as zero (R183). -/
def fMant (v : Nat) : Int :=
  if fExp v = 0 then 0
  else
    let m : Int := ((2 ^ 23 + fFrac v : Nat) : Int)
    if fSign v then -m else m

/-- The exponent of two that weighs fMant, offset by 150 so that it is a natural number. -/
def fScale (v : Nat) : Nat := fExp v

/-- Round num / den (den > 0) times 2^(-150 + e) ... see fOfRat. The number of bits of a natural number. -/
def bitLen (n : Nat) : Nat := if n = 0 then 0 else n.log2 + 1

/-- Nearest integer to n / d with ties to even. -/
def rne (n d : Nat) : Nat :=
  let q := n / d
  let r := n % d
  if 2 * r < d then q
  else if 2 * r > d then q + 1
  else q + q % 2

/-- The binary32 pattern nearest to the positive rational n / d, subnormal results flushed to zero. -/
def fOfPos (neg : Bool) (n d : Nat) : Nat :=
  if n = 0 ∨ d = 0 then (if neg then 0x80000000 else 0)
  else
    -- k is such that n / d lies in [2^(k-1), 2^(k+1))
    let k : Int := (bitLen n : Int) - (bitLen d : Int)
    -- choose e with 2^e <= n/d < 2^(e+1)
    let ge : Bool := if k ≥ 0 then n ≥ d * 2 ^ k.toNat else n * 2 ^ (-k).toNat ≥ d
    let e : Int := if ge then k else k - 1
    -- significand = n/d * 2^(23-e), rounded to nearest even
    let sh : Int := 23 - e
    let m := if sh ≥ 0 then rne (n * 2 ^ sh.toNat) d else rne n (d * 2 ^ (-sh).toNat)
    let e' : Int := if m = 2 ^ 24 then e + 1 else e
    let m' : Nat := if m = 2 ^ 24 then 2 ^ 23 else m
    if e' < -126 then (if neg then 0x80000000 else 0)
    else if e' > 127 then fInf neg
    else (if neg then 0x80000000 else 0) + ((e' + 127).toNat * 2 ^ 23) + (m' - 2 ^ 23)

/-- The binary32 pattern nearest to the rational n / d. -/
def fOfRat (n : Int) (d : Nat) : Nat := fOfPos (n < 0) n.natAbs d

/-- The binary32 pattern nearest to an integer. -/
def fOfInt (n : Int) : Nat := fOfRat n 1

/-- The exact value of a finite pattern, as a numerator over 2^150. -/
def fNum (v : Nat) : Int := fMant v * ((2 ^ fScale v : Nat) : Int)

def fDen : Nat := 2 ^ 150

/-- Negation and magnitude of a pattern. -/
def fNeg (v : Nat) : Nat := if fSign v then v - 0x80000000 else v + 0x80000000
def fAbs (v : Nat) : Nat := if fSign v then v - 0x80000000 else v

/-- The sign of an exact zero result of a sum: negative only where both addends are negative. -/
def fZero (neg : Bool) : Nat := if neg then 0x80000000 else 0

/-- An infinity. -/
def fIsInf (v : Nat) : Bool := fExp v == 255 && fFrac v == 0

/-- a * b + c with one rounding (R183); infinities as IEEE 754 has them. -/
def fFma (a b c : Nat) : Nat :=
  let ps := fSign a != fSign b
  if fIsNaN a || fIsNaN b || fIsNaN c then fNaN
  else if fIsInf a || fIsInf b then
    if fNum a = 0 || fNum b = 0 || (fIsInf c && fSign c != ps) then fNaN else fInf ps
  else if fIsInf c then c
  else
    let p := fNum a * fNum b + fNum c * (fDen : Int)
    if p = 0 then fZero (ps && fSign c) else fOfRat p (fDen * fDen)

/-- a + b. -/
def fAdd (a b : Nat) : Nat :=
  if fIsNaN a || fIsNaN b || (fIsInf a && fIsInf b && fSign a != fSign b) then fNaN
  else if fIsInf a then a
  else if fIsInf b then b
  else
    let p := fNum a + fNum b
    if p = 0 then fZero (fSign a && fSign b) else fOfRat p fDen

def fSub (a b : Nat) : Nat := fAdd a (fNeg b)

/-- a * b. -/
def fMul (a b : Nat) : Nat :=
  let ps := fSign a != fSign b
  if fIsNaN a || fIsNaN b then fNaN
  else if fIsInf a || fIsInf b then (if fNum a = 0 || fNum b = 0 then fNaN else fInf ps)
  else
    let p := fNum a * fNum b
    if p = 0 then fZero ps else fOfRat p (fDen * fDen)

/-- a / b. A zero divisor gives an infinity, an infinite one a zero. -/
def fDiv (a b : Nat) : Nat :=
  let ps := fSign a != fSign b
  if fIsNaN a || fIsNaN b || (fIsInf a && fIsInf b) then fNaN
  else if fIsInf a then fInf ps
  else if fIsInf b then fZero ps
  else if fNum b = 0 then (if fNum a = 0 then fNaN else fInf ps)
  else if fNum a = 0 then fZero ps
  else fOfPos ((fNum a < 0) != (fNum b < 0)) (fNum a).natAbs (fNum b).natAbs

/-- a < b and a ≤ b on finite patterns; a NaN compares false. -/
def fLt (a b : Nat) : Bool := !fIsNaN a && !fIsNaN b &&
  (if fFinite a && fFinite b then fNum a < fNum b
   else if !fFinite a then fSign a && !(!fFinite b && fSign b) else !fSign b)
def fLe (a b : Nat) : Bool := !fIsNaN a && !fIsNaN b && !fLt b a

/-- A pattern held between two bounds. -/
def fClamp (lo hi v : Nat) : Nat := if fLt v lo then lo else if fLt hi v then hi else v

/-- The nearest integer of a finite pattern (R509). -/
def fRound (v : Nat) : Int := roundDiv (fNum v) fDen

/-- A subnormal pattern becomes zero of its sign (R183). -/
def fFlush (v : Nat) : Nat := if fExp v = 0 then fZero (fSign v) else v

/-- One and a half and other small constants as patterns. -/
def fOne : Nat := 0x3F800000

end Sys2Proof.Machine
end

