-- ==== Sys2Proof/Machine/ParamTable.lean ====
section
/-!
DEFINITION. The parameter tables of the manual: one row per parameter of each class, with its numbers, width, sign,
access code (R11), range and reset value, and the tests of R75, R76 that a row alone decides.
Each row is followed by the parameter's dotted name.
-/
namespace Sys2Proof.Machine

/-- Access codes (R11). -/
inductive Acc where
  | rw | ro | w1c | wo | rwl
  deriving DecidableEq, Repr

/-- The range a parameter's table gives its value. -/
inductive Rng where
  | any                       -- every value its bits can hold
  | nat (lo hi : Nat)         -- an unsigned range
  | int (lo hi : Int)         -- a signed range
  | f32                       -- binary32, finite (R76)
  | f32Pos | f32NonNeg        -- binary32 above zero; not below zero
  | f32In (lo hi : Nat)       -- binary32 between two patterns
  deriving DecidableEq, Repr

/-- One row: parameter numbers start, start + stride, ... (n of them), bits, sign, access, range, reset value,
and whether a write needs an INTEGRATE session (R454, R479). -/
structure PDef where
  start : Nat
  n : Nat
  stride : Nat
  width : Nat
  signed : Bool
  acc : Acc
  rng : Rng
  reset : Nat
  integ : Bool
  deriving DecidableEq, Repr

/-! PIDs of the parameters, with instance 0 (R74). -/
namespace P

abbrev BLK_IDLE_GATE : Nat := 0x00000010
abbrev BLK_CLK_STATE : Nat := 0x00000011
abbrev BLK_ERR_CLASS : Nat := 0x00000012
abbrev BLK_ERR_COUNT : Nat := 0x00000013
abbrev BLK_ARB_WT : Nat := 0x00000014
abbrev REGION_ERR_CLASS : Nat := 0x00000012
abbrev REGION_ARB_WT : Nat := 0x00000014
abbrev STREAM_MOD_N : Nat := 0x01000001
abbrev STREAM_MOD_T : Nat := 0x01000002
abbrev STREAM_RQ : Nat := 0x01000003
abbrev STREAM_EXPECT : Nat := 0x01000004
abbrev STREAM_PENDING : Nat := 0x01000005
abbrev STREAM_UNDELIV : Nat := 0x01000006
abbrev STREAM_RETRY : Nat := 0x01000007
abbrev STREAM_STALE : Nat := 0x01000008
abbrev SESS_LEVEL : Nat := 0x03000001
abbrev SESS_TMO : Nat := 0x03000002
abbrev SESS_TMO_ACT : Nat := 0x03000003
abbrev ETH_IPV4 : Nat := 0x04000001
abbrev ETH_MASK : Nat := 0x04000002
abbrev ETH_JUMBO : Nat := 0x04000003
abbrev BLK_FRAME_ERR : Nat := 0x08010020
abbrev BLK_RS485_BAUD : Nat := 0x08010021
abbrev BEAM_STATE : Nat := 0x10000001
abbrev BEAM_ADV : Nat := 0x10000002
abbrev BEAM_DLY_ON : Nat := 0x10000003
abbrev BEAM_DLY_OFF : Nat := 0x10000004
abbrev BEAM_DLY_MARK : Nat := 0x10000005
abbrev BEAM_DLY_JUMP : Nat := 0x10000006
abbrev BEAM_DLY_POLY : Nat := 0x10000007
abbrev BEAM_P_MAX : Nat := 0x10000008
abbrev BEAM_GATE_MIN : Nat := 0x10000009
abbrev BEAM_DIS_RAMP : Nat := 0x1000000A
abbrev BEAM_FC_ACC : Nat := 0x1000000B
abbrev BEAM_HM_ACC : Nat := 0x1000000C
abbrev BEAM_FOCUS_K : Nat := 0x1000000D
abbrev BEAM_RESUME_BACK : Nat := 0x1000000E
abbrev BEAM_ARM_TMO : Nat := 0x1000000F
abbrev BEAM_VEC_DONE : Nat := 0x10000020
abbrev BEAM_VEC_CANCEL : Nat := 0x10000021
abbrev BEAM_TAG_NOW : Nat := 0x10000022
abbrev BEAM_GATE_SHORT : Nat := 0x10000023
abbrev BEAM_CORR_LATE : Nat := 0x10000024
abbrev BEAM_INT_CAUSE : Nat := 0x10000025
abbrev BEAM_POS_X : Nat := 0x10000026
abbrev BEAM_POS_Y : Nat := 0x10000027
abbrev BEAM_RATE_WAIT : Nat := 0x10000028
abbrev BEAM_MARK_SPD : Nat := 0x10000100
abbrev BEAM_JUMP_SPD : Nat := 0x10000101
abbrev BEAM_POWER : Nat := 0x10000102
abbrev BEAM_SKY_IN : Nat := 0x10000103
abbrev BEAM_SKY_OUT : Nat := 0x10000104
abbrev LSR_MODE : Nat := 0x11000001
abbrev LSR_AOUT_FS : Nat := 0x11000002
abbrev LSR_MOD_FREQ : Nat := 0x11000003
abbrev LSR_MOD_DUTY : Nat := 0x11000004
abbrev LSR_PF_FMIN : Nat := 0x11000005
abbrev LSR_PF_FMAX : Nat := 0x11000006
abbrev LSR_PF_PW : Nat := 0x11000007
abbrev LSR_READY_REQ : Nat := 0x11000008
abbrev LSR_IN_POL : Nat := 0x11000009
abbrev LSR_SYNC_EN : Nat := 0x1100000A
abbrev LSR_ALARM_ACT : Nat := 0x1100000B
abbrev LSR_SER_ID : Nat := 0x1100000C
abbrev LSR_PINS : Nat := 0x1100000D
abbrev BEAM_RAS_SRC : Nat := 0x10000040
abbrev BEAM_RAS_SYNC_IN : Nat := 0x10000041
abbrev BEAM_RAS_SYNC_EDGE : Nat := 0x10000042
abbrev BEAM_RAS_SYNC_DLY : Nat := 0x10000043
abbrev BEAM_RAS_XING_AXIS : Nat := 0x10000044
abbrev BEAM_RAS_XING_POS : Nat := 0x10000045
abbrev BEAM_RAS_XING_DIR : Nat := 0x10000046
abbrev BEAM_RAS_PSCALE : Nat := 0x10000047
abbrev BEAM_RAS_RPT_LIMIT : Nat := 0x10000048
abbrev BEAM_RAS_MOD_Z : Nat := 0x10000049
abbrev BEAM_RAS_SHAPE : Nat := 0x1000004C
abbrev BEAM_RAS_UNDERRUN : Nat := 0x10000050
abbrev BEAM_RAS_CLAMP : Nat := 0x10000051
abbrev BEAM_RAS_SYNC_MISS : Nat := 0x10000052
abbrev BEAM_RAS_LB_FILL : Nat := 0x10000053
abbrev BEAM_RAS_REGION_NO : Nat := 0x10000054
abbrev BEAM_RAS_LINE_NOW : Nat := 0x10000055
abbrev BEAM_GAL_P_FS : Nat := 0x10000060
abbrev BEAM_GAL_K : Nat := 0x10000061
abbrev BEAM_GAL_G_MIN : Nat := 0x10000062
abbrev BEAM_WRD_HOLD_NOW : Nat := 0x10000070
abbrev BEAM_WRD_HOLDS : Nat := 0x10000071
abbrev BEAM_WRD_HOLD_MAX : Nat := 0x10000072
abbrev BEAM_WRD_STARVES : Nat := 0x10000073
abbrev GAL_ORG_X : Nat := 0x19000001
abbrev GAL_ORG_Y : Nat := 0x19000002
abbrev GAL_CELL : Nat := 0x19000003
abbrev GAL_TAU : Nat := 0x19000004
abbrev GAL_E_LSB : Nat := 0x19000005
abbrev GAL_ACC : Nat := 0x19000006
abbrev GAL_OUTSIDE : Nat := 0x19000007
abbrev GAL_SWEEPS : Nat := 0x19000008
abbrev WRD_ENABLE : Nat := 0x1A000001
abbrev WRD_D_EX : Nat := 0x1A000002
abbrev WRD_T_EX : Nat := 0x1A000003
abbrev WRD_CELL : Nat := 0x1A000004
abbrev WRD_GAS_DIR : Nat := 0x1A000005
abbrev WRD_PLUME_ANG : Nat := 0x1A000006
abbrev WRD_PLUME_LEN : Nat := 0x1A000007
abbrev WRD_T_PLUME : Nat := 0x1A000008
abbrev WRD_AGE_FR : Nat := 0x1A000009
abbrev WRD_T_STARVE : Nat := 0x1A00000A
abbrev WRD_SEG_MAX : Nat := 0x1A00000B
abbrev MPL_BIND : Nat := 0x14000001
abbrev MPL_MODE : Nat := 0x14000002
abbrev MPL_DIM : Nat := 0x14000003
abbrev MPL_A : Nat := 0x14000100
abbrev MPL_B : Nat := 0x14000130
abbrev MPL_C : Nat := 0x14000140
abbrev MPL_L : Nat := 0x14000160
abbrev MPL_K : Nat := 0x14000180
abbrev MPL_KI : Nat := 0x14000190
abbrev MPL_N : Nat := 0x14000192
abbrev MPL_F : Nat := 0x14000194
abbrev MPL_NOTCH : Nat := 0x140001A0
abbrev MPL_Y0 : Nat := 0x140001B0
abbrev MPL_X0 : Nat := 0x140001B8
abbrev MPL_XI_MAX : Nat := 0x140001C0
abbrev MPL_U_MIN : Nat := 0x140001C2
abbrev MPL_U_MAX : Nat := 0x140001C4
abbrev MPL_RES_BAND : Nat := 0x140001C8
abbrev MPL_RES_N : Nat := 0x140001CC
abbrev MPL_XFER_FR : Nat := 0x140001CD
abbrev MPL_MAN_U : Nat := 0x140001D0
abbrev MPL_X : Nat := 0x14000200
abbrev MPL_XI : Nat := 0x14000208
abbrev MPL_U : Nat := 0x1400020A
abbrev MPL_U_GOOD : Nat := 0x1400020C
abbrev MPL_E : Nat := 0x14000210
abbrev MPL_RES_CNT : Nat := 0x14000214
abbrev MPL_IMPL_COUNT : Nat := 0x14000215
abbrev MPL_MEAS_LATE : Nat := 0x14000216
abbrev MPL_NUM_FAULT : Nat := 0x14000217
abbrev MPL_MP_REF : Nat := 0x14000040
abbrev MPL_MP_GAP_FR : Nat := 0x14000041
abbrev MPL_MP_CAM : Nat := 0x14000042
abbrev MPL_MP_CAM_OFS : Nat := 0x14000043
abbrev MPL_MP_CAM_AGE : Nat := 0x14000044
abbrev MPL_MP_CAM_STALE : Nat := 0x14000045
abbrev HYL_BIND : Nat := 0x15000001
abbrev HYL_MODE : Nat := 0x15000002
abbrev HYL_HY_REF : Nat := 0x15000040
abbrev HYL_HY_BAND : Nat := 0x15000041
abbrev HYL_HY_DIR : Nat := 0x15000042
abbrev HYL_HY_TON_MIN : Nat := 0x15000043
abbrev HYL_HY_TOFF_MIN : Nat := 0x15000044
abbrev HYL_HY_SAFE : Nat := 0x15000045
abbrev HYL_HY_STALE : Nat := 0x15000046
abbrev HYL_MAN_OUT : Nat := 0x15000047
abbrev HYL_OUT : Nat := 0x15000048
abbrev HYL_IN_NOW : Nat := 0x15000049
abbrev HYL_SWITCHES : Nat := 0x1500004A
abbrev HYL_IMPL_COUNT : Nat := 0x1500004B
abbrev BEAM_PYR_A : Nat := 0x10000080
abbrev BEAM_PYR_B : Nat := 0x10000081
abbrev BEAM_PYR_DARK1 : Nat := 0x10000082
abbrev BEAM_PYR_DARK2 : Nat := 0x10000083
abbrev BEAM_PYR_MIN : Nat := 0x10000084
abbrev BEAM_PYR_TMIN : Nat := 0x10000085
abbrev BEAM_PYR_TMAX : Nat := 0x10000086
abbrev BEAM_PYR_T : Nat := 0x10000088
abbrev BEAM_PYR_I : Nat := 0x10000089
abbrev BEAM_PYR_INVALID : Nat := 0x1000008A
abbrev CNS_LOAD : Nat := 0x18070030
abbrev CNS_OVERRUN : Nat := 0x18070031
abbrev CNS_ORDER_GEN : Nat := 0x18070032
abbrev CNS_TRACE_SLOT : Nat := 0x18070033
abbrev HP_GEN : Nat := 0x12000001
abbrev HP_MODE : Nat := 0x12000002
abbrev HP_STATE : Nat := 0x12000003
abbrev HP_FAULT : Nat := 0x12000004
abbrev HP_FAULT_CAUSE : Nat := 0x12000005
abbrev HP_RTT : Nat := 0x12000006
abbrev HP_D_ONE : Nat := 0x12000007
abbrev HP_PARK_X : Nat := 0x12000008
abbrev HP_PARK_Y : Nat := 0x12000009
abbrev HP_PARK_Z : Nat := 0x1200000A
abbrev HP_PARK_HU : Nat := 0x1200000B
abbrev HP_POS_LIM : Nat := 0x12000010
abbrev HP_PARK_TMO : Nat := 0x12000013
abbrev HP_LINK_TMO : Nat := 0x12000014
abbrev HP_CRC_UP : Nat := 0x12000020
abbrev HP_CRC_DN : Nat := 0x12000021
abbrev HP_MISS : Nat := 0x12000022
abbrev HP_BULK_ERR : Nat := 0x12000023
abbrev HP_AXO_STALE : Nat := 0x12000024
abbrev HP_CLAMP : Nat := 0x12000025
abbrev HP_POS : Nat := 0x12000030
abbrev HP_CUR : Nat := 0x12000033
abbrev HP_LINKS : Nat := 0x12000036
abbrev HP_HANDOVER : Nat := 0x12000037
abbrev HP_ID_VM : Nat := 0x12000040
abbrev HP_ID_SERIAL : Nat := 0x12000041
abbrev HP_ID_FW : Nat := 0x12000043
abbrev HP_ID_CAPS : Nat := 0x12000044
abbrev HP_FS : Nat := 0x12000045
abbrev HP_I_FS : Nat := 0x12000048
abbrev HP_TEMP : Nat := 0x12000050
abbrev HP_VSUP : Nat := 0x12000054
abbrev HP_HEAD_STAT : Nat := 0x12000055
abbrev AXL_VEL_LIM : Nat := 0x13000040
abbrev AXL_VEL_N : Nat := 0x13000041
abbrev AXL_FOL_WIN : Nat := 0x13000042
abbrev AXL_FOL_N : Nat := 0x13000043
abbrev AXL_IRMS_LIM : Nat := 0x13000044
abbrev AXL_IRMS_TAU : Nat := 0x13000045
abbrev AXL_IRMS : Nat := 0x13000046
abbrev AXL_FF : Nat := 0x13000047
abbrev XY2_BEAM : Nat := 0x16000001
abbrev XY2_INV : Nat := 0x16000002
abbrev XY2_SWAP : Nat := 0x16000003
abbrev XY2_STAT : Nat := 0x16000004
abbrev XY2_STAT_MASK : Nat := 0x16000005
abbrev XY2_STAT_POL : Nat := 0x16000006
abbrev XY2_STAT_ERR : Nat := 0x16000007
abbrev XY2_CODE : Nat := 0x16000008
abbrev FBK_TYPE : Nat := 0x20000001
abbrev FBK_DIR : Nat := 0x20000002
abbrev FBK_FILT : Nat := 0x20000003
abbrev FBK_TERM : Nat := 0x20000004
abbrev FBK_IDX_MODE : Nat := 0x20000005
abbrev FBK_IDX_GATE : Nat := 0x20000006
abbrev FBK_IDX_VAL : Nat := 0x20000007
abbrev FBK_IDX_ARMED : Nat := 0x20000009
abbrev FBK_T_STILL : Nat := 0x2000000A
abbrev FBK_ILL_MAX : Nat := 0x2000000B
abbrev FBK_AMP_LO : Nat := 0x2000000C
abbrev FBK_AMP_HI : Nat := 0x2000000D
abbrev FBK_AMP_N : Nat := 0x2000000E
abbrev FBK_ABS_BITS : Nat := 0x2000000F
abbrev FBK_ABS_CLK : Nat := 0x20000010
abbrev FBK_ABS_RD_FR : Nat := 0x20000011
abbrev FBK_ABS_CODE : Nat := 0x20000012
abbrev FBK_ABS_ERR_N : Nat := 0x20000013
abbrev FBK_HALL_ORDER : Nat := 0x20000014
abbrev FBK_ABS_TREC : Nat := 0x20000015
abbrev FBK_LATCH_SRC : Nat := 0x20000018
abbrev FBK_POS : Nat := 0x20000020
abbrev FBK_RAW : Nat := 0x20000022
abbrev FBK_SPEED : Nat := 0x20000024
abbrev FBK_FLAGS : Nat := 0x20000025
abbrev FBK_ILL_CNT : Nat := 0x20000026
abbrev FBK_AMP_VAL : Nat := 0x20000027
abbrev FBK_IDX_CNT : Nat := 0x20000028
abbrev FBK_FAULT : Nat := 0x20000029
abbrev OUT_MODE : Nat := 0x21000001
abbrev OUT_SRC : Nat := 0x21000002
abbrev OUT_EMU_RES : Nat := 0x21000003
abbrev OUT_SRC_RES : Nat := 0x21000004
abbrev OUT_EMU_IDX : Nat := 0x21000005
abbrev OUT_EMU_TMIN : Nat := 0x21000006
abbrev OUT_LAG : Nat := 0x21000007
abbrev PRF_STATE : Nat := 0x22000001
abbrev PRF_TARGET : Nat := 0x22000002
abbrev PRF_CMD_POS : Nat := 0x22000004
abbrev PRF_CMD_SPD : Nat := 0x22000006
abbrev PRF_QUEUE : Nat := 0x22000007
abbrev PRF_QSTOP_DEC : Nat := 0x22000010
abbrev PRF_MAP_PORT : Nat := 0x22000011
abbrev PRF_MAP_NUM : Nat := 0x22000012
abbrev PRF_MAP_DEN : Nat := 0x22000013
abbrev PRF_DEV_WIN : Nat := 0x22000014
abbrev PRF_DEV_N : Nat := 0x22000015
abbrev PRF_DEV : Nat := 0x22000016
abbrev PRF_HOME_SW : Nat := 0x22000017
abbrev PRF_HOME_DIR : Nat := 0x22000018
abbrev PRF_HOME_SPD : Nat := 0x22000019
abbrev PRF_HOME_OFS : Nat := 0x2200001A
abbrev PRF_HOME_VAL : Nat := 0x2200001B
abbrev PRF_HOME_IDX : Nat := 0x2200001D
abbrev PRF_FAULT : Nat := 0x2200001E
abbrev PRF_FAULT_CAUSE : Nat := 0x2200001F
abbrev STP_IRUN : Nat := 0x23000001
abbrev STP_IHOLD : Nat := 0x23000002
abbrev STP_T_HOLD : Nat := 0x23000003
abbrev STP_MSTEP : Nat := 0x23000004
abbrev STP_T_OFF : Nat := 0x23000005
abbrev STP_T_BLANK : Nat := 0x23000006
abbrev STP_FD_FRAC : Nat := 0x23000007
abbrev STP_STAT : Nat := 0x23000010
abbrev STP_PHASE : Nat := 0x23000011
abbrev SD_PW : Nat := 0x24000001
abbrev SD_DSU : Nat := 0x24000002
abbrev SD_POL : Nat := 0x24000003
abbrev SD_FLT_ACT : Nat := 0x24000004
abbrev SD_PINS : Nat := 0x24000005
abbrev SW_ROLE : Nat := 0x25000001
abbrev SW_CELL : Nat := 0x25000002
abbrev SW_POL : Nat := 0x25000003
abbrev SW_FILT : Nat := 0x25000004
abbrev SW_LEVEL : Nat := 0x25000005
abbrev SW_LATCH_POS : Nat := 0x25000006
abbrev SW_LATCH_TS : Nat := 0x25000008
abbrev SW_LATCH_ENC : Nat := 0x2500000A
abbrev PIPE_STATE : Nat := 0x30000001
abbrev PIPE_SRC_PORT : Nat := 0x30000002
abbrev PIPE_VC_MASK : Nat := 0x30000003
abbrev PIPE_DTYPE : Nat := 0x30000004
abbrev PIPE_LANES : Nat := 0x30000005
abbrev PIPE_LANE_MAP : Nat := 0x30000006
abbrev PIPE_WIDTH : Nat := 0x30000007
abbrev PIPE_HEIGHT : Nat := 0x30000008
abbrev PIPE_CFA : Nat := 0x30000009
abbrev PIPE_CFA_PHASE : Nat := 0x3000000A
abbrev PIPE_FN_MODE : Nat := 0x3000000B
abbrev PIPE_FN_WRAP : Nat := 0x3000000C
abbrev PIPE_FRAME_TMO : Nat := 0x3000000D
abbrev PIPE_LAT : Nat := 0x3000000E
abbrev PIPE_I2C_KHZ : Nat := 0x3000000F
abbrev PIPE_DPC_THR : Nat := 0x30000010
abbrev PIPE_DPC_REL : Nat := 0x30000011
abbrev PIPE_SNR_STR : Nat := 0x30000012
abbrev PIPE_SNR_SIG : Nat := 0x30000013
abbrev PIPE_TNR_EN : Nat := 0x30000014
abbrev PIPE_TNR_K : Nat := 0x30000015
abbrev PIPE_TNR_THR : Nat := 0x30000016
abbrev PIPE_BLK : Nat := 0x30000018
abbrev PIPE_SHADE_ACC : Nat := 0x3000001C
abbrev PIPE_CCM : Nat := 0x30000020
abbrev PIPE_CCM_OFS : Nat := 0x3000002C
abbrev PIPE_RT_A : Nat := 0x30000030
abbrev PIPE_RT_B : Nat := 0x30000031
abbrev PIPE_RT_MIN : Nat := 0x30000032
abbrev PIPE_RT_TMIN : Nat := 0x30000033
abbrev PIPE_RT_TMAX : Nat := 0x30000034
abbrev PIPE_OUT_PLANES : Nat := 0x30000038
abbrev PIPE_OUT_8 : Nat := 0x30000039
abbrev PIPE_HIST_PLANE : Nat := 0x3000003A
abbrev PIPE_BLOB_PLANE : Nat := 0x3000003B
abbrev PIPE_BLOB_THR : Nat := 0x3000003C
abbrev PIPE_SPAT_MIN : Nat := 0x3000003D
abbrev PIPE_SPAT_MAX : Nat := 0x3000003E
abbrev PIPE_TRIG_MODE : Nat := 0x30000040
abbrev PIPE_TRIG_PERIOD : Nat := 0x30000041
abbrev PIPE_TRIG_PHASE : Nat := 0x30000042
abbrev PIPE_TRIG_SRC : Nat := 0x30000043
abbrev PIPE_TRIG_DLY : Nat := 0x30000044
abbrev PIPE_TRIG_W : Nat := 0x30000045
abbrev PIPE_TRIG_POL : Nat := 0x30000046
abbrev PIPE_FN : Nat := 0x30000050
abbrev PIPE_GEN : Nat := 0x30000051
abbrev PIPE_PHY_STAT : Nat := 0x30000052
abbrev PIPE_DROP_2ND : Nat := 0x30000053
abbrev PIPE_LINE_BAD : Nat := 0x30000054
abbrev PIPE_ECC_FIX : Nat := 0x30000055
abbrev PIPE_ECC_ERR : Nat := 0x30000056
abbrev PIPE_DT_SKIP : Nat := 0x30000057
abbrev PIPE_IN_OVF : Nat := 0x30000058
abbrev PIPE_FN_ERR : Nat := 0x30000059
abbrev PIPE_TNR_RST : Nat := 0x3000005A
abbrev PIPE_DPC_CNT : Nat := 0x3000005B
abbrev PIPE_NO_SLOT : Nat := 0x3000005C
abbrev LMP_I_SET : Nat := 0x26000001
abbrev LMP_DUTY : Nat := 0x26000002
abbrev LMP_EN : Nat := 0x26000006
abbrev LMP_STAT : Nat := 0x26000007
abbrev LMP_DUTY_EFF : Nat := 0x26000008
abbrev LAMP_STATE : Nat := 0x27000001
abbrev LAMP_FREQ : Nat := 0x27000002
abbrev LAMP_COMPAT : Nat := 0x27000003
abbrev LAMP_COMPAT_BITS : Nat := 0x27000004
abbrev LAMP_ROWS : Nat := 0x27000005
abbrev LAMP_ROW_BLANK : Nat := 0x27000006
abbrev LAMP_ROW_POL : Nat := 0x27000007
abbrev LAMP_DER_T0 : Nat := 0x27000010
abbrev LAMP_DER_T1 : Nat := 0x27000011
abbrev LAMP_DER_MIN : Nat := 0x27000012
abbrev LAMP_DERATE : Nat := 0x27000013
abbrev LAMP_SENS_ADDR : Nat := 0x27000020
abbrev LAMP_SENS_REG : Nat := 0x27000021
abbrev LAMP_SENS_BE : Nat := 0x27000025
abbrev LAMP_I2C_KHZ : Nat := 0x27000026
abbrev LAMP_SENS_TGT : Nat := 0x27000028
abbrev LAMP_SENS_KI : Nat := 0x2700002C
abbrev LAMP_SENS_GRP : Nat := 0x27000030
abbrev LAMP_SENS_SMIN : Nat := 0x27000034
abbrev LAMP_SENS_VAL : Nat := 0x27000038
abbrev LAMP_SENS_S : Nat := 0x2700003C
abbrev LAMP_SENS_ERR : Nat := 0x27000040
abbrev LAMP_STR_SRC : Nat := 0x27000050
abbrev LAMP_STR_DLY : Nat := 0x27000051
abbrev LAMP_STR_W : Nat := 0x27000052
abbrev LAMP_STR_LEAD : Nat := 0x27000053
abbrev LAMP_STR_IDLE : Nat := 0x27000054
abbrev LAMP_STR_SEQ : Nat := 0x27000055
abbrev LAMP_STR_LEN : Nat := 0x27000056
abbrev LAMP_STR_NOW : Nat := 0x27000057
abbrev DDR_PAGE_IDLE : Nat := 0x40000001
abbrev DDR_RANK_PD : Nat := 0x40000002
abbrev DDR_RH_THR : Nat := 0x40000003
abbrev DDR_RH_WIN : Nat := 0x40000004
abbrev DDR_TRAIN_MODE : Nat := 0x40000005
abbrev DDR_REFI_NOW : Nat := 0x40000010
abbrev DDR_REPLAYS : Nat := 0x40000011
abbrev DDR_RH_REFRESH : Nat := 0x40000012
abbrev RANK_STATE : Nat := 0x41000001
abbrev RANK_CE_COUNT : Nat := 0x41000002
abbrev RANK_UE_COUNT : Nat := 0x41000003
abbrev RANK_PAR_ERR : Nat := 0x41000004
abbrev RANK_TRAIN_SRC : Nat := 0x41000005
abbrev RANK_TRAIN_T : Nat := 0x41000006
abbrev SF_PIN_P5 : Nat := 0x42000001
abbrev SF_CACHE_MIB : Nat := 0x42000002
abbrev SF_PIN_USED : Nat := 0x42000003
abbrev SF_HITS : Nat := 0x42000010
abbrev SF_MISSES : Nat := 0x42000011
abbrev SF_CE_COUNT : Nat := 0x42000012
abbrev SF_UE_COUNT : Nat := 0x42000013
abbrev POOL_QUOTA : Nat := 0x43000001
abbrev POOL_USED : Nat := 0x43000002
abbrev POOL_LIVE : Nat := 0x43000003
abbrev POOL_FREEING : Nat := 0x43000004
abbrev POOL_NEXT_INDEX : Nat := 0x43000005
abbrev ZIP_QUEUE : Nat := 0x44000001
abbrev ZIP_JOBS : Nat := 0x44000002
abbrev ZIP_BYTES_IN : Nat := 0x44000003
abbrev ZIP_BYTES_OUT : Nat := 0x44000005
abbrev ZIP_FAILS : Nat := 0x44000007
abbrev REGION_LB_WM2 : Nat := 0x4F000040
abbrev REGION_LB_WM3 : Nat := 0x4F000041
abbrev REGION_VR_WM2 : Nat := 0x4F000042
abbrev REGION_CAM_WM2 : Nat := 0x4F000043
abbrev REGION_CAM_WM3 : Nat := 0x4F000044
abbrev REGION_ZIP_PIPE : Nat := 0x4F000045
abbrev TIME_SRC : Nat := 0x05000001
abbrev TIME_STATE : Nat := 0x05000002
abbrev TIME_FLAGS : Nat := 0x05000003
abbrev TIME_PTP_MODE : Nat := 0x05000004
abbrev TIME_OC_PORT : Nat := 0x05000005
abbrev TIME_DOMAIN : Nat := 0x05000006
abbrev TIME_PRIORITY1 : Nat := 0x05000007
abbrev TIME_PRIORITY2 : Nat := 0x05000008
abbrev TIME_CLOCK_CLASS : Nat := 0x05000009
abbrev TIME_SLAVE_ONLY : Nat := 0x0500000A
abbrev TIME_KP : Nat := 0x05000010
abbrev TIME_KI : Nat := 0x05000011
abbrev TIME_FMAX : Nat := 0x05000012
abbrev TIME_FMAX_EXP : Nat := 0x05000013
abbrev TIME_STEP_THR : Nat := 0x05000014
abbrev TIME_LOCK_THR : Nat := 0x05000015
abbrev TIME_LOCK_N : Nat := 0x05000016
abbrev TIME_UNLOCK_THR : Nat := 0x05000017
abbrev TIME_HOLD_TMO : Nat := 0x05000018
abbrev TIME_AON_PPM : Nat := 0x05000019
abbrev TIME_LATE_MAX : Nat := 0x0500001A
abbrev TIME_UTC_OFS : Nat := 0x0500001B
abbrev TIME_PPS_OUT_MODE : Nat := 0x05000020
abbrev TIME_PPS_W : Nat := 0x05000022
abbrev TIME_PPS_PERIOD : Nat := 0x05000023
abbrev TIME_PPS_IN_EDGE : Nat := 0x05000024
abbrev TIME_OFFSET : Nat := 0x05000030
abbrev TIME_FREQ_ADJ : Nat := 0x05000032
abbrev TIME_STEP_PEND : Nat := 0x05000034
abbrev TIME_STEPS : Nat := 0x05000036
abbrev TIME_TWIN_OFS : Nat := 0x05000037
abbrev TIME_PPS_IN_TS : Nat := 0x05000038
abbrev TIME_LAUNCH_LATE : Nat := 0x0500003C
abbrev PTP_ENABLE : Nat := 0x06000001
abbrev PTP_TRANSPORT : Nat := 0x06000002
abbrev PTP_DELAY_MECH : Nat := 0x06000003
abbrev PTP_LOG_SYNC : Nat := 0x06000004
abbrev PTP_LOG_ANNOUNCE : Nat := 0x06000005
abbrev PTP_LOG_DELAY_REQ : Nat := 0x06000006
abbrev PTP_ASYM : Nat := 0x06000007
abbrev PTP_ING_LAT : Nat := 0x06000010
abbrev PTP_EGR_LAT : Nat := 0x06000018
abbrev PTP_PORT_STATE : Nat := 0x06000020
abbrev PTP_MEAN_DELAY : Nat := 0x06000021
abbrev PTP_RX_SYNC : Nat := 0x06000022
abbrev CAT_SEG_KIB : Nat := 0x07000001
abbrev CAT_SEAL_MS : Nat := 0x07000002
abbrev CAT_SUM_FR : Nat := 0x07000003
abbrev CAT_SEGS_MAX : Nat := 0x07000004
abbrev CAT_NEXT_SEG : Nat := 0x07000010
abbrev CAT_HELD : Nat := 0x07000011
abbrev CAT_LOST : Nat := 0x07000012
abbrev TWIN_PAIRED : Nat := 0x09000001
abbrev TWIN_STATE : Nat := 0x09000002
abbrev TWIN_ROLE : Nat := 0x09000003
abbrev TWIN_PARTNER : Nat := 0x09000004
abbrev TWIN_PINS : Nat := 0x09000005
abbrev TWIN_HB_TMO : Nat := 0x09000010
abbrev TWIN_NEG_TMO : Nat := 0x09000011
abbrev TWIN_LINK_TMO : Nat := 0x09000012
abbrev TWIN_FWD_LEAD : Nat := 0x09000013
abbrev TWIN_FWD_MAX : Nat := 0x09000014
abbrev TWIN_RESYNC_TMO : Nat := 0x09000015
abbrev TWIN_FWD_PEND : Nat := 0x09000020
abbrev TWIN_DIGEST : Nat := 0x09000021
abbrev TWIN_DIGEST_MISS : Nat := 0x09000023
abbrev TWIN_RESYNCS : Nat := 0x09000024
abbrev TWIN_TAKEOVERS : Nat := 0x09000025
abbrev TWIN_TAKEOVER_TS : Nat := 0x09000026
abbrev LOG_HEAD : Nat := 0x0A000001
abbrev LOG_HELD : Nat := 0x0A000002
abbrev LOG_MARK : Nat := 0x0A000003
abbrev LOG_MERGES : Nat := 0x0A000004
abbrev LOG_OVERWRITTEN : Nat := 0x0A000005
abbrev LOG_CLEARS : Nat := 0x0A000006
abbrev KEY_LEVEL : Nat := 0x0B000001
abbrev KEY_WRITTEN : Nat := 0x0B000002
abbrev KEY_WRITER : Nat := 0x0B000004
abbrev SYS_STATE : Nat := 0x00000001
abbrev SYS_PERMIT : Nat := 0x00000002
abbrev SYS_STRAPS : Nat := 0x00000003
abbrev SYS_RESET_CAUSE : Nat := 0x00000004
abbrev SYS_POWERUPS : Nat := 0x00000005
abbrev SYS_ILK_EN : Nat := 0x00000010
abbrev SYS_ILK_POL : Nat := 0x00000011
abbrev SYS_WAKE_EN : Nat := 0x00000012
abbrev SYS_WAKE_TMR : Nat := 0x00000013
abbrev SYS_STBY_DIV : Nat := 0x00000014
abbrev SYS_FW_RUN : Nat := 0x00000020
abbrev SYS_FW_PREF : Nat := 0x00000021
abbrev SYS_FW_ACC : Nat := 0x00000022
abbrev SYS_FW_LOAD : Nat := 0x00000023
abbrev SYS_FW_VER : Nat := 0x00000024
abbrev SYS_PRESET_SAVE : Nat := 0x00000028
abbrev SYS_PRESET_FACTORY : Nat := 0x00000029
abbrev DOC_DIS : Nat := 0x02000001
abbrev DOC_LEVEL_H : Nat := 0x02000002
abbrev DOC_DEPTH_H : Nat := 0x02000003
abbrev DOC_STACK_H : Nat := 0x02000008
abbrev DOC_SOFT : Nat := 0x02000010
abbrev DOC_PEND : Nat := 0x02000800
abbrev DOC_SRC : Nat := 0x02001000
abbrev HK_VALUE : Nat := 0x0C000001
abbrev HK_STAT : Nat := 0x0C000002
abbrev HK_RATE : Nat := 0x0C000003
abbrev HK_WARN_ABS : Nat := 0x0C000010
abbrev HK_SHUT_ABS : Nat := 0x0C000011
abbrev HK_WARN_RATE : Nat := 0x0C000012
abbrev HK_SHUT_RATE : Nat := 0x0C000013
abbrev HK_RATE_WIN : Nat := 0x0C000014
abbrev HK_LIM_LO : Nat := 0x0C000015
abbrev HK_LIM_HI : Nat := 0x0C000016
abbrev IO_GPO : Nat := 0x0D000001
abbrev IO_GPO_OWN : Nat := 0x0D000002
abbrev IO_GPO_PIN : Nat := 0x0D000003
abbrev IO_EVT_LEVEL : Nat := 0x0D000004
abbrev IO_EVT_TYPE : Nat := 0x0D000005
abbrev IO_ILK_LEVEL : Nat := 0x0D000006
abbrev IO_LASER_EN : Nat := 0x0D000007
abbrev CAL_EXPORT : Nat := 0x0E000001
abbrev CAL_ENTRY : Nat := 0x0E001000
end P

/-- Parameters of block (R36). -/
def defs_block : List PDef := [
  ⟨0x0010, 1, 1, 32, false, .rw, (.nat 0 10000000), 0x64, false⟩,  -- EXP.BLK[n].IDLE_GATE
  ⟨0x0011, 1, 1, 2, false, .ro, .any, 0x0, false⟩,  -- EXP.BLK[n].CLK_STATE
  ⟨0x0012, 1, 1, 3, false, .ro, .any, 0x0, false⟩,  -- EXP.BLK[n].ERR_CLASS
  ⟨0x0013, 1, 1, 32, false, .ro, .any, 0x0, false⟩,  -- EXP.BLK[n].ERR_COUNT
  ⟨0x0014, 1, 1, 4, false, .rw, (.nat 1 15), 0x4, false⟩  -- EXP.BLK[n].ARB_WT
]

/-- Parameters of regionClass (R36). -/
def defs_regionClass : List PDef := [
  ⟨0x0012, 1, 1, 3, false, .ro, .any, 0x0, false⟩,  -- EXP.REGION.ERR_CLASS
  ⟨0x0014, 1, 1, 4, false, .rw, (.nat 1 15), 0x4, false⟩  -- EXP.REGION.ARB_WT
]

/-- MGT class 1. -/
def defs_stream : List PDef := [
  ⟨0x0001, 1, 1, 9, false, .rw, (.nat 1 256), 0x1, false⟩,  -- MGT.STREAM[s].MOD_N
  ⟨0x0002, 1, 1, 14, false, .rw, (.nat 1 10000), 0x32, false⟩,  -- MGT.STREAM[s].MOD_T
  ⟨0x0003, 1, 1, 2, false, .rw, .any, 0x0, false⟩,  -- MGT.STREAM[s].RQ
  ⟨0x0004, 1, 1, 32, false, .ro, .any, 0x0, false⟩,  -- MGT.STREAM[s].EXPECT
  ⟨0x0005, 1, 1, 13, false, .ro, .any, 0x0, false⟩,  -- MGT.STREAM[s].PENDING
  ⟨0x0006, 1, 1, 13, false, .ro, .any, 0x0, false⟩,  -- MGT.STREAM[s].UNDELIV
  ⟨0x0007, 1, 1, 32, false, .ro, .any, 0x0, false⟩,  -- MGT.STREAM[s].RETRY
  ⟨0x0008, 1, 1, 32, false, .ro, .any, 0x0, false⟩  -- MGT.STREAM[s].STALE
]

/-- MGT class 3. -/
def defs_sess : List PDef := [
  ⟨0x0001, 1, 1, 3, false, .ro, .any, 0x7, false⟩,  -- MGT.SESS[i].LEVEL
  ⟨0x0002, 1, 1, 16, false, .rw, (.nat 0 60000), 0x0, false⟩,  -- MGT.SESS[i].TMO
  ⟨0x0003, 1, 1, 1, false, .rwl, .any, 0x0, false⟩  -- MGT.SESS[i].TMO_ACT
]

/-- MGT class 4. -/
def defs_eth : List PDef := [
  ⟨0x0001, 1, 1, 32, false, .rwl, .any, 0x0, false⟩,  -- MGT.ETH[p].IPV4
  ⟨0x0002, 1, 1, 32, false, .rwl, .any, 0x0, false⟩,  -- MGT.ETH[p].MASK
  ⟨0x0003, 1, 1, 1, false, .rwl, .any, 0x0, false⟩  -- MGT.ETH[p].JUMBO
]

/-- Parameters of mgtBlk1 (R36). -/
def defs_mgtBlk1 : List PDef := [
  ⟨0x0020, 1, 1, 32, false, .ro, .any, 0x0, false⟩,  -- MGT.BLK[1].FRAME_ERR
  ⟨0x0021, 1, 1, 24, false, .rwl, (.nat 115200 12000000), 0x0, false⟩  -- MGT.BLK[1].RS485_BAUD
]

/-- EXP class 0. -/
def defs_beam0 : List PDef := [
  ⟨0x0001, 1, 1, 3, false, .ro, .any, 0x0, false⟩,  -- EXP.BEAM[n].STATE
  ⟨0x0002, 1, 1, 13, false, .rw, (.nat 0 4096), 0x0, false⟩,  -- EXP.BEAM[n].ADV
  ⟨0x0003, 1, 1, 32, true, .rw, (.int (-100000) 1000000), 0x0, false⟩,  -- EXP.BEAM[n].DLY_ON
  ⟨0x0004, 1, 1, 32, true, .rw, (.int (-100000) 1000000), 0x0, false⟩,  -- EXP.BEAM[n].DLY_OFF
  ⟨0x0005, 1, 1, 20, false, .rw, (.nat 0 1000000), 0x0, false⟩,  -- EXP.BEAM[n].DLY_MARK
  ⟨0x0006, 1, 1, 20, false, .rw, (.nat 0 1000000), 0x0, false⟩,  -- EXP.BEAM[n].DLY_JUMP
  ⟨0x0007, 1, 1, 20, false, .rw, (.nat 0 1000000), 0x0, false⟩,  -- EXP.BEAM[n].DLY_POLY
  ⟨0x0008, 1, 1, 16, false, .rw, .any, 0xFFFF, false⟩,  -- EXP.BEAM[n].P_MAX
  ⟨0x0009, 1, 1, 8, false, .rw, (.nat 2 255), 0xA, false⟩,  -- EXP.BEAM[n].GATE_MIN
  ⟨0x000A, 1, 1, 12, false, .rw, (.nat 1 4000), 0x28, false⟩,  -- EXP.BEAM[n].DIS_RAMP
  ⟨0x000B, 1, 1, 32, false, .rw, .any, 0xFFFFFFFF, false⟩,  -- EXP.BEAM[n].FC_ACC
  ⟨0x000C, 1, 1, 32, false, .rw, .any, 0xFFFFFFFF, false⟩  -- EXP.BEAM[n].HM_ACC
]
/-- EXP class 0. -/
def defs_beam1 : List PDef := [
  ⟨0x000D, 1, 1, 32, false, .rw, .f32, 0x0, false⟩,  -- EXP.BEAM[n].FOCUS_K
  ⟨0x000E, 1, 1, 10, false, .rw, (.nat 0 1000), 0x0, false⟩,  -- EXP.BEAM[n].RESUME_BACK
  ⟨0x000F, 1, 1, 16, false, .rw, (.nat 1 60000), 0x64, false⟩,  -- EXP.BEAM[n].ARM_TMO
  ⟨0x0020, 1, 1, 32, false, .ro, .any, 0x0, false⟩,  -- EXP.BEAM[n].VEC_DONE
  ⟨0x0021, 1, 1, 32, false, .ro, .any, 0x0, false⟩,  -- EXP.BEAM[n].VEC_CANCEL
  ⟨0x0022, 1, 1, 32, false, .ro, .any, 0x0, false⟩,  -- EXP.BEAM[n].TAG_NOW
  ⟨0x0023, 1, 1, 32, false, .ro, .any, 0x0, false⟩,  -- EXP.BEAM[n].GATE_SHORT
  ⟨0x0024, 1, 1, 32, false, .ro, .any, 0x0, false⟩,  -- EXP.BEAM[n].CORR_LATE
  ⟨0x0025, 1, 1, 3, false, .ro, .any, 0x0, false⟩,  -- EXP.BEAM[n].INT_CAUSE
  ⟨0x0026, 1, 1, 32, true, .ro, .any, 0x0, false⟩,  -- EXP.BEAM[n].POS_X
  ⟨0x0027, 1, 1, 32, true, .ro, .any, 0x0, false⟩,  -- EXP.BEAM[n].POS_Y
  ⟨0x0028, 1, 1, 32, false, .ro, .any, 0x0, false⟩  -- EXP.BEAM[n].RATE_WAIT
]
/-- EXP class 0. -/
def defs_beam2 : List PDef := [
  ⟨0x0100, 16, 16, 25, false, .rw, (.nat 1 20000000), 0x7A120, false⟩,  -- EXP.BEAM[n].SET[k].MARK_SPD
  ⟨0x0101, 16, 16, 26, false, .rw, (.nat 1 50000000), 0x4C4B40, false⟩,  -- EXP.BEAM[n].SET[k].JUMP_SPD
  ⟨0x0102, 16, 16, 16, false, .rw, .any, 0x0, false⟩,  -- EXP.BEAM[n].SET[k].POWER
  ⟨0x0103, 16, 16, 16, false, .rw, .any, 0x0, false⟩,  -- EXP.BEAM[n].SET[k].SKY_IN
  ⟨0x0104, 16, 16, 16, false, .rw, .any, 0x0, false⟩,  -- EXP.BEAM[n].SET[k].SKY_OUT
  ⟨0x0040, 1, 1, 2, false, .rw, (.nat 0 2), 0x0, false⟩,  -- EXP.BEAM[n].RAS_SRC
  ⟨0x0041, 1, 1, 4, false, .rw, .any, 0x0, false⟩,  -- EXP.BEAM[n].RAS_SYNC_IN
  ⟨0x0042, 1, 1, 1, false, .rw, .any, 0x0, false⟩,  -- EXP.BEAM[n].RAS_SYNC_EDGE
  ⟨0x0043, 1, 1, 32, false, .rw, (.nat 0 100000000), 0xF4240, false⟩,  -- EXP.BEAM[n].RAS_SYNC_DLY
  ⟨0x0044, 1, 1, 2, false, .rw, (.nat 0 2), 0x0, false⟩,  -- EXP.BEAM[n].RAS_XING_AXIS
  ⟨0x0045, 1, 1, 32, true, .rw, (.int (-2147483648) 2147483647), 0x0, false⟩,  -- EXP.BEAM[n].RAS_XING_POS
  ⟨0x0046, 1, 1, 1, false, .rw, .any, 0x0, false⟩  -- EXP.BEAM[n].RAS_XING_DIR
]
/-- EXP class 0. -/
def defs_beam3 : List PDef := [
  ⟨0x0047, 1, 1, 16, false, .rw, .any, 0x8000, false⟩,  -- EXP.BEAM[n].RAS_PSCALE
  ⟨0x0048, 1, 1, 12, false, .rw, .any, 0x10, false⟩,  -- EXP.BEAM[n].RAS_RPT_LIMIT
  ⟨0x0049, 1, 1, 8, false, .rw, (.nat 1 255), 0x5, false⟩,  -- EXP.BEAM[n].RAS_MOD_Z
  ⟨0x004C, 4, 1, 32, false, .rw, .any, 0x8000, false⟩,  -- EXP.BEAM[n].RAS_SHAPE[s]
  ⟨0x0050, 1, 1, 32, false, .ro, .any, 0x0, false⟩,  -- EXP.BEAM[n].RAS_UNDERRUN
  ⟨0x0051, 1, 1, 32, false, .ro, .any, 0x0, false⟩,  -- EXP.BEAM[n].RAS_CLAMP
  ⟨0x0052, 1, 1, 32, false, .ro, .any, 0x0, false⟩,  -- EXP.BEAM[n].RAS_SYNC_MISS
  ⟨0x0053, 1, 1, 15, false, .ro, .any, 0x0, false⟩,  -- EXP.BEAM[n].RAS_LB_FILL
  ⟨0x0054, 1, 1, 32, false, .ro, .any, 0x0, false⟩,  -- EXP.BEAM[n].RAS_REGION_NO
  ⟨0x0055, 1, 1, 16, false, .ro, .any, 0x0, false⟩,  -- EXP.BEAM[n].RAS_LINE_NOW
  ⟨0x0060, 1, 1, 25, false, .rw, (.nat 0 20000000), 0x0, false⟩,  -- EXP.BEAM[n].GAL_P_FS
  ⟨0x0061, 1, 1, 32, false, .rw, (.f32In 0x0 0x3F800000), 0x3F000000, false⟩  -- EXP.BEAM[n].GAL_K
]
/-- EXP class 0. -/
def defs_beam4 : List PDef := [
  ⟨0x0062, 1, 1, 16, false, .rw, .any, 0x8000, false⟩,  -- EXP.BEAM[n].GAL_G_MIN
  ⟨0x0070, 1, 1, 1, false, .ro, .any, 0x0, false⟩,  -- EXP.BEAM[n].WRD_HOLD_NOW
  ⟨0x0071, 1, 1, 32, false, .ro, .any, 0x0, false⟩,  -- EXP.BEAM[n].WRD_HOLDS
  ⟨0x0072, 1, 1, 32, false, .w1c, .any, 0x0, false⟩,  -- EXP.BEAM[n].WRD_HOLD_MAX
  ⟨0x0073, 1, 1, 32, false, .ro, .any, 0x0, false⟩,  -- EXP.BEAM[n].WRD_STARVES
  ⟨0x0080, 1, 1, 32, false, .rw, .f32Pos, 0x448D0E66, false⟩,  -- EXP.BEAM[n].PYR_A
  ⟨0x0081, 1, 1, 32, false, .rw, .f32, 0x3F20346E, false⟩,  -- EXP.BEAM[n].PYR_B
  ⟨0x0082, 1, 1, 16, false, .rw, .any, 0x0, false⟩,  -- EXP.BEAM[n].PYR_DARK1
  ⟨0x0083, 1, 1, 16, false, .rw, .any, 0x0, false⟩,  -- EXP.BEAM[n].PYR_DARK2
  ⟨0x0084, 1, 1, 16, false, .rw, .any, 0x3E8, false⟩,  -- EXP.BEAM[n].PYR_MIN
  ⟨0x0085, 1, 1, 32, false, .rw, .f32, 0x44960000, false⟩,  -- EXP.BEAM[n].PYR_TMIN
  ⟨0x0086, 1, 1, 32, false, .rw, .f32, 0x457A0000, false⟩  -- EXP.BEAM[n].PYR_TMAX
]
/-- EXP class 0. -/
def defs_beam5 : List PDef := [
  ⟨0x0088, 1, 1, 32, false, .ro, .f32, 0x0, false⟩,  -- EXP.BEAM[n].PYR_T
  ⟨0x0089, 1, 1, 32, false, .ro, .f32, 0x0, false⟩,  -- EXP.BEAM[n].PYR_I
  ⟨0x008A, 1, 1, 32, false, .ro, .any, 0x0, false⟩  -- EXP.BEAM[n].PYR_INVALID
]
/-- EXP class 0. -/
def defs_beam : List PDef :=
  defs_beam0 ++ defs_beam1 ++ defs_beam2 ++ defs_beam3 ++ defs_beam4 ++ defs_beam5

/-- EXP class 1. -/
def defs_lsr0 : List PDef := [
  ⟨0x0001, 1, 1, 2, false, .rw, (.nat 0 2), 0x0, false⟩,  -- EXP.LSR[n].MODE
  ⟨0x0002, 1, 1, 14, false, .rw, (.nat 0 10000), 0x2710, false⟩,  -- EXP.LSR[n].AOUT_FS
  ⟨0x0003, 1, 1, 22, false, .rw, (.nat 0 4000000), 0x0, false⟩,  -- EXP.LSR[n].MOD_FREQ
  ⟨0x0004, 1, 1, 12, false, .rw, .any, 0x800, false⟩,  -- EXP.LSR[n].MOD_DUTY
  ⟨0x0005, 1, 1, 22, false, .rw, (.nat 1000 4000000), 0x4E20, false⟩,  -- EXP.LSR[n].PF_FMIN
  ⟨0x0006, 1, 1, 22, false, .rw, (.nat 1000 4194303), 0x61A80, false⟩,  -- EXP.LSR[n].PF_FMAX
  ⟨0x0007, 1, 1, 14, false, .rw, (.nat 20 10000), 0xC8, false⟩,  -- EXP.LSR[n].PF_PW
  ⟨0x0008, 1, 1, 1, false, .rw, .any, 0x1, false⟩,  -- EXP.LSR[n].READY_REQ
  ⟨0x0009, 1, 1, 3, false, .rw, .any, 0x0, false⟩,  -- EXP.LSR[n].IN_POL
  ⟨0x000A, 1, 1, 1, false, .rw, .any, 0x0, false⟩,  -- EXP.LSR[n].SYNC_EN
  ⟨0x000B, 1, 1, 1, false, .rw, .any, 0x0, false⟩,  -- EXP.LSR[n].ALARM_ACT
  ⟨0x000C, 1, 1, 24, false, .ro, .any, 0x0, false⟩  -- EXP.LSR[n].SER_ID
]
/-- EXP class 1. -/
def defs_lsr1 : List PDef := [
  ⟨0x000D, 1, 1, 8, false, .ro, .any, 0x0, false⟩  -- EXP.LSR[n].PINS
]
/-- EXP class 1. -/
def defs_lsr : List PDef :=
  defs_lsr0 ++ defs_lsr1

/-- EXP class 9. -/
def defs_gal : List PDef := [
  ⟨0x0001, 1, 1, 32, true, .rw, (.int (-2147483648) 2147483647), 0xE17B8000, false⟩,  -- EXP.GAL.ORG_X
  ⟨0x0002, 1, 1, 32, true, .rw, (.int (-2147483648) 2147483647), 0xE17B8000, false⟩,  -- EXP.GAL.ORG_Y
  ⟨0x0003, 1, 1, 1, false, .rw, .any, 0x0, false⟩,  -- EXP.GAL.CELL
  ⟨0x0004, 1, 1, 14, false, .rw, (.nat 1 10000), 0x28, false⟩,  -- EXP.GAL.TAU
  ⟨0x0005, 1, 1, 10, false, .rw, (.nat 1 1000), 0x32, false⟩,  -- EXP.GAL.E_LSB
  ⟨0x0006, 1, 1, 32, false, .ro, .any, 0x0, false⟩,  -- EXP.GAL.ACC
  ⟨0x0007, 1, 1, 32, false, .ro, .any, 0x0, false⟩,  -- EXP.GAL.OUTSIDE
  ⟨0x0008, 1, 1, 32, false, .ro, .any, 0x0, false⟩  -- EXP.GAL.SWEEPS
]

/-- EXP class 10. -/
def defs_wrd : List PDef := [
  ⟨0x0001, 1, 1, 1, false, .rw, .any, 0x1, false⟩,  -- EXP.WRD.ENABLE
  ⟨0x0002, 1, 1, 16, false, .rw, (.nat 0 50000), 0x7D0, false⟩,  -- EXP.WRD.D_EX
  ⟨0x0003, 1, 1, 20, false, .rw, (.nat 0 1000000), 0xBB8, false⟩,  -- EXP.WRD.T_EX
  ⟨0x0004, 1, 1, 13, false, .rw, (.nat 500 4000), 0x3E8, false⟩,  -- EXP.WRD.CELL
  ⟨0x0005, 1, 1, 23, false, .rw, (.nat 0 6283185), 0x0, false⟩,  -- EXP.WRD.GAS_DIR
  ⟨0x0006, 1, 1, 20, false, .rw, (.nat 0 785398), 0x3FEA7, false⟩,  -- EXP.WRD.PLUME_ANG
  ⟨0x0007, 1, 1, 17, false, .rw, (.nat 0 100000), 0x4E20, false⟩,  -- EXP.WRD.PLUME_LEN
  ⟨0x0008, 1, 1, 20, false, .rw, (.nat 0 1000000), 0x1388, false⟩,  -- EXP.WRD.T_PLUME
  ⟨0x0009, 1, 1, 16, false, .rw, (.nat 1 65535), 0x40, false⟩,  -- EXP.WRD.AGE_FR
  ⟨0x000A, 1, 1, 24, false, .rw, (.nat 100 10000000), 0x2710, false⟩,  -- EXP.WRD.T_STARVE
  ⟨0x000B, 1, 1, 14, false, .ro, .any, 0x2000, false⟩  -- EXP.WRD.SEG_MAX
]

/-- EXP class 4. -/
def defs_mpl0 : List PDef := [
  ⟨0x0001, 1, 1, 18, false, .ro, .any, 0x0, false⟩,  -- EXP.MPL[s].BIND
  ⟨0x0002, 1, 1, 3, false, .ro, .any, 0x0, false⟩,  -- EXP.MPL[s].MODE
  ⟨0x0003, 1, 1, 12, false, .rw, .any, 0x29, false⟩,  -- EXP.MPL[s].DIM
  ⟨0x0100, 36, 1, 32, false, .rw, .f32, 0x0, false⟩,  -- EXP.MPL[s].A[i][j]
  ⟨0x0130, 12, 1, 32, false, .rw, .f32, 0x0, false⟩,  -- EXP.MPL[s].B[i][j]
  ⟨0x0140, 18, 1, 32, false, .rw, .f32, 0x0, false⟩,  -- EXP.MPL[s].C[i][j]
  ⟨0x0160, 18, 1, 32, false, .rw, .f32, 0x0, false⟩,  -- EXP.MPL[s].L[i][j]
  ⟨0x0180, 12, 1, 32, false, .rw, .f32, 0x0, false⟩,  -- EXP.MPL[s].K[j][i]
  ⟨0x0190, 2, 1, 32, false, .rw, .f32, 0x0, false⟩,  -- EXP.MPL[s].KI[j]
  ⟨0x0192, 2, 1, 32, false, .rw, .f32, 0x0, false⟩,  -- EXP.MPL[s].N[j]
  ⟨0x0194, 2, 1, 32, false, .rw, .f32, 0x0, false⟩,  -- EXP.MPL[s].F[j]
  ⟨0x01A0, 10, 1, 32, false, .rw, .f32, 0x3F800000, false⟩  -- EXP.MPL[s].NOTCH[q][c]
]
/-- EXP class 4. -/
def defs_mpl1 : List PDef := [
  ⟨0x01B0, 3, 1, 32, false, .rw, .f32, 0x0, false⟩,  -- EXP.MPL[s].Y0[i]
  ⟨0x01B8, 6, 1, 32, false, .rw, .f32, 0x0, false⟩,  -- EXP.MPL[s].X0[i]
  ⟨0x01C0, 1, 1, 32, false, .rw, .f32Pos, 0x49742400, false⟩,  -- EXP.MPL[s].XI_MAX
  ⟨0x01C2, 2, 1, 32, false, .rw, .f32, 0xBF800000, false⟩,  -- EXP.MPL[s].U_MIN[j]
  ⟨0x01C4, 2, 1, 32, false, .rw, .f32, 0x3F800000, false⟩,  -- EXP.MPL[s].U_MAX[j]
  ⟨0x01C8, 3, 1, 32, false, .rw, .f32, 0x0, false⟩,  -- EXP.MPL[s].RES_BAND[i]
  ⟨0x01CC, 1, 1, 16, false, .rw, (.nat 1 65535), 0x8, false⟩,  -- EXP.MPL[s].RES_N
  ⟨0x01CD, 1, 1, 16, false, .rw, (.nat 1 65535), 0x40, false⟩,  -- EXP.MPL[s].XFER_FR
  ⟨0x01D0, 2, 1, 32, false, .rw, .f32, 0x0, false⟩,  -- EXP.MPL[s].MAN_U[j]
  ⟨0x0200, 6, 1, 32, false, .ro, .f32, 0x0, false⟩,  -- EXP.MPL[s].X[i]
  ⟨0x0208, 2, 1, 32, false, .ro, .f32, 0x0, false⟩,  -- EXP.MPL[s].XI[j]
  ⟨0x020A, 2, 1, 32, false, .ro, .f32, 0x0, false⟩  -- EXP.MPL[s].U[j]
]
/-- EXP class 4. -/
def defs_mpl2 : List PDef := [
  ⟨0x020C, 2, 1, 32, false, .ro, .f32, 0x0, false⟩,  -- EXP.MPL[s].U_GOOD[j]
  ⟨0x0210, 3, 1, 32, false, .ro, .f32, 0x0, false⟩,  -- EXP.MPL[s].E[i]
  ⟨0x0214, 1, 1, 16, false, .ro, .any, 0x0, false⟩,  -- EXP.MPL[s].RES_CNT
  ⟨0x0215, 1, 1, 32, false, .ro, .any, 0x0, false⟩,  -- EXP.MPL[s].IMPL_COUNT
  ⟨0x0216, 1, 1, 32, false, .ro, .any, 0x0, false⟩,  -- EXP.MPL[s].MEAS_LATE
  ⟨0x0217, 1, 1, 32, false, .ro, .any, 0x0, false⟩,  -- EXP.MPL[s].NUM_FAULT
  ⟨0x0040, 1, 1, 32, false, .rw, .f32, 0x0, false⟩,  -- EXP.MPL[s].MP_REF
  ⟨0x0041, 1, 1, 16, false, .rw, (.nat 1 65535), 0x8, false⟩,  -- EXP.MPL[s].MP_GAP_FR
  ⟨0x0042, 1, 1, 8, false, .rw, .any, 0x0, false⟩,  -- EXP.MPL[s].MP_CAM
  ⟨0x0043, 1, 1, 32, true, .rw, (.int (-100000000) 100000000), 0x0, false⟩,  -- EXP.MPL[s].MP_CAM_OFS
  ⟨0x0044, 1, 1, 8, false, .rw, (.nat 1 255), 0x40, false⟩,  -- EXP.MPL[s].MP_CAM_AGE
  ⟨0x0045, 1, 1, 32, false, .ro, .any, 0x0, false⟩  -- EXP.MPL[s].MP_CAM_STALE
]
/-- EXP class 4. -/
def defs_mpl : List PDef :=
  defs_mpl0 ++ defs_mpl1 ++ defs_mpl2

/-- EXP class 3. -/
def defs_axl0 : List PDef := [
  ⟨0x0001, 1, 1, 18, false, .ro, .any, 0x0, false⟩,  -- EXP.AXL[s].BIND
  ⟨0x0002, 1, 1, 3, false, .ro, .any, 0x0, false⟩,  -- EXP.AXL[s].MODE
  ⟨0x0003, 1, 1, 12, false, .rw, .any, 0x29, false⟩,  -- EXP.AXL[s].DIM
  ⟨0x0100, 36, 1, 32, false, .rw, .f32, 0x0, false⟩,  -- EXP.AXL[s].A[i][j]
  ⟨0x0130, 12, 1, 32, false, .rw, .f32, 0x0, false⟩,  -- EXP.AXL[s].B[i][j]
  ⟨0x0140, 18, 1, 32, false, .rw, .f32, 0x0, false⟩,  -- EXP.AXL[s].C[i][j]
  ⟨0x0160, 18, 1, 32, false, .rw, .f32, 0x0, false⟩,  -- EXP.AXL[s].L[i][j]
  ⟨0x0180, 12, 1, 32, false, .rw, .f32, 0x0, false⟩,  -- EXP.AXL[s].K[j][i]
  ⟨0x0190, 2, 1, 32, false, .rw, .f32, 0x0, false⟩,  -- EXP.AXL[s].KI[j]
  ⟨0x0192, 2, 1, 32, false, .rw, .f32, 0x0, false⟩,  -- EXP.AXL[s].N[j]
  ⟨0x0194, 2, 1, 32, false, .rw, .f32, 0x0, false⟩,  -- EXP.AXL[s].F[j]
  ⟨0x01A0, 10, 1, 32, false, .rw, .f32, 0x3F800000, false⟩  -- EXP.AXL[s].NOTCH[q][c]
]
/-- EXP class 3. -/
def defs_axl1 : List PDef := [
  ⟨0x01B0, 3, 1, 32, false, .rw, .f32, 0x0, false⟩,  -- EXP.AXL[s].Y0[i]
  ⟨0x01B8, 6, 1, 32, false, .rw, .f32, 0x0, false⟩,  -- EXP.AXL[s].X0[i]
  ⟨0x01C0, 1, 1, 32, false, .rw, .f32Pos, 0x49742400, false⟩,  -- EXP.AXL[s].XI_MAX
  ⟨0x01C2, 2, 1, 32, false, .rw, .f32, 0xBF800000, false⟩,  -- EXP.AXL[s].U_MIN[j]
  ⟨0x01C4, 2, 1, 32, false, .rw, .f32, 0x3F800000, false⟩,  -- EXP.AXL[s].U_MAX[j]
  ⟨0x01C8, 3, 1, 32, false, .rw, .f32, 0x0, false⟩,  -- EXP.AXL[s].RES_BAND[i]
  ⟨0x01CC, 1, 1, 16, false, .rw, (.nat 1 65535), 0x8, false⟩,  -- EXP.AXL[s].RES_N
  ⟨0x01CD, 1, 1, 16, false, .rw, (.nat 1 65535), 0x40, false⟩,  -- EXP.AXL[s].XFER_FR
  ⟨0x01D0, 2, 1, 32, false, .rw, .f32, 0x0, false⟩,  -- EXP.AXL[s].MAN_U[j]
  ⟨0x0200, 6, 1, 32, false, .ro, .f32, 0x0, false⟩,  -- EXP.AXL[s].X[i]
  ⟨0x0208, 2, 1, 32, false, .ro, .f32, 0x0, false⟩,  -- EXP.AXL[s].XI[j]
  ⟨0x020A, 2, 1, 32, false, .ro, .f32, 0x0, false⟩  -- EXP.AXL[s].U[j]
]
/-- EXP class 3. -/
def defs_axl2 : List PDef := [
  ⟨0x020C, 2, 1, 32, false, .ro, .f32, 0x0, false⟩,  -- EXP.AXL[s].U_GOOD[j]
  ⟨0x0210, 3, 1, 32, false, .ro, .f32, 0x0, false⟩,  -- EXP.AXL[s].E[i]
  ⟨0x0214, 1, 1, 16, false, .ro, .any, 0x0, false⟩,  -- EXP.AXL[s].RES_CNT
  ⟨0x0215, 1, 1, 32, false, .ro, .any, 0x0, false⟩,  -- EXP.AXL[s].IMPL_COUNT
  ⟨0x0216, 1, 1, 32, false, .ro, .any, 0x0, false⟩,  -- EXP.AXL[s].MEAS_LATE
  ⟨0x0217, 1, 1, 32, false, .ro, .any, 0x0, false⟩,  -- EXP.AXL[s].NUM_FAULT
  ⟨0x0040, 1, 1, 24, false, .rw, .any, 0x7FFFFF, false⟩,  -- EXP.AXL[s].VEL_LIM
  ⟨0x0041, 1, 1, 8, false, .rw, (.nat 1 255), 0x2, false⟩,  -- EXP.AXL[s].VEL_N
  ⟨0x0042, 1, 1, 24, false, .rw, .any, 0x7FFFFF, false⟩,  -- EXP.AXL[s].FOL_WIN
  ⟨0x0043, 1, 1, 16, false, .rw, (.nat 1 65535), 0x10, false⟩,  -- EXP.AXL[s].FOL_N
  ⟨0x0044, 1, 1, 32, false, .rw, (.f32In 0x0 0x3F800000), 0x3F800000, false⟩,  -- EXP.AXL[s].IRMS_LIM
  ⟨0x0045, 1, 1, 24, false, .rw, (.nat 1 10000000), 0x9897, false⟩  -- EXP.AXL[s].IRMS_TAU
]
/-- EXP class 3. -/
def defs_axl3 : List PDef := [
  ⟨0x0046, 1, 1, 32, false, .ro, .f32, 0x0, false⟩,  -- EXP.AXL[s].IRMS
  ⟨0x0047, 1, 1, 32, false, .ro, .f32, 0x0, false⟩  -- EXP.AXL[s].FF
]
/-- EXP class 3. -/
def defs_axl : List PDef :=
  defs_axl0 ++ defs_axl1 ++ defs_axl2 ++ defs_axl3

/-- EXP class 5. -/
def defs_hyl0 : List PDef := [
  ⟨0x0001, 1, 1, 18, false, .ro, .any, 0x0, false⟩,  -- EXP.HYL[s].BIND
  ⟨0x0002, 1, 1, 3, false, .ro, .any, 0x0, false⟩,  -- EXP.HYL[s].MODE
  ⟨0x0040, 1, 1, 32, false, .rw, .f32, 0x0, false⟩,  -- EXP.HYL[s].HY_REF
  ⟨0x0041, 1, 1, 32, false, .rw, .f32NonNeg, 0x0, false⟩,  -- EXP.HYL[s].HY_BAND
  ⟨0x0042, 1, 1, 1, false, .rw, .any, 0x0, false⟩,  -- EXP.HYL[s].HY_DIR
  ⟨0x0043, 1, 1, 16, false, .rw, .any, 0x3E8, false⟩,  -- EXP.HYL[s].HY_TON_MIN
  ⟨0x0044, 1, 1, 16, false, .rw, .any, 0x3E8, false⟩,  -- EXP.HYL[s].HY_TOFF_MIN
  ⟨0x0045, 1, 1, 2, false, .rw, (.nat 0 2), 0x0, false⟩,  -- EXP.HYL[s].HY_SAFE
  ⟨0x0046, 1, 1, 4, false, .rw, (.nat 1 15), 0x2, false⟩,  -- EXP.HYL[s].HY_STALE
  ⟨0x0047, 1, 1, 1, false, .rw, .any, 0x0, false⟩,  -- EXP.HYL[s].MAN_OUT
  ⟨0x0048, 1, 1, 1, false, .ro, .any, 0x0, false⟩,  -- EXP.HYL[s].OUT
  ⟨0x0049, 1, 1, 32, false, .ro, .f32, 0x0, false⟩  -- EXP.HYL[s].IN_NOW
]
/-- EXP class 5. -/
def defs_hyl1 : List PDef := [
  ⟨0x004A, 1, 1, 32, false, .ro, .any, 0x0, false⟩,  -- EXP.HYL[s].SWITCHES
  ⟨0x004B, 1, 1, 32, false, .ro, .any, 0x0, false⟩  -- EXP.HYL[s].IMPL_COUNT
]
/-- EXP class 5. -/
def defs_hyl : List PDef :=
  defs_hyl0 ++ defs_hyl1

/-- Parameters of expBlk7 (R36). -/
def defs_expBlk7 : List PDef := [
  ⟨0x0030, 1, 1, 12, false, .ro, .any, 0x0, false⟩,  -- EXP.CNS.LOAD
  ⟨0x0031, 1, 1, 32, false, .ro, .any, 0x0, false⟩,  -- EXP.CNS.OVERRUN
  ⟨0x0032, 1, 1, 32, false, .ro, .any, 0x0, false⟩,  -- EXP.CNS.ORDER_GEN
  ⟨0x0033, 1, 1, 8, false, .ro, .any, 0xFF, false⟩  -- EXP.CNS.TRACE_SLOT
]

/-- EXP class 2. -/
def defs_hp0 : List PDef := [
  ⟨0x0001, 1, 1, 2, false, .rw, (.nat 0 2), 0x0, false⟩,  -- EXP.HP[n].GEN
  ⟨0x0002, 1, 1, 1, false, .rw, .any, 0x0, false⟩,  -- EXP.HP[n].MODE
  ⟨0x0003, 1, 1, 3, false, .ro, .any, 0x0, false⟩,  -- EXP.HP[n].STATE
  ⟨0x0004, 1, 1, 1, false, .w1c, .any, 0x0, false⟩,  -- EXP.HP[n].FAULT
  ⟨0x0005, 1, 1, 19, false, .ro, .any, 0x0, false⟩,  -- EXP.HP[n].FAULT_CAUSE
  ⟨0x0006, 1, 1, 16, false, .ro, .any, 0x0, false⟩,  -- EXP.HP[n].RTT
  ⟨0x0007, 1, 1, 16, false, .ro, .any, 0x0, false⟩,  -- EXP.HP[n].D_ONE
  ⟨0x0008, 1, 1, 32, true, .rw, (.int (-2147483648) 2147483647), 0x0, false⟩,  -- EXP.HP[n].PARK_X
  ⟨0x0009, 1, 1, 32, true, .rw, (.int (-2147483648) 2147483647), 0x0, false⟩,  -- EXP.HP[n].PARK_Y
  ⟨0x000A, 1, 1, 24, true, .rw, (.int (-8388608) 8388607), 0x0, false⟩,  -- EXP.HP[n].PARK_Z
  ⟨0x000B, 3, 1, 24, true, .ro, .any, 0x0, false⟩,  -- EXP.HP[n].PARK_HU[a]
  ⟨0x0010, 3, 1, 23, false, .rw, .any, 0x7FFFFF, false⟩  -- EXP.HP[n].POS_LIM[a]
]
/-- EXP class 2. -/
def defs_hp1 : List PDef := [
  ⟨0x0013, 1, 1, 16, false, .rw, (.nat 1 60000), 0x1F4, false⟩,  -- EXP.HP[n].PARK_TMO
  ⟨0x0014, 1, 1, 16, false, .rw, (.nat 1 60000), 0x32, false⟩,  -- EXP.HP[n].LINK_TMO
  ⟨0x0020, 1, 1, 32, false, .ro, .any, 0x0, false⟩,  -- EXP.HP[n].CRC_UP
  ⟨0x0021, 1, 1, 32, false, .ro, .any, 0x0, false⟩,  -- EXP.HP[n].CRC_DN
  ⟨0x0022, 1, 1, 32, false, .ro, .any, 0x0, false⟩,  -- EXP.HP[n].MISS
  ⟨0x0023, 1, 1, 32, false, .ro, .any, 0x0, false⟩,  -- EXP.HP[n].BULK_ERR
  ⟨0x0024, 1, 1, 32, false, .ro, .any, 0x0, false⟩,  -- EXP.HP[n].AXO_STALE
  ⟨0x0025, 1, 1, 32, false, .ro, .any, 0x0, false⟩,  -- EXP.HP[n].CLAMP
  ⟨0x0030, 3, 1, 24, true, .ro, .any, 0x0, false⟩,  -- EXP.HP[n].POS[a]
  ⟨0x0033, 3, 1, 16, true, .ro, .any, 0x0, false⟩,  -- EXP.HP[n].CUR[a]
  ⟨0x0036, 1, 1, 3, false, .ro, .any, 0x0, false⟩,  -- EXP.HP[n].LINKS
  ⟨0x0037, 1, 1, 3, false, .ro, .any, 0x0, false⟩  -- EXP.HP[n].HANDOVER
]
/-- EXP class 2. -/
def defs_hp2 : List PDef := [
  ⟨0x0040, 1, 1, 32, false, .ro, .any, 0x0, false⟩,  -- EXP.HP[n].ID_VM
  ⟨0x0041, 1, 2, 32, false, .ro, .any, 0x0, false⟩,  -- EXP.HP[n].ID_SERIAL
  ⟨0x0042, 1, 2, 32, false, .ro, .any, 0x0, false⟩,  -- EXP.HP[n].ID_SERIAL
  ⟨0x0043, 1, 1, 32, false, .ro, .any, 0x0, false⟩,  -- EXP.HP[n].ID_FW
  ⟨0x0044, 1, 1, 16, false, .ro, .any, 0x0, false⟩,  -- EXP.HP[n].ID_CAPS
  ⟨0x0045, 3, 1, 32, false, .ro, .any, 0x0, false⟩,  -- EXP.HP[n].FS[a]
  ⟨0x0048, 3, 1, 16, false, .ro, .any, 0x0, false⟩,  -- EXP.HP[n].I_FS[a]
  ⟨0x0050, 4, 1, 16, true, .ro, .any, 0x0, false⟩,  -- EXP.HP[n].TEMP[k]
  ⟨0x0054, 1, 1, 16, false, .ro, .any, 0x0, false⟩,  -- EXP.HP[n].VSUP
  ⟨0x0055, 1, 1, 8, false, .ro, .any, 0x0, false⟩  -- EXP.HP[n].HEAD_STAT
]
/-- EXP class 2. -/
def defs_hp : List PDef :=
  defs_hp0 ++ defs_hp1 ++ defs_hp2

/-- EXP class 6. -/
def defs_xy2 : List PDef := [
  ⟨0x0001, 1, 1, 8, false, .rw, .any, 0xFF, false⟩,  -- EXP.XY2[q].BEAM
  ⟨0x0002, 1, 1, 3, false, .rw, .any, 0x0, false⟩,  -- EXP.XY2[q].INV
  ⟨0x0003, 1, 1, 1, false, .rw, .any, 0x0, false⟩,  -- EXP.XY2[q].SWAP
  ⟨0x0004, 1, 1, 16, false, .ro, .any, 0x0, false⟩,  -- EXP.XY2[q].STAT
  ⟨0x0005, 1, 1, 16, false, .rw, .any, 0x0, false⟩,  -- EXP.XY2[q].STAT_MASK
  ⟨0x0006, 1, 1, 16, false, .rw, .any, 0x0, false⟩,  -- EXP.XY2[q].STAT_POL
  ⟨0x0007, 1, 1, 32, false, .ro, .any, 0x0, false⟩,  -- EXP.XY2[q].STAT_ERR
  ⟨0x0008, 3, 1, 16, false, .ro, .any, 0x0, false⟩  -- EXP.XY2[q].CODE[a]
]

/-- MOT class 0. -/
def defs_fbk0 : List PDef := [
  ⟨0x0001, 1, 1, 3, false, .rw, .any, 0x0, false⟩,  -- MOT.FBK[n].TYPE
  ⟨0x0002, 1, 1, 1, false, .rw, .any, 0x0, false⟩,  -- MOT.FBK[n].DIR
  ⟨0x0003, 1, 1, 8, false, .rw, .any, 0x0, false⟩,  -- MOT.FBK[n].FILT
  ⟨0x0004, 1, 1, 1, false, .rwl, .any, 0x0, false⟩,  -- MOT.FBK[n].TERM
  ⟨0x0005, 1, 1, 2, false, .rw, (.nat 0 2), 0x0, false⟩,  -- MOT.FBK[n].IDX_MODE
  ⟨0x0006, 1, 1, 3, false, .rw, .any, 0x0, false⟩,  -- MOT.FBK[n].IDX_GATE
  ⟨0x0007, 1, 2, 32, false, .rw, .any, 0x0, false⟩,  -- MOT.FBK[n].IDX_VAL
  ⟨0x0008, 1, 2, 16, true, .rw, .any, 0x0, false⟩,  -- MOT.FBK[n].IDX_VAL
  ⟨0x0009, 1, 1, 1, false, .ro, .any, 0x0, false⟩,  -- MOT.FBK[n].IDX_ARMED
  ⟨0x000A, 1, 1, 16, false, .rw, (.nat 100 65535), 0x2710, false⟩,  -- MOT.FBK[n].T_STILL
  ⟨0x000B, 1, 1, 8, false, .rw, (.nat 1 255), 0x4, false⟩,  -- MOT.FBK[n].ILL_MAX
  ⟨0x000C, 1, 1, 12, false, .rw, .any, 0x12C, false⟩  -- MOT.FBK[n].AMP_LO
]
/-- MOT class 0. -/
def defs_fbk1 : List PDef := [
  ⟨0x000D, 1, 1, 12, false, .rw, .any, 0x28A, false⟩,  -- MOT.FBK[n].AMP_HI
  ⟨0x000E, 1, 1, 8, false, .rw, (.nat 1 255), 0x3, false⟩,  -- MOT.FBK[n].AMP_N
  ⟨0x000F, 1, 1, 6, false, .rw, (.nat 8 48), 0x20, false⟩,  -- MOT.FBK[n].ABS_BITS
  ⟨0x0010, 1, 1, 14, false, .rw, (.nat 100 10000), 0x7D0, false⟩,  -- MOT.FBK[n].ABS_CLK
  ⟨0x0011, 1, 1, 8, false, .rw, (.nat 1 255), 0x14, false⟩,  -- MOT.FBK[n].ABS_RD_FR
  ⟨0x0012, 1, 1, 1, false, .rw, .any, 0x0, false⟩,  -- MOT.FBK[n].ABS_CODE
  ⟨0x0013, 1, 1, 8, false, .rw, (.nat 1 255), 0x2, false⟩,  -- MOT.FBK[n].ABS_ERR_N
  ⟨0x0014, 1, 1, 1, false, .rw, .any, 0x0, false⟩,  -- MOT.FBK[n].HALL_ORDER
  ⟨0x0015, 1, 1, 7, false, .rw, (.nat 1 100), 0x14, false⟩,  -- MOT.FBK[n].ABS_TREC
  ⟨0x0018, 2, 1, 8, false, .rw, .any, 0x0, false⟩,  -- MOT.FBK[n].LATCH_SRC[k]
  ⟨0x0020, 1, 2, 32, false, .ro, .any, 0x0, false⟩,  -- MOT.FBK[n].POS
  ⟨0x0021, 1, 2, 16, true, .ro, .any, 0x0, false⟩  -- MOT.FBK[n].POS
]
/-- MOT class 0. -/
def defs_fbk2 : List PDef := [
  ⟨0x0022, 1, 2, 32, false, .ro, .any, 0x0, false⟩,  -- MOT.FBK[n].RAW
  ⟨0x0023, 1, 2, 16, true, .ro, .any, 0x0, false⟩,  -- MOT.FBK[n].RAW
  ⟨0x0024, 1, 1, 32, false, .ro, .f32, 0x0, false⟩,  -- MOT.FBK[n].SPEED
  ⟨0x0025, 1, 1, 7, false, .ro, .any, 0x0, false⟩,  -- MOT.FBK[n].FLAGS
  ⟨0x0026, 1, 1, 32, false, .ro, .any, 0x0, false⟩,  -- MOT.FBK[n].ILL_CNT
  ⟨0x0027, 1, 1, 12, false, .ro, .any, 0x0, false⟩,  -- MOT.FBK[n].AMP_VAL
  ⟨0x0028, 1, 1, 32, false, .ro, .any, 0x0, false⟩,  -- MOT.FBK[n].IDX_CNT
  ⟨0x0029, 1, 1, 1, false, .w1c, .any, 0x0, false⟩  -- MOT.FBK[n].FAULT
]
/-- MOT class 0. -/
def defs_fbk : List PDef :=
  defs_fbk0 ++ defs_fbk1 ++ defs_fbk2

/-- MOT class 1. -/
def defs_out : List PDef := [
  ⟨0x0001, 1, 1, 2, false, .rw, (.nat 0 2), 0x0, false⟩,  -- MOT.OUT[n].MODE
  ⟨0x0002, 1, 1, 4, false, .rw, .any, 0x0, false⟩,  -- MOT.OUT[n].SRC
  ⟨0x0003, 1, 1, 21, false, .rw, (.nat 1 1048576), 0x1000, false⟩,  -- MOT.OUT[n].EMU_RES
  ⟨0x0004, 1, 1, 31, false, .rw, (.nat 1 2147483647), 0x1000, false⟩,  -- MOT.OUT[n].SRC_RES
  ⟨0x0005, 1, 1, 20, false, .rw, .any, 0x0, false⟩,  -- MOT.OUT[n].EMU_IDX
  ⟨0x0006, 1, 1, 8, false, .rw, (.nat 50 255), 0x32, false⟩,  -- MOT.OUT[n].EMU_TMIN
  ⟨0x0007, 1, 1, 32, true, .ro, .any, 0x0, false⟩  -- MOT.OUT[n].LAG
]

/-- MOT class 2. -/
def defs_prf0 : List PDef := [
  ⟨0x0001, 1, 1, 3, false, .ro, .any, 0x0, false⟩,  -- MOT.PRF[a].STATE
  ⟨0x0002, 1, 2, 32, false, .ro, .any, 0x0, false⟩,  -- MOT.PRF[a].TARGET
  ⟨0x0003, 1, 2, 16, true, .ro, .any, 0x0, false⟩,  -- MOT.PRF[a].TARGET
  ⟨0x0004, 1, 2, 32, false, .ro, .any, 0x0, false⟩,  -- MOT.PRF[a].CMD_POS
  ⟨0x0005, 1, 2, 16, true, .ro, .any, 0x0, false⟩,  -- MOT.PRF[a].CMD_POS
  ⟨0x0006, 1, 1, 32, true, .ro, .any, 0x0, false⟩,  -- MOT.PRF[a].CMD_SPD
  ⟨0x0007, 1, 1, 5, false, .ro, .any, 0x0, false⟩,  -- MOT.PRF[a].QUEUE
  ⟨0x0010, 1, 1, 32, false, .rw, (.nat 1 4294967295), 0x5F5E100, false⟩,  -- MOT.PRF[a].QSTOP_DEC
  ⟨0x0011, 1, 1, 4, false, .rw, .any, 0xF, false⟩,  -- MOT.PRF[a].MAP_PORT
  ⟨0x0012, 1, 1, 32, true, .rw, (.int (-2147483648) 2147483647), 0x1, false⟩,  -- MOT.PRF[a].MAP_NUM
  ⟨0x0013, 1, 1, 32, false, .rw, (.nat 1 4294967295), 0x1, false⟩,  -- MOT.PRF[a].MAP_DEN
  ⟨0x0014, 1, 1, 32, false, .rw, (.nat 1 4294967295), 0xA00, false⟩  -- MOT.PRF[a].DEV_WIN
]
/-- MOT class 2. -/
def defs_prf1 : List PDef := [
  ⟨0x0015, 1, 1, 16, false, .rw, (.nat 1 65535), 0x40, false⟩,  -- MOT.PRF[a].DEV_N
  ⟨0x0016, 1, 1, 32, true, .ro, .any, 0x0, false⟩,  -- MOT.PRF[a].DEV
  ⟨0x0017, 1, 1, 4, false, .rw, (.nat 0 11), 0x0, false⟩,  -- MOT.PRF[a].HOME_SW
  ⟨0x0018, 1, 1, 1, false, .rw, .any, 0x0, false⟩,  -- MOT.PRF[a].HOME_DIR
  ⟨0x0019, 1, 1, 23, false, .rw, (.nat 1 5120000), 0xC800, false⟩,  -- MOT.PRF[a].HOME_SPD
  ⟨0x001A, 1, 1, 32, true, .rw, (.int (-2147483648) 2147483647), 0x0, false⟩,  -- MOT.PRF[a].HOME_OFS
  ⟨0x001B, 1, 2, 32, false, .rw, .any, 0x0, false⟩,  -- MOT.PRF[a].HOME_VAL
  ⟨0x001C, 1, 2, 16, true, .rw, .any, 0x0, false⟩,  -- MOT.PRF[a].HOME_VAL
  ⟨0x001D, 1, 1, 1, false, .rw, .any, 0x0, false⟩,  -- MOT.PRF[a].HOME_IDX
  ⟨0x001E, 1, 1, 1, false, .w1c, .any, 0x0, false⟩,  -- MOT.PRF[a].FAULT
  ⟨0x001F, 1, 1, 4, false, .ro, .any, 0x0, false⟩  -- MOT.PRF[a].FAULT_CAUSE
]
/-- MOT class 2. -/
def defs_prf : List PDef :=
  defs_prf0 ++ defs_prf1

/-- MOT class 3. -/
def defs_stp : List PDef := [
  ⟨0x0001, 1, 1, 11, false, .rw, (.nat 0 2000), 0x1F4, false⟩,  -- MOT.STP[a].IRUN
  ⟨0x0002, 1, 1, 11, false, .rw, (.nat 0 2000), 0xFA, false⟩,  -- MOT.STP[a].IHOLD
  ⟨0x0003, 1, 1, 16, false, .rw, (.nat 1 65535), 0xC8, false⟩,  -- MOT.STP[a].T_HOLD
  ⟨0x0004, 1, 1, 4, false, .rw, (.nat 0 8), 0x8, false⟩,  -- MOT.STP[a].MSTEP
  ⟨0x0005, 1, 1, 7, false, .rw, (.nat 2 64), 0x10, false⟩,  -- MOT.STP[a].T_OFF
  ⟨0x0006, 1, 1, 2, false, .rw, .any, 0x1, false⟩,  -- MOT.STP[a].T_BLANK
  ⟨0x0007, 1, 1, 8, false, .rw, .any, 0x40, false⟩,  -- MOT.STP[a].FD_FRAC
  ⟨0x0010, 1, 1, 7, false, .ro, .any, 0x0, false⟩,  -- MOT.STP[a].STAT
  ⟨0x0011, 1, 1, 10, false, .ro, .any, 0x0, false⟩  -- MOT.STP[a].PHASE
]

/-- MOT class 4. -/
def defs_sd : List PDef := [
  ⟨0x0001, 1, 1, 17, false, .rw, (.nat 100 100000), 0x3E8, false⟩,  -- MOT.SD[b].PW
  ⟨0x0002, 1, 1, 17, false, .rw, (.nat 50 100000), 0x3E8, false⟩,  -- MOT.SD[b].DSU
  ⟨0x0003, 1, 1, 4, false, .rw, .any, 0x0, false⟩,  -- MOT.SD[b].POL
  ⟨0x0004, 1, 1, 1, false, .rw, .any, 0x0, false⟩,  -- MOT.SD[b].FLT_ACT
  ⟨0x0005, 1, 1, 4, false, .ro, .any, 0x0, false⟩  -- MOT.SD[b].PINS
]

/-- MOT class 5. -/
def defs_sw : List PDef := [
  ⟨0x0001, 1, 1, 2, false, .rw, .any, 0x0, false⟩,  -- MOT.SW[i].ROLE
  ⟨0x0002, 1, 1, 3, false, .rw, .any, 0x0, false⟩,  -- MOT.SW[i].CELL
  ⟨0x0003, 1, 1, 1, false, .rw, .any, 0x0, false⟩,  -- MOT.SW[i].POL
  ⟨0x0004, 1, 1, 14, false, .rw, (.nat 0 10000), 0x64, false⟩,  -- MOT.SW[i].FILT
  ⟨0x0005, 1, 1, 1, false, .ro, .any, 0x0, false⟩,  -- MOT.SW[i].LEVEL
  ⟨0x0006, 1, 2, 32, false, .ro, .any, 0x0, false⟩,  -- MOT.SW[i].LATCH_POS
  ⟨0x0007, 1, 2, 16, true, .ro, .any, 0x0, false⟩,  -- MOT.SW[i].LATCH_POS
  ⟨0x0008, 1, 2, 32, false, .ro, .any, 0x0, false⟩,  -- MOT.SW[i].LATCH_TS
  ⟨0x0009, 1, 2, 32, false, .ro, .any, 0x0, false⟩,  -- MOT.SW[i].LATCH_TS
  ⟨0x000A, 1, 2, 32, false, .ro, .any, 0x0, false⟩,  -- MOT.SW[i].LATCH_ENC
  ⟨0x000B, 1, 2, 16, true, .ro, .any, 0x0, false⟩  -- MOT.SW[i].LATCH_ENC
]

/-- VIS class 0. -/
def defs_pipe0 : List PDef := [
  ⟨0x0001, 1, 1, 1, false, .ro, .any, 0x0, false⟩,  -- VIS.PIPE[p].STATE
  ⟨0x0002, 1, 1, 3, false, .rw, .any, 0x0, false⟩,  -- VIS.PIPE[p].SRC_PORT
  ⟨0x0003, 1, 1, 16, false, .rw, (.nat 1 65535), 0x1, false⟩,  -- VIS.PIPE[p].VC_MASK
  ⟨0x0004, 1, 1, 6, false, .rw, (.nat 43 46), 0x2C, false⟩,  -- VIS.PIPE[p].DTYPE
  ⟨0x0005, 1, 1, 3, false, .rw, (.nat 1 4), 0x4, false⟩,  -- VIS.PIPE[p].LANES
  ⟨0x0006, 1, 1, 13, false, .rw, .any, 0xE4, false⟩,  -- VIS.PIPE[p].LANE_MAP
  ⟨0x0007, 1, 1, 13, false, .rw, (.nat 64 4096), 0x400, false⟩,  -- VIS.PIPE[p].WIDTH
  ⟨0x0008, 1, 1, 13, false, .rw, (.nat 16 4096), 0x400, false⟩,  -- VIS.PIPE[p].HEIGHT
  ⟨0x0009, 1, 1, 3, false, .rw, (.nat 0 4), 0x0, false⟩,  -- VIS.PIPE[p].CFA
  ⟨0x000A, 1, 1, 4, false, .rw, .any, 0x0, false⟩,  -- VIS.PIPE[p].CFA_PHASE
  ⟨0x000B, 1, 1, 1, false, .rw, .any, 0x1, false⟩,  -- VIS.PIPE[p].FN_MODE
  ⟨0x000C, 1, 1, 16, false, .rw, (.nat 2 65535), 0xFFFF, false⟩  -- VIS.PIPE[p].FN_WRAP
]
/-- VIS class 0. -/
def defs_pipe1 : List PDef := [
  ⟨0x000D, 1, 1, 10, false, .rw, (.nat 1 1000), 0x64, false⟩,  -- VIS.PIPE[p].FRAME_TMO
  ⟨0x000E, 1, 1, 4, false, .rw, (.nat 1 15), 0x2, false⟩,  -- VIS.PIPE[p].LAT
  ⟨0x000F, 1, 1, 11, false, .rw, (.nat 100 1000), 0x190, false⟩,  -- VIS.PIPE[p].I2C_KHZ
  ⟨0x0010, 1, 1, 16, false, .rw, .any, 0x1000, false⟩,  -- VIS.PIPE[p].DPC_THR
  ⟨0x0011, 1, 1, 16, false, .rw, .any, 0x400, false⟩,  -- VIS.PIPE[p].DPC_REL
  ⟨0x0012, 1, 1, 9, false, .rw, (.nat 0 256), 0x0, false⟩,  -- VIS.PIPE[p].SNR_STR
  ⟨0x0013, 1, 1, 16, false, .rw, .any, 0x400, false⟩,  -- VIS.PIPE[p].SNR_SIG
  ⟨0x0014, 1, 1, 1, false, .rw, .any, 0x0, false⟩,  -- VIS.PIPE[p].TNR_EN
  ⟨0x0015, 1, 1, 9, false, .rw, (.nat 0 256), 0x40, false⟩,  -- VIS.PIPE[p].TNR_K
  ⟨0x0016, 1, 1, 16, false, .rw, .any, 0x800, false⟩,  -- VIS.PIPE[p].TNR_THR
  ⟨0x0018, 4, 1, 16, false, .rw, .any, 0x0, false⟩,  -- VIS.PIPE[p].BLK[k]
  ⟨0x001C, 1, 1, 32, false, .rw, .any, 0xFFFFFFFF, false⟩  -- VIS.PIPE[p].SHADE_ACC
]
/-- VIS class 0. -/
def defs_pipe2 : List PDef := [
  ⟨0x0020, 12, 1, 16, true, .rw, (.int (-32768) 32767), 0x0, false⟩,  -- VIS.PIPE[p].CCM[i][j]
  ⟨0x002C, 3, 1, 16, true, .rw, (.int (-32768) 32767), 0x0, false⟩,  -- VIS.PIPE[p].CCM_OFS[i]
  ⟨0x0030, 1, 1, 32, false, .rw, .f32Pos, 0x448D0E66, false⟩,  -- VIS.PIPE[p].RT_A
  ⟨0x0031, 1, 1, 32, false, .rw, .f32, 0x3F20346E, false⟩,  -- VIS.PIPE[p].RT_B
  ⟨0x0032, 1, 1, 16, false, .rw, .any, 0x1000, false⟩,  -- VIS.PIPE[p].RT_MIN
  ⟨0x0033, 1, 1, 32, false, .rw, .f32, 0x44960000, false⟩,  -- VIS.PIPE[p].RT_TMIN
  ⟨0x0034, 1, 1, 32, false, .rw, .f32, 0x457A0000, false⟩,  -- VIS.PIPE[p].RT_TMAX
  ⟨0x0038, 1, 1, 6, false, .rw, .any, 0x0, false⟩,  -- VIS.PIPE[p].OUT_PLANES
  ⟨0x0039, 1, 1, 1, false, .rw, .any, 0x0, false⟩,  -- VIS.PIPE[p].OUT_8
  ⟨0x003A, 1, 1, 3, false, .rw, (.nat 0 5), 0x0, false⟩,  -- VIS.PIPE[p].HIST_PLANE
  ⟨0x003B, 1, 1, 3, false, .rw, (.nat 1 5), 0x4, false⟩,  -- VIS.PIPE[p].BLOB_PLANE
  ⟨0x003C, 1, 1, 16, false, .rw, .any, 0x4650, false⟩  -- VIS.PIPE[p].BLOB_THR
]
/-- VIS class 0. -/
def defs_pipe3 : List PDef := [
  ⟨0x003D, 1, 1, 16, false, .rw, (.nat 1 65535), 0x2, false⟩,  -- VIS.PIPE[p].SPAT_MIN
  ⟨0x003E, 1, 1, 16, false, .rw, .any, 0x190, false⟩,  -- VIS.PIPE[p].SPAT_MAX
  ⟨0x0040, 1, 1, 2, false, .rw, .any, 0x0, false⟩,  -- VIS.PIPE[p].TRIG_MODE
  ⟨0x0041, 1, 1, 32, false, .rw, (.nat 10000 1000000000), 0x989680, false⟩,  -- VIS.PIPE[p].TRIG_PERIOD
  ⟨0x0042, 1, 1, 32, false, .rw, .any, 0x0, false⟩,  -- VIS.PIPE[p].TRIG_PHASE
  ⟨0x0043, 1, 1, 6, false, .rw, (.nat 1 29), 0x2, false⟩,  -- VIS.PIPE[p].TRIG_SRC
  ⟨0x0044, 1, 1, 32, false, .rw, (.nat 0 100000000), 0x0, false⟩,  -- VIS.PIPE[p].TRIG_DLY
  ⟨0x0045, 1, 1, 32, false, .rw, (.nat 100 100000000), 0x2710, false⟩,  -- VIS.PIPE[p].TRIG_W
  ⟨0x0046, 1, 1, 1, false, .rw, .any, 0x0, false⟩,  -- VIS.PIPE[p].TRIG_POL
  ⟨0x0050, 1, 1, 32, false, .ro, .any, 0x0, false⟩,  -- VIS.PIPE[p].FN
  ⟨0x0051, 1, 1, 32, false, .ro, .any, 0x0, false⟩,  -- VIS.PIPE[p].GEN
  ⟨0x0052, 1, 1, 6, false, .ro, .any, 0x0, false⟩  -- VIS.PIPE[p].PHY_STAT
]
/-- VIS class 0. -/
def defs_pipe4 : List PDef := [
  ⟨0x0053, 1, 1, 32, false, .ro, .any, 0x0, false⟩,  -- VIS.PIPE[p].DROP_2ND
  ⟨0x0054, 1, 1, 32, false, .ro, .any, 0x0, false⟩,  -- VIS.PIPE[p].LINE_BAD
  ⟨0x0055, 1, 1, 32, false, .ro, .any, 0x0, false⟩,  -- VIS.PIPE[p].ECC_FIX
  ⟨0x0056, 1, 1, 32, false, .ro, .any, 0x0, false⟩,  -- VIS.PIPE[p].ECC_ERR
  ⟨0x0057, 1, 1, 32, false, .ro, .any, 0x0, false⟩,  -- VIS.PIPE[p].DT_SKIP
  ⟨0x0058, 1, 1, 32, false, .ro, .any, 0x0, false⟩,  -- VIS.PIPE[p].IN_OVF
  ⟨0x0059, 1, 1, 32, false, .ro, .any, 0x0, false⟩,  -- VIS.PIPE[p].FN_ERR
  ⟨0x005A, 1, 1, 32, false, .ro, .any, 0x0, false⟩,  -- VIS.PIPE[p].TNR_RST
  ⟨0x005B, 1, 1, 32, false, .ro, .any, 0x0, false⟩,  -- VIS.PIPE[p].DPC_CNT
  ⟨0x005C, 1, 1, 32, false, .ro, .any, 0x0, false⟩  -- VIS.PIPE[p].NO_SLOT
]
/-- VIS class 0. -/
def defs_pipe : List PDef :=
  defs_pipe0 ++ defs_pipe1 ++ defs_pipe2 ++ defs_pipe3 ++ defs_pipe4

/-- MOT class 6. -/
def defs_lmp : List PDef := [
  ⟨0x0001, 1, 1, 8, false, .rw, (.nat 0 200), 0x0, false⟩,  -- MOT.LMP[c].I_SET
  ⟨0x0002, 4, 1, 16, false, .rw, .any, 0x0, false⟩,  -- MOT.LMP[c].DUTY[r]
  ⟨0x0006, 1, 1, 1, false, .rw, .any, 0x1, false⟩,  -- MOT.LMP[c].EN
  ⟨0x0007, 1, 1, 4, false, .ro, .any, 0x0, false⟩,  -- MOT.LMP[c].STAT
  ⟨0x0008, 1, 1, 16, false, .ro, .any, 0x0, false⟩  -- MOT.LMP[c].DUTY_EFF
]

/-- MOT class 7. -/
def defs_lamp0 : List PDef := [
  ⟨0x0001, 1, 1, 2, false, .ro, .any, 0x0, false⟩,  -- MOT.LAMP.STATE
  ⟨0x0002, 1, 1, 16, false, .rw, (.nat 4000 40000), 0x4E20, false⟩,  -- MOT.LAMP.FREQ
  ⟨0x0003, 1, 1, 1, false, .rw, .any, 0x0, false⟩,  -- MOT.LAMP.COMPAT
  ⟨0x0004, 1, 1, 5, false, .rw, (.nat 8 16), 0x8, false⟩,  -- MOT.LAMP.COMPAT_BITS
  ⟨0x0005, 1, 1, 3, false, .rw, (.nat 1 4), 0x1, false⟩,  -- MOT.LAMP.ROWS
  ⟨0x0006, 1, 1, 15, false, .rw, (.nat 500 20000), 0x3E8, false⟩,  -- MOT.LAMP.ROW_BLANK
  ⟨0x0007, 1, 1, 1, false, .rw, .any, 0x0, false⟩,  -- MOT.LAMP.ROW_POL
  ⟨0x0010, 1, 1, 32, false, .rw, .f32, 0x42480000, false⟩,  -- MOT.LAMP.DER_T0
  ⟨0x0011, 1, 1, 32, false, .rw, .f32, 0x428C0000, false⟩,  -- MOT.LAMP.DER_T1
  ⟨0x0012, 1, 1, 16, false, .rw, .any, 0x4000, false⟩,  -- MOT.LAMP.DER_MIN
  ⟨0x0013, 1, 1, 16, false, .ro, .any, 0xFFFF, false⟩,  -- MOT.LAMP.DERATE
  ⟨0x0020, 1, 1, 7, false, .rw, .any, 0x0, false⟩  -- MOT.LAMP.SENS_ADDR
]
/-- MOT class 7. -/
def defs_lamp1 : List PDef := [
  ⟨0x0021, 4, 1, 8, false, .rw, .any, 0x0, false⟩,  -- MOT.LAMP.SENS_REG[k]
  ⟨0x0025, 1, 1, 1, false, .rw, .any, 0x0, false⟩,  -- MOT.LAMP.SENS_BE
  ⟨0x0026, 1, 1, 11, false, .rw, (.nat 100 1000), 0x190, false⟩,  -- MOT.LAMP.I2C_KHZ
  ⟨0x0028, 4, 1, 16, false, .rw, .any, 0x0, false⟩,  -- MOT.LAMP.SENS_TGT[k]
  ⟨0x002C, 4, 1, 32, false, .rw, .f32, 0x0, false⟩,  -- MOT.LAMP.SENS_KI[k]
  ⟨0x0030, 4, 1, 16, false, .rw, .any, 0x0, false⟩,  -- MOT.LAMP.SENS_GRP[k]
  ⟨0x0034, 1, 1, 16, false, .rw, .any, 0x0, false⟩,  -- MOT.LAMP.SENS_SMIN
  ⟨0x0038, 4, 1, 16, false, .ro, .any, 0x0, false⟩,  -- MOT.LAMP.SENS_VAL[k]
  ⟨0x003C, 4, 1, 16, false, .ro, .any, 0xFFFF, false⟩,  -- MOT.LAMP.SENS_S[k]
  ⟨0x0040, 1, 1, 32, false, .ro, .any, 0x0, false⟩,  -- MOT.LAMP.SENS_ERR
  ⟨0x0050, 1, 1, 4, false, .rw, .any, 0x0, false⟩,  -- MOT.LAMP.STR_SRC
  ⟨0x0051, 1, 1, 32, false, .rw, (.nat 0 100000000), 0x0, false⟩  -- MOT.LAMP.STR_DLY
]
/-- MOT class 7. -/
def defs_lamp2 : List PDef := [
  ⟨0x0052, 1, 1, 32, false, .rw, (.nat 1000 100000000), 0xF4240, false⟩,  -- MOT.LAMP.STR_W
  ⟨0x0053, 1, 1, 32, false, .rw, (.nat 0 1000000000), 0x0, false⟩,  -- MOT.LAMP.STR_LEAD
  ⟨0x0054, 1, 1, 1, false, .rw, .any, 0x0, false⟩,  -- MOT.LAMP.STR_IDLE
  ⟨0x0055, 1, 1, 32, false, .rw, .any, 0x76543210, false⟩,  -- MOT.LAMP.STR_SEQ
  ⟨0x0056, 1, 1, 4, false, .rw, (.nat 1 8), 0x1, false⟩,  -- MOT.LAMP.STR_LEN
  ⟨0x0057, 1, 1, 32, false, .ro, .any, 0x0, false⟩  -- MOT.LAMP.STR_NOW
]
/-- MOT class 7. -/
def defs_lamp : List PDef :=
  defs_lamp0 ++ defs_lamp1 ++ defs_lamp2

/-- STO class 0. -/
def defs_ddr : List PDef := [
  ⟨0x0001, 1, 1, 10, false, .rw, (.nat 0 1000), 0x78, false⟩,  -- STO.DDR[c].PAGE_IDLE
  ⟨0x0002, 1, 1, 17, false, .rw, (.nat 100 100000), 0x3E8, false⟩,  -- STO.DDR[c].RANK_PD
  ⟨0x0003, 1, 1, 16, false, .rw, (.nat 256 65535), 0x1000, false⟩,  -- STO.DDR[c].RH_THR
  ⟨0x0004, 1, 1, 7, false, .rw, (.nat 8 64), 0x20, false⟩,  -- STO.DDR[c].RH_WIN
  ⟨0x0005, 1, 1, 1, false, .rwl, .any, 0x0, false⟩,  -- STO.DDR[c].TRAIN_MODE
  ⟨0x0010, 1, 1, 13, false, .ro, .any, 0x1E78, false⟩,  -- STO.DDR[c].REFI_NOW
  ⟨0x0011, 1, 1, 32, false, .ro, .any, 0x0, false⟩,  -- STO.DDR[c].REPLAYS
  ⟨0x0012, 1, 1, 32, false, .ro, .any, 0x0, false⟩  -- STO.DDR[c].RH_REFRESH
]

/-- STO class 1. -/
def defs_rank : List PDef := [
  ⟨0x0001, 1, 1, 2, false, .ro, .any, 0x0, false⟩,  -- STO.RANK[r].STATE
  ⟨0x0002, 1, 1, 32, false, .ro, .any, 0x0, false⟩,  -- STO.RANK[r].CE_COUNT
  ⟨0x0003, 1, 1, 32, false, .ro, .any, 0x0, false⟩,  -- STO.RANK[r].UE_COUNT
  ⟨0x0004, 1, 1, 32, false, .ro, .any, 0x0, false⟩,  -- STO.RANK[r].PAR_ERR
  ⟨0x0005, 1, 1, 2, false, .ro, .any, 0x0, false⟩,  -- STO.RANK[r].TRAIN_SRC
  ⟨0x0006, 1, 1, 16, true, .ro, .any, 0x0, false⟩  -- STO.RANK[r].TRAIN_T
]

/-- STO class 2. -/
def defs_sf : List PDef := [
  ⟨0x0001, 1, 1, 5, false, .rwl, (.nat 0 26), 0x0, false⟩,  -- STO.SF.PIN_P5
  ⟨0x0002, 1, 1, 6, false, .ro, .any, 0x2A, false⟩,  -- STO.SF.CACHE_MIB
  ⟨0x0003, 1, 1, 32, false, .ro, .any, 0x0, false⟩,  -- STO.SF.PIN_USED
  ⟨0x0010, 1, 1, 32, false, .ro, .any, 0x0, false⟩,  -- STO.SF.HITS
  ⟨0x0011, 1, 1, 32, false, .ro, .any, 0x0, false⟩,  -- STO.SF.MISSES
  ⟨0x0012, 1, 1, 32, false, .ro, .any, 0x0, false⟩,  -- STO.SF.CE_COUNT
  ⟨0x0013, 1, 1, 32, false, .ro, .any, 0x0, false⟩  -- STO.SF.UE_COUNT
]

/-- STO class 3. -/
def defs_pool : List PDef := [
  ⟨0x0001, 1, 1, 23, false, .rw, (.nat 0 4177920), 0x0, false⟩,  -- STO.POOL[p].QUOTA
  ⟨0x0002, 1, 1, 23, false, .ro, .any, 0x0, false⟩,  -- STO.POOL[p].USED
  ⟨0x0003, 1, 1, 18, false, .ro, .any, 0x0, false⟩,  -- STO.POOL[p].LIVE
  ⟨0x0004, 1, 1, 18, false, .ro, .any, 0x0, false⟩,  -- STO.POOL[p].FREEING
  ⟨0x0005, 1, 1, 24, false, .ro, .any, 0x0, false⟩  -- STO.POOL[p].NEXT_INDEX
]

/-- STO class 4. -/
def defs_zip : List PDef := [
  ⟨0x0001, 1, 1, 12, false, .ro, .any, 0x0, false⟩,  -- STO.ZIP[e].QUEUE
  ⟨0x0002, 1, 1, 32, false, .ro, .any, 0x0, false⟩,  -- STO.ZIP[e].JOBS
  ⟨0x0003, 1, 2, 32, false, .ro, .any, 0x0, false⟩,  -- STO.ZIP[e].BYTES_IN
  ⟨0x0004, 1, 2, 32, false, .ro, .any, 0x0, false⟩,  -- STO.ZIP[e].BYTES_IN
  ⟨0x0005, 1, 2, 32, false, .ro, .any, 0x0, false⟩,  -- STO.ZIP[e].BYTES_OUT
  ⟨0x0006, 1, 2, 32, false, .ro, .any, 0x0, false⟩,  -- STO.ZIP[e].BYTES_OUT
  ⟨0x0007, 1, 1, 32, false, .ro, .any, 0x0, false⟩  -- STO.ZIP[e].FAILS
]

/-- Parameters of stoRegion (R36). -/
def defs_stoRegion : List PDef := [
  ⟨0x0040, 1, 1, 15, false, .rw, .any, 0x2000, false⟩,  -- STO.REGION.LB_WM2
  ⟨0x0041, 1, 1, 15, false, .rw, .any, 0x800, false⟩,  -- STO.REGION.LB_WM3
  ⟨0x0042, 1, 1, 17, false, .rw, .any, 0x2000, false⟩,  -- STO.REGION.VR_WM2
  ⟨0x0043, 1, 1, 16, false, .rw, .any, 0x4000, false⟩,  -- STO.REGION.CAM_WM2
  ⟨0x0044, 1, 1, 16, false, .rw, (.nat 0 32768), 0x6000, false⟩,  -- STO.REGION.CAM_WM3
  ⟨0x0045, 1, 1, 2, false, .rw, (.nat 0 2), 0x0, false⟩  -- STO.REGION.ZIP_PIPE
]

/-- MGT class 5. -/
def defs_time0 : List PDef := [
  ⟨0x0001, 1, 1, 3, false, .rwl, (.nat 0 3), 0x0, false⟩,  -- MGT.TIME.SRC
  ⟨0x0002, 1, 1, 2, false, .ro, .any, 0x0, false⟩,  -- MGT.TIME.STATE
  ⟨0x0003, 1, 1, 4, false, .ro, .any, 0x0, false⟩,  -- MGT.TIME.FLAGS
  ⟨0x0004, 1, 1, 2, false, .rwl, (.nat 0 2), 0x0, false⟩,  -- MGT.TIME.PTP_MODE
  ⟨0x0005, 1, 1, 2, false, .rwl, (.nat 0 2), 0x2, false⟩,  -- MGT.TIME.OC_PORT
  ⟨0x0006, 1, 1, 8, false, .rwl, (.nat 0 127), 0x0, false⟩,  -- MGT.TIME.DOMAIN
  ⟨0x0007, 1, 1, 8, false, .rwl, .any, 0x80, false⟩,  -- MGT.TIME.PRIORITY1
  ⟨0x0008, 1, 1, 8, false, .rwl, .any, 0x80, false⟩,  -- MGT.TIME.PRIORITY2
  ⟨0x0009, 1, 1, 8, false, .rwl, .any, 0xF8, false⟩,  -- MGT.TIME.CLOCK_CLASS
  ⟨0x000A, 1, 1, 1, false, .rwl, .any, 0x1, false⟩,  -- MGT.TIME.SLAVE_ONLY
  ⟨0x0010, 1, 1, 32, false, .rw, (.f32In 0x0 0x40000000), 0x3F333333, false⟩,  -- MGT.TIME.KP
  ⟨0x0011, 1, 1, 32, false, .rw, (.f32In 0x0 0x40000000), 0x3E99999A, false⟩  -- MGT.TIME.KI
]
/-- MGT class 5. -/
def defs_time1 : List PDef := [
  ⟨0x0012, 1, 1, 19, false, .rw, (.nat 1 500000), 0x7A120, false⟩,  -- MGT.TIME.FMAX
  ⟨0x0013, 1, 1, 19, false, .rw, (.nat 1 500000), 0x2710, false⟩,  -- MGT.TIME.FMAX_EXP
  ⟨0x0014, 1, 1, 30, false, .rw, (.nat 1000 1000000000), 0xF4240, false⟩,  -- MGT.TIME.STEP_THR
  ⟨0x0015, 1, 1, 20, false, .rw, (.nat 1 1000000), 0x64, false⟩,  -- MGT.TIME.LOCK_THR
  ⟨0x0016, 1, 1, 8, false, .rw, (.nat 1 255), 0x10, false⟩,  -- MGT.TIME.LOCK_N
  ⟨0x0017, 1, 1, 20, false, .rw, .any, 0x3E8, false⟩,  -- MGT.TIME.UNLOCK_THR
  ⟨0x0018, 1, 1, 16, false, .rw, (.nat 10 60000), 0xBB8, false⟩,  -- MGT.TIME.HOLD_TMO
  ⟨0x0019, 1, 1, 9, false, .rwl, (.nat 0 500), 0x32, false⟩,  -- MGT.TIME.AON_PPM
  ⟨0x001A, 1, 1, 30, false, .rw, (.nat 0 1000000000), 0x3E8, false⟩,  -- MGT.TIME.LATE_MAX
  ⟨0x001B, 1, 1, 16, true, .ro, .any, 0x0, false⟩,  -- MGT.TIME.UTC_OFS
  ⟨0x0020, 2, 1, 2, false, .rw, (.nat 0 2), 0x0, false⟩,  -- MGT.TIME.PPS_OUT_MODE[k]
  ⟨0x0022, 1, 1, 30, false, .rw, (.nat 100 500000000), 0xF4240, false⟩  -- MGT.TIME.PPS_W
]
/-- MGT class 5. -/
def defs_time2 : List PDef := [
  ⟨0x0023, 1, 1, 30, false, .rw, (.nat 1000 1000000000), 0x3B9ACA00, false⟩,  -- MGT.TIME.PPS_PERIOD
  ⟨0x0024, 1, 1, 2, false, .rw, .any, 0x0, false⟩,  -- MGT.TIME.PPS_IN_EDGE
  ⟨0x0030, 1, 2, 32, false, .ro, .any, 0x0, false⟩,  -- MGT.TIME.OFFSET
  ⟨0x0031, 1, 2, 32, true, .ro, .any, 0x0, false⟩,  -- MGT.TIME.OFFSET
  ⟨0x0032, 1, 2, 32, false, .ro, .any, 0x0, false⟩,  -- MGT.TIME.FREQ_ADJ
  ⟨0x0033, 1, 2, 32, true, .ro, .any, 0x0, false⟩,  -- MGT.TIME.FREQ_ADJ
  ⟨0x0034, 1, 2, 32, false, .ro, .any, 0x0, false⟩,  -- MGT.TIME.STEP_PEND
  ⟨0x0035, 1, 2, 32, true, .ro, .any, 0x0, false⟩,  -- MGT.TIME.STEP_PEND
  ⟨0x0036, 1, 1, 32, false, .ro, .any, 0x0, false⟩,  -- MGT.TIME.STEPS
  ⟨0x0037, 1, 1, 32, true, .ro, .any, 0x0, false⟩,  -- MGT.TIME.TWIN_OFS
  ⟨0x0038, 2, 2, 32, false, .ro, .any, 0x0, false⟩,  -- MGT.TIME.PPS_IN_TS[k]
  ⟨0x0039, 2, 2, 32, false, .ro, .any, 0x0, false⟩  -- MGT.TIME.PPS_IN_TS[k]
]
/-- MGT class 5. -/
def defs_time3 : List PDef := [
  ⟨0x003C, 1, 1, 32, false, .ro, .any, 0x0, false⟩  -- MGT.TIME.LAUNCH_LATE
]
/-- MGT class 5. -/
def defs_time : List PDef :=
  defs_time0 ++ defs_time1 ++ defs_time2 ++ defs_time3

/-- MGT class 6. -/
def defs_ptp : List PDef := [
  ⟨0x0001, 1, 1, 1, false, .rwl, .any, 0x0, false⟩,  -- MGT.PTP[p].ENABLE
  ⟨0x0002, 1, 1, 1, false, .rwl, .any, 0x0, false⟩,  -- MGT.PTP[p].TRANSPORT
  ⟨0x0003, 1, 1, 1, false, .rwl, .any, 0x0, false⟩,  -- MGT.PTP[p].DELAY_MECH
  ⟨0x0004, 1, 1, 8, true, .rwl, (.int (-7) 1), 0xFFFFFFFD, false⟩,  -- MGT.PTP[p].LOG_SYNC
  ⟨0x0005, 1, 1, 8, true, .rwl, (.int (-3) 3), 0x1, false⟩,  -- MGT.PTP[p].LOG_ANNOUNCE
  ⟨0x0006, 1, 1, 8, true, .rwl, (.int (-7) 5), 0x0, false⟩,  -- MGT.PTP[p].LOG_DELAY_REQ
  ⟨0x0007, 1, 1, 32, true, .rw, (.int (-100000000) 100000000), 0x0, false⟩,  -- MGT.PTP[p].ASYM
  ⟨0x0010, 5, 1, 32, false, .rw, .any, 0x0, false⟩,  -- MGT.PTP[p].ING_LAT[s]
  ⟨0x0018, 5, 1, 32, false, .rw, .any, 0x0, false⟩,  -- MGT.PTP[p].EGR_LAT[s]
  ⟨0x0020, 1, 1, 4, false, .ro, .any, 0x1, false⟩,  -- MGT.PTP[p].PORT_STATE
  ⟨0x0021, 1, 1, 32, true, .ro, .any, 0x0, false⟩,  -- MGT.PTP[p].MEAN_DELAY
  ⟨0x0022, 1, 1, 32, false, .ro, .any, 0x0, false⟩  -- MGT.PTP[p].RX_SYNC
]

/-- MGT class 7. -/
def defs_cat : List PDef := [
  ⟨0x0001, 1, 1, 17, false, .rwl, (.nat 64 65536), 0x400, false⟩,  -- MGT.CAT.SEG_KIB
  ⟨0x0002, 1, 1, 16, false, .rw, (.nat 10 60000), 0x3E8, false⟩,  -- MGT.CAT.SEAL_MS
  ⟨0x0003, 1, 1, 16, false, .rw, .any, 0x10, false⟩,  -- MGT.CAT.SUM_FR
  ⟨0x0004, 1, 1, 13, false, .rw, (.nat 2 4096), 0x100, false⟩,  -- MGT.CAT.SEGS_MAX
  ⟨0x0010, 1, 1, 32, false, .ro, .any, 0x0, false⟩,  -- MGT.CAT.NEXT_SEG
  ⟨0x0011, 1, 1, 13, false, .ro, .any, 0x0, false⟩,  -- MGT.CAT.HELD
  ⟨0x0012, 1, 1, 32, false, .ro, .any, 0x0, false⟩  -- MGT.CAT.LOST
]

/-- MGT class 9. -/
def defs_twin0 : List PDef := [
  ⟨0x0001, 1, 1, 1, false, .rwl, .any, 0x0, false⟩,  -- MGT.TWIN.PAIRED
  ⟨0x0002, 1, 1, 3, false, .ro, .any, 0x1, false⟩,  -- MGT.TWIN.STATE
  ⟨0x0003, 1, 1, 1, false, .ro, .any, 0x0, false⟩,  -- MGT.TWIN.ROLE
  ⟨0x0004, 1, 1, 3, false, .ro, .any, 0x7, false⟩,  -- MGT.TWIN.PARTNER
  ⟨0x0005, 1, 1, 5, false, .ro, .any, 0x0, false⟩,  -- MGT.TWIN.PINS
  ⟨0x0010, 1, 1, 10, false, .rw, (.nat 10 1000), 0x14, false⟩,  -- MGT.TWIN.HB_TMO
  ⟨0x0011, 1, 1, 16, false, .rw, (.nat 100 60000), 0x7D0, false⟩,  -- MGT.TWIN.NEG_TMO
  ⟨0x0012, 1, 1, 14, false, .rw, (.nat 20 10000), 0x64, false⟩,  -- MGT.TWIN.LINK_TMO
  ⟨0x0013, 1, 1, 15, false, .rwl, (.nat 2560 25600), 0xA00, false⟩,  -- MGT.TWIN.FWD_LEAD
  ⟨0x0014, 1, 1, 15, false, .rw, (.nat 64 16384), 0x400, false⟩,  -- MGT.TWIN.FWD_MAX
  ⟨0x0015, 1, 1, 16, false, .rw, (.nat 20 60000), 0xC8, false⟩,  -- MGT.TWIN.RESYNC_TMO
  ⟨0x0020, 1, 1, 32, false, .ro, .any, 0x0, false⟩  -- MGT.TWIN.FWD_PEND
]
/-- MGT class 9. -/
def defs_twin1 : List PDef := [
  ⟨0x0021, 1, 2, 32, false, .ro, .any, 0x0, false⟩,  -- MGT.TWIN.DIGEST
  ⟨0x0022, 1, 2, 32, false, .ro, .any, 0x0, false⟩,  -- MGT.TWIN.DIGEST
  ⟨0x0023, 1, 1, 32, false, .ro, .any, 0x0, false⟩,  -- MGT.TWIN.DIGEST_MISS
  ⟨0x0024, 1, 1, 32, false, .ro, .any, 0x0, false⟩,  -- MGT.TWIN.RESYNCS
  ⟨0x0025, 1, 1, 32, false, .ro, .any, 0x0, false⟩,  -- MGT.TWIN.TAKEOVERS
  ⟨0x0026, 1, 2, 32, false, .ro, .any, 0x0, false⟩,  -- MGT.TWIN.TAKEOVER_TS
  ⟨0x0027, 1, 2, 32, false, .ro, .any, 0x0, false⟩  -- MGT.TWIN.TAKEOVER_TS
]
/-- MGT class 9. -/
def defs_twin : List PDef :=
  defs_twin0 ++ defs_twin1

/-- MGT class 10. -/
def defs_log : List PDef := [
  ⟨0x0001, 1, 1, 32, false, .ro, .any, 0x0, false⟩,  -- MGT.LOG.HEAD
  ⟨0x0002, 1, 1, 18, false, .ro, .any, 0x0, false⟩,  -- MGT.LOG.HELD
  ⟨0x0003, 1, 1, 32, false, .ro, .any, 0x0, false⟩,  -- MGT.LOG.MARK
  ⟨0x0004, 1, 1, 32, false, .ro, .any, 0x0, false⟩,  -- MGT.LOG.MERGES
  ⟨0x0005, 1, 1, 32, false, .ro, .any, 0x0, false⟩,  -- MGT.LOG.OVERWRITTEN
  ⟨0x0006, 1, 1, 32, false, .ro, .any, 0x0, false⟩  -- MGT.LOG.CLEARS
]

/-- MGT class 11. -/
def defs_key : List PDef := [
  ⟨0x0001, 1, 1, 2, false, .ro, .any, 0x0, false⟩,  -- MGT.KEY[k].LEVEL
  ⟨0x0002, 1, 2, 32, false, .ro, .any, 0x0, false⟩,  -- MGT.KEY[k].WRITTEN
  ⟨0x0003, 1, 2, 32, false, .ro, .any, 0x0, false⟩,  -- MGT.KEY[k].WRITTEN
  ⟨0x0004, 1, 1, 8, false, .ro, .any, 0x0, false⟩  -- MGT.KEY[k].WRITER
]

/-- MGT class 0. -/
def defs_sys0 : List PDef := [
  ⟨0x0001, 1, 1, 3, false, .ro, .any, 0x2, false⟩,  -- MGT.SYS.STATE
  ⟨0x0002, 1, 1, 4, false, .ro, .any, 0x0, false⟩,  -- MGT.SYS.PERMIT
  ⟨0x0003, 1, 1, 4, false, .ro, .any, 0x0, false⟩,  -- MGT.SYS.STRAPS
  ⟨0x0004, 1, 1, 2, false, .ro, .any, 0x0, false⟩,  -- MGT.SYS.RESET_CAUSE
  ⟨0x0005, 1, 1, 32, false, .ro, .any, 0x0, false⟩,  -- MGT.SYS.POWERUPS
  ⟨0x0010, 1, 1, 4, false, .rwl, .any, 0x0, false⟩,  -- MGT.SYS.ILK_EN
  ⟨0x0011, 1, 1, 4, false, .rwl, .any, 0x0, false⟩,  -- MGT.SYS.ILK_POL
  ⟨0x0012, 1, 1, 21, false, .rw, .any, 0x0, false⟩,  -- MGT.SYS.WAKE_EN
  ⟨0x0013, 1, 1, 32, false, .rw, .any, 0x0, false⟩,  -- MGT.SYS.WAKE_TMR
  ⟨0x0014, 1, 1, 8, false, .rw, (.nat 1 240), 0x4, false⟩,  -- MGT.SYS.STBY_DIV
  ⟨0x0020, 1, 1, 1, false, .ro, .any, 0x0, false⟩,  -- MGT.SYS.FW_RUN
  ⟨0x0021, 1, 1, 1, false, .rw, .any, 0x0, true⟩  -- MGT.SYS.FW_PREF
]
/-- MGT class 0. -/
def defs_sys1 : List PDef := [
  ⟨0x0022, 1, 1, 32, false, .rw, .any, 0xFFFFFFFF, true⟩,  -- MGT.SYS.FW_ACC
  ⟨0x0023, 1, 1, 1, false, .wo, .any, 0x0, true⟩,  -- MGT.SYS.FW_LOAD
  ⟨0x0024, 2, 1, 32, false, .ro, .any, 0x0, false⟩,  -- MGT.SYS.FW_VER[k]
  ⟨0x0028, 1, 1, 1, false, .wo, .any, 0x0, true⟩,  -- MGT.SYS.PRESET_SAVE
  ⟨0x0029, 1, 1, 1, false, .wo, .any, 0x0, true⟩  -- MGT.SYS.PRESET_FACTORY
]
/-- MGT class 0. -/
def defs_sys : List PDef :=
  defs_sys0 ++ defs_sys1

/-- MGT class 2. -/
def defs_doc : List PDef := [
  ⟨0x0001, 1, 1, 1, false, .rw, .any, 0x0, false⟩,  -- MGT.DOC.DIS
  ⟨0x0002, 1, 1, 5, false, .ro, .any, 0x1F, false⟩,  -- MGT.DOC.LEVEL_H
  ⟨0x0003, 1, 1, 4, false, .ro, .any, 0x0, false⟩,  -- MGT.DOC.DEPTH_H
  ⟨0x0008, 8, 1, 9, false, .ro, .any, 0x0, false⟩,  -- MGT.DOC.STACK_H[k]
  ⟨0x0010, 1, 1, 16, false, .wo, .any, 0x0, false⟩,  -- MGT.DOC.SOFT
  ⟨0x0800, 16, 1, 32, false, .ro, .any, 0x0, false⟩,  -- MGT.DOC.PEND[k]
  ⟨0x1001, 510, 1, 9, false, .rw, .any, 0x0, false⟩  -- MGT.DOC.SRC[i]
]

/-- MGT class 12. -/
def defs_hk : List PDef := [
  ⟨0x0001, 1, 1, 32, false, .ro, .f32, 0x0, false⟩,  -- MGT.HK[c].VALUE
  ⟨0x0002, 1, 1, 4, false, .ro, .any, 0x0, false⟩,  -- MGT.HK[c].STAT
  ⟨0x0003, 1, 1, 32, false, .ro, .f32, 0x0, false⟩,  -- MGT.HK[c].RATE
  ⟨0x0010, 1, 1, 32, false, .rwl, .f32, 0x0, false⟩,  -- MGT.HK[c].WARN_ABS
  ⟨0x0011, 1, 1, 32, false, .rwl, .f32, 0x0, false⟩,  -- MGT.HK[c].SHUT_ABS
  ⟨0x0012, 1, 1, 32, false, .rwl, .f32, 0x3FC00000, false⟩,  -- MGT.HK[c].WARN_RATE
  ⟨0x0013, 1, 1, 32, false, .rwl, .f32, 0x40800000, false⟩,  -- MGT.HK[c].SHUT_RATE
  ⟨0x0014, 1, 1, 5, false, .rwl, (.nat 2 16), 0x4, false⟩,  -- MGT.HK[c].RATE_WIN
  ⟨0x0015, 1, 1, 32, false, .rw, .f32, 0x0, false⟩,  -- MGT.HK[c].LIM_LO
  ⟨0x0016, 1, 1, 32, false, .rw, .f32, 0x0, false⟩  -- MGT.HK[c].LIM_HI
]

/-- MGT class 13. -/
def defs_io : List PDef := [
  ⟨0x0001, 1, 1, 8, false, .rw, .any, 0x0, false⟩,  -- MGT.IO.GPO
  ⟨0x0002, 1, 1, 8, false, .ro, .any, 0x0, false⟩,  -- MGT.IO.GPO_OWN
  ⟨0x0003, 1, 1, 8, false, .ro, .any, 0x0, false⟩,  -- MGT.IO.GPO_PIN
  ⟨0x0004, 1, 1, 16, false, .ro, .any, 0x0, false⟩,  -- MGT.IO.EVT_LEVEL
  ⟨0x0005, 1, 1, 16, false, .rwl, .any, 0x0, false⟩,  -- MGT.IO.EVT_TYPE
  ⟨0x0006, 1, 1, 4, false, .ro, .any, 0x0, false⟩,  -- MGT.IO.ILK_LEVEL
  ⟨0x0007, 1, 1, 2, false, .ro, .any, 0x0, false⟩  -- MGT.IO.LASER_EN
]

/-- MGT class 14. -/
def defs_cal : List PDef := [
  ⟨0x0001, 1, 1, 32, false, .wo, .any, 0x0, false⟩,  -- MGT.CAL.EXPORT
  ⟨0x1001, 255, 1, 32, false, .rw, .any, 0x0, true⟩  -- MGT.CAL.ENTRY[e]
]

/-- The rows of a block class (R36), with those defined for one instance of it only. -/
def blockRows (region inst : Nat) : List PDef :=
  if region = 0 ∧ inst = 1 then defs_block ++ defs_mgtBlk1
  else if region = 1 ∧ inst = 7 then defs_block ++ defs_expBlk7
  else defs_block

/-- The rows of a region class (R36). -/
def regionRows (region : Nat) : List PDef :=
  if region = 4 then defs_regionClass ++ defs_stoRegion else defs_regionClass

/-- The rows of a class of a region; an undefined class has none. -/
def classRows (region cls inst : Nat) : List PDef :=
  if cls = 8 then (if region < 5 then blockRows region inst else [])
  else if cls = 15 then (if region < 5 ∧ inst = 0 then regionRows region else [])
  else match region, cls with
  | 0, 0 => defs_sys
  | 0, 1 => defs_stream
  | 0, 2 => defs_doc
  | 0, 3 => defs_sess
  | 0, 4 => defs_eth
  | 0, 5 => defs_time
  | 0, 6 => defs_ptp
  | 0, 7 => defs_cat
  | 0, 9 => defs_twin
  | 0, 10 => defs_log
  | 0, 11 => defs_key
  | 0, 12 => defs_hk
  | 0, 13 => defs_io
  | 0, 14 => defs_cal
  | 1, 0 => defs_beam
  | 1, 1 => defs_lsr
  | 1, 2 => defs_hp
  | 1, 3 => defs_axl
  | 1, 4 => defs_mpl
  | 1, 5 => defs_hyl
  | 1, 6 => defs_xy2
  | 1, 9 => defs_gal
  | 1, 10 => defs_wrd
  | 2, 0 => defs_fbk
  | 2, 1 => defs_out
  | 2, 2 => defs_prf
  | 2, 3 => defs_stp
  | 2, 4 => defs_sd
  | 2, 5 => defs_sw
  | 2, 6 => defs_lmp
  | 2, 7 => defs_lamp
  | 3, 0 => defs_pipe
  | 4, 0 => defs_ddr
  | 4, 1 => defs_rank
  | 4, 2 => defs_sf
  | 4, 3 => defs_pool
  | 4, 4 => defs_zip
  | _, _ => []

/-- The row that holds a parameter number. -/
def PDef.holds (d : PDef) (num : Nat) : Bool :=
  num ≥ d.start && (num - d.start) % d.stride == 0 && (num - d.start) / d.stride < d.n

def findRow (region cls inst num : Nat) : Option PDef := (classRows region cls inst).find? (·.holds num)

/-- The fields of a PID (R74). -/
def pidRegion (pid : Nat) : Nat := bits pid 31 28
def pidClass (pid : Nat) : Nat := bits pid 27 24
def pidInst (pid : Nat) : Nat := bits pid 23 16
def pidNum (pid : Nat) : Nat := bits pid 15 0
def mkPid (region cls inst num : Nat) : Nat := region * 2 ^ 28 + cls * 2 ^ 24 + inst * 2 ^ 16 + num

/-- The row of a PID, its instance set aside except where a row belongs to one instance (R36). -/
def rowOf (pid : Nat) : Option PDef := findRow (pidRegion pid) (pidClass pid) (pidInst pid) (pidNum pid)

/-- R75: the unlisted bits of a value are zero, or copies of the sign bit above a signed field. -/
def PDef.bitsOk (d : PDef) (v : Nat) : Bool :=
  if d.signed then v == ofSigned 32 (toSigned d.width v) else v < 2 ^ d.width

/-- R76: the value lies in the row's range, and a binary32 value is finite. -/
def PDef.rangeOk (d : PDef) (v : Nat) : Bool :=
  match d.rng with
  | .any => true
  | .nat lo hi => lo ≤ v && v ≤ hi
  | .int lo hi => lo ≤ toSigned 32 v && toSigned 32 v ≤ hi
  | .f32 => fFinite v
  | .f32Pos => fFinite v && fLt 0 v
  | .f32NonNeg => fFinite v && !fLt v 0
  | .f32In lo hi => fFinite v && !fLt v lo && !fLt hi v

end Sys2Proof.Machine
end

