-- ==== Sys2Proof/Machine/State.lean ====
section
/-!
DEFINITION. The state of the controller, as plain data, with the queue of waiting commands and the model's own counter
of free values, and the machine after reset.
-/
namespace Sys2Proof.Machine

open Sys2Proof

/-- How a step can stop. -/
inductive Fault where
  /-- Raised by an event that names a pin, port, cell or unit the grade does not have: no such input exists. Safe. -/
  | noSuchUnit (name : String)
  deriving DecidableEq, Repr

/-- Why a command has no meaning here. -/
inductive Refusal where
  /-- Answered by the dispatch for a row without a meaning. Safe. -/
  | notModelled (mnemonic : String)
  deriving DecidableEq, Repr

/-- The state of the controller. -/
structure State where
  /-- Commands waiting to be taken, first in, first out. -/
  pending : List Instr
  straps : Straps
  /-- The latest TS64 the block has reached (R370). -/
  now : TS
  /-- TS64 of the last frame tick and of the last micro-step (R23, R24). -/
  tick : TS
  micro : TS
  frameNo : Nat
  /-- TS64 at which the frame in progress began: its tick, or the step that it began with (R25). -/
  frameAt : TS
  /-- The model's count of free values drawn. -/
  fresh : Nat
  /-- What the last step put out. -/
  out : List Output
  host : HostSt
  log : LogSt
  /-- Parameter values that differ from their reset value, by PID, in rising order. -/
  params : List (Nat × Nat)
  writes : List PendingWrite
  faults : List FaultIn
  beams : List Beam
  heads : List HeadPort
  cns : CnsSt
  xy2 : List Xy2Port
  gal : GalSt
  store : StoreSt
  time : TimeSt
  twin : TwinSt
  mram : MramSt
  power : PowerSt
  doc : DocSt
  /-- Clock gating of the data-plane blocks, by region * 256 + block. -/
  blks : List (Nat × BlkSt)
  /-- Actions of Stop and Fatal decisions not yet carried out: region number, or 7 for the chip (R421, R422). -/
  stops : List Nat
  mot : MotSt
  pipes : List PipeSt
  lamp : LampSt
  deriving DecidableEq, Repr

/-- A stream with nothing consumed (R47). -/
def streamReset : StreamSt := ⟨0, [], [], []⟩

/-- A session slot with no session (R68). -/
def sessionReset : Session where
  isOpen := false
  held := false
  level := 7
  ep := .pcie
  gen := 3
  slotKey := 0xFF
  lastAt := 0
  streams := List.replicate 32 streamReset
  lastOrd := 0

def hostReset : HostSt where
  sessions := List.replicate 8 sessionReset
  locked := false
  ownerEver := false
  nonces := []
  nonceCount := 0
  attention := 0
  epoch := 0
  epochAt := none
  readyCount := 0
  ordCount := 0
  loose := []
  sub := List.replicate 32 ⟨0, 6, false, 0, 0, 0, false⟩
  rings := List.replicate 4 ⟨0, 0, false, 0, 0, 0, 0⟩
  pcieUp := false
  pcieGen := 0
  pcieWidth := 0
  perstHigh := false
  ethUp := [false, false, false]
  ethSpeed := [0, 0, 1]

def logReset : LogSt := ⟨[], 0, 0, 0, [], [], 0, none, [], 0, 0, 0, 0, 0, 0, none⟩

def planReset : PlanSt := ⟨0, 0, 0, 0, 0, .none, 0, 0, 0, false, [], [], 0, 0, 0⟩

def laserReset : LaserSt where
  readyIn := false
  alarmIn := false
  readyS := false
  alarmS := false
  syncIn := false
  gate := false
  gateOnAt := 0
  modOut := false
  aout := 0
  power := 0
  powers := []
  cPrev := 0
  cNow := 0
  cNext := some 0
  openFrame := false
  openPrev := false
  nextPulse := none
  pulseWidth := 0
  stepAt := 0
  ranTo := 0
  openNs := 0
  lastSync := 0
  identTries := 0
  identAt := none
  identOk := false
  lastBase := 0
  lastVid := 0
  prevBase := 0

def rasReset : RasSt where
  pending := none
  pendingSeq := 0
  pendingFresh := false
  active := none
  blanking := false
  exposed := 0
  skipped := 0
  clamped := 0
  repeated := 0
  bufRows := []
  lost := []
  cache := []
  regionOpen := false
  halts := []
  edges := []
  xingT := 0
  xingPos := 0
  xingKnown := false
  regionOrd := 0
  endAt := none
  outside := false
  turned := none
  pix := none
  pixScale := 32768
  pixShapes := List.replicate 4 0x8000
  scaleAt := 0
  oldScale := 32768
  oldShapes := List.replicate 4 0x8000

def beamReset : Beam where
  st := 0
  cmds := []
  ctl := []
  arming := none
  armAt := 0
  closers := []
  ring := []
  segs := []
  gates := []
  vecs := []
  wsegs := []
  plan := planReset
  vids := 1
  wids := 1
  front := 0
  committed := 0
  ahead := []
  hold := none
  holdNow := false
  holdAt := 0
  starved := false
  intr := none
  shut := none
  fcAcc := 0xFFFFFFFF
  hmAcc := 0xFFFFFFFF
  advOld := 0
  advFrom := 0
  resumed := none
  readyPlan := none
  px := 0
  py := 0
  laser := laserReset
  ras := rasReset
  dep := none
  melt := ⟨0, 0, 0, 0, 0, 0, 0, false, none⟩
  tagNow := 0

def galReset : GalSt where
  cells := []
  acc := 0x07000000
  sweptAt := 0
  expStop := 0
  expOn := false
  zones := []
  resCount := 0
  snaps := []
  snapCells := []
  snapSwept := 0
  snapAt := 0

def rankReset : Rank := ⟨0, List.replicate 8 none, 0, List.replicate 8 [], 0, List.replicate 8 0, 0⟩

/-- The pinned structures of pool 7, allocated at start-up (R336, R343): Gallery map, lease table, vector rings, line
buffers, system pages (log entry 12). -/
def pinnedAccs : List (Nat × Accn) :=
  let a (size : Nat) : Accn := ⟨0, size, size / 4096, 0, [], 0, true, 0, 0, 0, 0, 0, 0⟩
  [(0x07000000, a 0x1000000), (0x07000001, a 0x400000), (0x07000002, a 0x180000), (0x07000003, a 0x60000),
   (0x07000004, a 0x10000)]

def storeReset : StoreSt where
  accs := pinnedAccs
  mem := []
  next := [0, 0, 0, 0, 0, 0, 0, 0]
  dma := []
  pins := []
  zips := List.replicate 3 ⟨[], [], none, false⟩
  ranks := List.replicate 4 rankReset
  stopped := false
  cache := []
  pinBad := []
  retry := [[], []]
  rhAt := [0, 0]

/-- A PTP port in INITIALIZING. -/
def ptpReset : PtpPort := ⟨1, [], none, none, none, none, 0, false, [0, 0, 0], 0⟩

def timeReset : TimeSt where
  valid := false
  i := 0
  y := 0
  st := 0
  lockRun := 0
  offers := []
  lastOfs := 0
  lastAt := 0
  ahead := false
  step := none
  launches := [[], [], []]
  lineFree := [0, 0, 0]
  mac := []
  ptp := List.replicate 3 ptpReset
  twinRef := false
  lastSeal := none
  frac := 0

/-- Negotiating, with nothing known of a partner (R401, R436). -/
def twinReset : TwinSt where
  paired := false
  own := false
  ownAt := 0
  state := 1
  partner := 7
  partnerFw := 0
  mismatch := false
  killOut := false
  killIn := false
  linksCut := false
  faultIn := false
  hbAt := none
  hbOut := false
  hbStop := false
  linkUp := false
  heardAt := 0
  heard := false
  negAt := 0
  lost := false
  resolving := false
  digestFrame := 0
  digestSent := none
  fwd := []
  held := []
  replies := []
  mirrored := 0
  reAttempt := 0
  reBegan := 0
  reBytes := 0
  reAsked := none
  takeD := none
  takeH := none
  trigger := 0
  release := false
  measured := false
  takeB := none
  cold := false
  switchAt := none
  seize := none
  twinOfs := 0
  copied := false
  powerAt := none

/-- As shipped: slot 0 holds the factory key, the rest are empty (R432); both image slots hold a good image of the
shipped version. -/
def mramReset : MramSt where
  powerups := 0
  keys := ⟨2, 0, 0xFF, (List.range 32).map Config.factoryKey⟩ :: List.replicate 7 ⟨0, 0, 0xFF, []⟩
  cal := []
  calBad := false
  presets := []
  fw := [⟨true, Config.fwShipped, 3⟩, ⟨true, Config.fwShipped, 3⟩]
  fwPref := 0
  shutdown := none
  trained := [none, none, none, none]

/-- IDLE (R479), with every pin low. -/
def powerReset : PowerSt where
  state := 2
  laserEnA := false
  laserEnB := false
  safety := false
  enDiff := none
  enLow := true
  enHigh := none
  req := none
  halted := 0
  recovery := false
  fwRun := 0
  started := false
  pwrGood := true
  inReset := false
  vin := true
  ilkPins := 0
  gpoPin := 0
  stbyAt := none
  stbyFrom := 0
  stbyLast := 0
  aonTicks := 0
  aon := []
  hk := List.replicate 64 ⟨[], false, false, false, false, 0⟩
  hkAt := 0
  hkNo := 0
  hkStamps := List.replicate 64 0
  fwJob := none

def docReset : DocSt := ⟨[], [], [], [], false, false, none, none⟩


def headReset : HeadPort where
  state := 0
  goodRun := 0
  page0 := false
  page1 := false
  aligned := false
  lastErr := false
  arrived := false
  rowsOk := false
  rowsAt := 0
  aLast := 0
  delta := 0
  dHist := []
  trainAt := 0
  typeSent := 0
  axmode := 0
  ownLoop := 7
  posPrev := [0, 0, 0]
  velCnt := [0, 0, 0]
  folCnt := [0, 0, 0]
  over192 := 0
  noFollow := 0
  causes := 0
  pyr := []
  meltOk := false
  sentAt := 0
  sent := false
  atTarget := false
  latched := false
  setPrev := [0, 0, 0]
  setNow := [0, 0, 0]
  setNext := [0, 0, 0]
  cur := [0, 0, 0]
  curFresh := [false, false, false]
  pyrOk := false
  latchAt := 0
  pyrAt := []
  txRd := false
  rxRd := none
  commas := 0

def cslotReset : CSlot where
  kind := 0
  a := 0
  b := 0
  mode := 0
  impl := false
  byCmd := false
  xfer := false
  recs := []
  notch := [0, 0, 0, 0]
  held := 0
  hist := []
  camUsed := []
  ms := 0
  ramp := [none, none]
  rampFrom := [0, 0]
  hyAt := 0
  y := [0, 0, 0]
  valid := 0
  x2 := [0, 0, 0, 0, 0, 0]
  lateRow := false
  heldNow := false

def cnsReset : CnsSt := ⟨List.replicate 128 cslotReset, List.range 128, [], none, List.replicate 8 none, List.replicate 8 none⟩

def xy2Reset : Xy2Port := ⟨false, false⟩

def flatchReset : FLatch := ⟨false, false, 0, 0, 0, false, false, 0, 0⟩

def fbkReset : FbkPort where
  a := false
  b := false
  z := false
  hall := 0
  hallLast := 0
  pos := 0
  raw := 0
  valid := false
  uncertain := false
  fault := false
  hallBad := false
  ampBad := false
  absCrc := false
  still := false
  cause := 0
  armed := false
  ref := none
  last := (0, 0)
  dLast := none
  ills := []
  phase := none
  sampT := 0
  sampRaw := 0
  ampRun := 0
  absPrev := none
  absBad := 0
  neRun := 0
  absAt := none
  absTs := 0
  latches := List.replicate 3 flatchReset
  trig := []
  idxRaw := 0
  ins := List.replicate 7 (false, 0)
  trg := false
  maAt := none
  hallNext := 0
  idxHit := false

/-- ACC and DEC in effect before any move: the reset value of QSTOP_DEC (log entry 34). -/
def prfReset : PrfCell where
  st := 0
  pos := 0
  spd := 0
  plan := []
  endAt := none
  run := none
  queue := []
  lastTarget := some 0
  decLater := none
  acc := 100000000
  dec := 100000000
  changes := []
  stopAsk := none
  stoppers := []
  offs := []
  after := 1
  home := 0
  homeP := 0
  homeTag := 0
  c0 := 0
  r0 := 0
  devRun := 0
  cause := 0
  restAt := 0
  lt := 0
  ht := 0
  lo := 0
  hi := 0
  reach := 0
  ord := 0
  limited := false

def pageReset : PageEntry := ⟨0, 0, 0, 0, 0, false⟩
def outReset : OutGrp := ⟨0, 0, 0, [], 0, []⟩
def chopReset : Chop := ⟨0, 0, 0, 0, false⟩
def stpReset : StpSt := ⟨false, false, false, false, false, false, false, 0, chopReset, chopReset⟩
def sdReset : SdSt := ⟨false, false, false, [], 0, 0, false⟩
def swReset : SwSt := ⟨false, false, none, false⟩

def motReset : MotSt where
  ports := List.replicate 8 fbkReset
  page := List.replicate 8 pageReset
  outs := List.replicate 8 outReset
  cells := List.replicate 8 prfReset
  stps := List.replicate 6 stpReset
  sds := List.replicate 2 sdReset
  sws := List.replicate 12 swReset
  vmotLow := false
  vmot := 0

def pipeReset : PipeSt where
  run := false
  stops := []
  ending := []
  index := 0xFFFFFFFF
  slots := []
  last := 0
  deflate := false
  fn := 0
  nLast := 0
  first := true
  cur := none
  drop := []
  done := []
  ref := none
  shade := 0xFFFFFFFF
  gen := 0
  commits := []
  wframes := []
  baseGen := 0
  badGens := []
  ended := none
  xfers := []
  trigs := []
  trigAt := 0
  pub := List.replicate 32 0

def lampReset : LampSt where
  st := 0
  test := none
  disabled := 0
  openMask := 0
  shorts := []
  patterns := List.replicate 8 (List.replicate 16 0)
  pwm0 := 0
  sets := []
  effAt := none
  eff := List.replicate 64 0
  effFrom := 0
  effPrev := List.replicate 64 0
  holdTo := 0
  liveAt := 0
  ntcBad := false
  step := 0
  shown := 0
  due := []
  windows := []
  xfers := []

/-- The machine after reset. -/
def State.reset : State where
  pending := []
  straps := ⟨.yq2460, false, false, 0⟩
  now := 0
  tick := 0
  micro := 0
  frameNo := 0
  frameAt := 0
  fresh := 0
  out := []
  host := hostReset
  log := logReset
  params := []
  writes := []
  faults := []
  beams := List.replicate 24 beamReset
  heads := List.replicate 24 headReset
  cns := cnsReset
  xy2 := List.replicate 4 xy2Reset
  gal := galReset
  store := storeReset
  time := timeReset
  twin := twinReset
  mram := mramReset
  power := powerReset
  doc := docReset
  blks := []
  stops := []
  mot := motReset
  pipes := List.replicate 8 pipeReset
  lamp := lampReset

end Sys2Proof.Machine
end

