-- ==== Sys2Proof/Machine/Ops.lean ====
section
/-!
DEFINITION. The named operations over the state that every family shares: register file, replies, records, faults,
and the canonical list forms.
-/
namespace Sys2Proof.Machine

open Sys2Proof

/-! ## Sorted association lists -/

/-- The value a sorted list gives a key, if it lists it. -/
def assocGet {α : Type} : List (Nat × α) → Nat → Option α
  | [], _ => none
  | (k, v) :: r, key => if k = key then some v else assocGet r key

/-- A sorted list with a key given a value. -/
def assocPut {α : Type} : List (Nat × α) → Nat → α → List (Nat × α)
  | [], key, v => [(key, v)]
  | (k, w) :: r, key, v =>
    if key < k then (key, v) :: (k, w) :: r
    else if key = k then (key, v) :: r
    else (k, w) :: assocPut r key v

/-- A sorted list without a key. -/
def assocDel {α : Type} : List (Nat × α) → Nat → List (Nat × α)
  | [], _ => []
  | (k, w) :: r, key => if key = k then assocDel r key else (k, w) :: assocDel r key

/-- Write a value, an entry equal to what an unlisted key reads as being left out. -/
def assocSet (l : List (Nat × Nat)) (key v dflt : Nat) : List (Nat × Nat) :=
  if v = dflt then assocDel l key else assocPut l key v

/-- Strictly rising keys. -/
def rising {α : Type} : List (Nat × α) → Bool
  | [] => true
  | [_] => true
  | (k, _) :: (k', v') :: r => k < k' && rising ((k', v') :: r)

/-! ## Grade -/

/-- Beams present on the grade (R1). -/
def State.nBeams (s : State) : Nat := match s.straps.grade with | .yq2460 => 24 | .yq1260 => 12
/-- Camera pipelines present on the grade (R1). -/
def State.nPipes (s : State) : Nat := match s.straps.grade with | .yq2460 => 8 | .yq1260 => 4
/-- Grade code (R1). -/
def State.gradeCode (s : State) : Nat := match s.straps.grade with | .yq2460 => 0x2460 | .yq1260 => 0x1260

/-- Whether instance `inst` of a class exists on the grade (R4, R5, R20). -/
def State.instPresent (s : State) (region cls inst : Nat) : Bool :=
  match region, cls with
  | 1, 0 | 1, 1 | 1, 2 => inst < s.nBeams
  | 1, 3 | 1, 4 | 1, 5 => inst < 128
  | 1, 6 => inst < 4
  | 1, 8 => if s.nBeams = 24 then inst < 9 else inst < 3 || (6 ≤ inst && inst < 9)
  | 2, 0 => inst < 8
  | 2, 1 => inst < 8
  | 2, 2 => inst < 8
  | 2, 3 => inst < 6
  | 2, 4 => inst < 2
  | 2, 5 => inst < 12
  | 2, 6 => inst < 16
  | 2, 8 => inst < 4
  | 3, 0 => inst < s.nPipes
  | 3, 8 => inst < s.nPipes / 4
  | 4, 0 => inst < 2
  | 4, 1 => inst < 4
  | 4, 3 => inst < 8
  | 4, 4 => inst < 3
  | 4, 8 => inst < 5
  | 0, 1 => inst < 32
  | 0, 3 => inst < 8
  | 0, 4 => inst < 3
  | 0, 6 => inst < 3
  | 0, 8 => inst < 7
  | 0, 11 => inst < 8
  | 0, 12 => inst < 64
  | _, _ => inst = 0

/-- The number of instances a class has on the larger grade; instances past it are not defined (R76). -/
def classInsts (region cls : Nat) : Nat :=
  match region, cls with
  | 1, 0 | 1, 1 | 1, 2 => 24
  | 1, 3 | 1, 4 | 1, 5 => 128
  | 1, 6 => 4
  | 1, 8 => 9
  | 2, 0 | 2, 1 | 2, 2 => 8
  | 2, 3 => 6
  | 2, 4 => 2
  | 2, 5 => 12
  | 2, 6 => 16
  | 2, 8 => 4
  | 3, 0 => 8
  | 3, 8 => 2
  | 4, 0 => 2
  | 4, 1 => 4
  | 4, 3 => 8
  | 4, 4 => 3
  | 4, 8 => 5
  | 0, 1 => 32
  | 0, 3 => 8
  | 0, 4 => 3
  | 0, 6 => 3
  | 0, 8 => 7
  | 0, 11 => 8
  | 0, 12 => 64
  | _, _ => 1

/-! ## The register file -/

/-- Housekeeping limits at reset (R457): (WARN_ABS or LIM_LO, SHUT_ABS or LIM_HI) in thousandths. -/
def hkLimits (c : Nat) : Nat × Nat :=
  if c < 12 then (100000, 108000)
  else if c < 14 then (85000, 95000)
  else if c < 17 then (110000, 125000)
  else match c with
  | 17 => (105000, 120000)
  | 18 => (80000, 95000)
  | 20 => (9000, 60000)
  | 21 => (0, 7000)
  | 22 => (9000, 60000)
  | 23 => (0, 12000)
  | 24 => (760, 840)
  | 25 => (0, 40000)
  | 26 => (950, 1050)
  | 27 => (1140, 1260)
  | 28 => (2375, 2625)
  | 29 => (1710, 1890)
  | 30 => (3135, 3465)
  | 32 => (4750, 5250)
  | 33 => (0, 1000)
  | 34 => (3135, 3465)
  | 35 => (0, 500)
  | _ => (0, 0)

/-- Ingress and egress latency of a port at speed s, at reset, in ps. -/
def latReset (s : Nat) : Nat × Nat :=
  match s with
  | 0 => (41600, 35200)
  | 1 => (212000, 188000)
  | 2 => (236000, 204000)
  | 3 => (1480000, 1320000)
  | _ => (14200000, 12900000)

/-- The reset value of a parameter (the tables' Reset columns; the ones that depend on the instance written out). -/
def regReset (roleB : Bool) (pid : Nat) : Nat :=
  let base := pid - pidInst pid * 2 ^ 16
  let inst := pidInst pid
  let num := pidNum pid
  match pidRegion pid, pidClass pid with
  | 0, 4 => if num = 1 then (if inst = 2 then 0xC0A8003C else 0) else if num = 2 then 0xFFFFFF00 else 0
  | 0, 8 => if pid = P.BLK_RS485_BAUD then 1000000 else ((rowOf pid).map (·.reset)).getD 0
  | 0, 6 =>
    if num ≥ 0x10 && num < 0x15 then (latReset (num - 0x10)).1
    else if num ≥ 0x18 && num < 0x1D then (latReset (num - 0x18)).2
    else ((rowOf pid).map (·.reset)).getD 0
  | 0, 2 =>
    if num > 0x1000 then
      let i := num - 0x1000
      if i ≤ 26 || (101 ≤ i && i ≤ 309) then 0x010 else if 401 ≤ i && i ≤ 510 then 0x040 else 0
    else ((rowOf pid).map (·.reset)).getD 0
  | 0, 12 =>
    if (num = 0x10 && inst < 20) || (num = 0x15 && inst ≥ 20) then fOfRat (hkLimits inst).1 1000
    else if (num = 0x11 && inst < 20) || (num = 0x16 && inst ≥ 20) then fOfRat (hkLimits inst).2 1000
    else if num = 0x10 || num = 0x11 || num = 0x15 || num = 0x16 then 0
    else ((rowOf pid).map (·.reset)).getD 0
  | 2, 0 => if base = P.FBK_TERM then (if roleB then 0 else 1) else ((rowOf pid).map (·.reset)).getD 0
  | 3, 0 =>
    if base = P.PIPE_SRC_PORT then inst
    else if num ≥ 0x20 && num < 0x2C then (if (num - 0x20) / 4 = (num - 0x20) % 4 then 4096 else 0)
    else ((rowOf pid).map (·.reset)).getD 0
  | 4, 3 =>
    if num = 1 then (match inst with | 0 | 6 => 1048576 | 1 | 4 => 262144 | 2 => 1572864 | 3 | 5 => 65536 | _ => 0) else 0
  | 1, 3 | 1, 4 =>
    if num ≥ 0x1A0 && num < 0x1AA then (if (num - 0x1A0) % 5 = 0 then 0x3F800000 else 0)
    else ((rowOf pid).map (·.reset)).getD 0
  | _, _ => ((rowOf pid).map (·.reset)).getD 0

/-- The value the register file holds for a PID. -/
def State.reg (s : State) (pid : Nat) : Nat := (assocGet s.params pid).getD (regReset s.straps.roleB pid)

/-- The value of the parameter with base PID p, in instance i. -/
def State.rg (s : State) (p i : Nat) : Nat := s.reg (p + i * 2 ^ 16)

/-- The same, read as a signed 32-bit value. -/
def State.rgI (s : State) (p i : Nat) : Int := toSigned 32 (s.rg p i)

/-- Write a register. -/
def State.setReg (s : State) (pid v : Nat) : State :=
  { s with params := assocSet s.params pid (v % 2 ^ 32) (regReset s.straps.roleB pid) }

def State.setRg (s : State) (p i v : Nat) : State := s.setReg (p + i * 2 ^ 16) v

/-- Write a signed value; a 64-bit or 48-bit one into two words, low word first (R75). -/
def State.setRgI (s : State) (p i : Nat) (v : Int) : State := s.setRg p i (ofSigned 32 v)
def State.setRg2 (s : State) (p i : Nat) (v : Int) : State :=
  let u := ofSigned 64 v
  (s.setRg p i (u % 2 ^ 32)).setRg (p + 1) i (u / 2 ^ 32)
def State.rg2 (s : State) (p i : Nat) : Int := toSigned 64 (s.rg p i + 2 ^ 32 * s.rg (p + 1) i)

/-- Add to a counter that wraps at 2^32. -/
def State.bumpBy (s : State) (p i n : Nat) : State := s.setRg p i (s.rg p i + n)
def State.bump (s : State) (p i : Nat) : State := s.bumpBy p i 1

/-! ## Time, outputs and free values -/

/-- Move the latest TS64 forward; it never runs back (R370). -/
def State.at (s : State) (t : TS) : State := { s with now := max s.now t }

/-- The signed difference of two 64-bit times (R372): below 0 where the first precedes the second. -/
def tsDiff (a b : TS) : Int := toSigned 64 (ofSigned 64 ((a : Int) - (b : Int)))

/-- Time since the frame in progress began. -/
def State.frameOfs (s : State) : Nat := s.now - s.frameAt

/-- The tick that ends the frame in progress (R23, R25). -/
def State.frameStop (s : State) : TS := s.tick + 2560

/-- The instant lies in the last micro-step of its frame, which takes the lengthening of a frame that begins at a step (R24, R26). -/
def State.lastStep (s : State) : Bool :=
  if s.now < s.frameStop then 2304 ≤ s.frameOfs else 2304 ≤ s.now % 2560

/-- The next frame tick, and the one k frames after it. -/
def State.tickAfter (s : State) (k : Nat) : TS :=
  (if s.frameAt ≤ s.now && s.now < s.frameStop then s.frameStop else (s.now / 2560 + 1) * 2560) + k * 2560

def State.put (s : State) (o : Output) : State := { s with out := s.out ++ [o] }

/-- Draw a free value (a value the manual leaves open). -/
def State.draw (s : State) : Nat × State := (Config.fresh s.fresh, { s with fresh := s.fresh + 1 })

def State.updTwin (s : State) (f : TwinSt → TwinSt) : State := { s with twin := f s.twin }

/-- The module has a partner to reckon with: PAIRED, and not the role-A module of a mismatch, which goes on unpaired (R6, R401). -/
def State.inPair (s : State) : Bool := s.twin.paired && s.twin.state ≠ 0

/-- TWIN_KILL_IN is asserted; an unpaired module ignores it (R404). -/
def State.killed (s : State) : Bool := s.inPair && s.twin.killIn

/-- An ACTIVE with a partner in SHADOW or RESYNC forwards (R406). -/
def State.forwards (s : State) : Bool :=
  s.twin.state = 2 && !s.twin.lost && (s.twin.partner = 3 || s.twin.partner = 4)

/-! ## Result codes (R54) -/

def rOK : Nat := 0x00
def rQUEUED : Nat := 0x01
def rDEFERRED : Nat := 0x02
def rPARTIAL : Nat := 0x03
def rBUSY : Nat := 0x10
def rBADOP : Nat := 0x20
def rBADPARAM : Nat := 0x21
def rBADSTATE : Nat := 0x22
def rNOAUTH : Nat := 0x23
def rNOSPACE : Nat := 0x24
def rNOTSHRUNK : Nat := 0x30
def rCHECKFAIL : Nat := 0x31
def rFAULT : Nat := 0x40
def rCANCELLED : Nat := 0x41
def rINTERNAL : Nat := 0x7F

/-- No accession. -/
def noAcc : Nat := 0xFFFFFFFF

/-! ## Sessions, streams and slots -/

def State.session (s : State) (i : Nat) : Session := s.host.sessions.getD i sessionReset

def State.updHost (s : State) (f : HostSt → HostSt) : State := { s with host := f s.host }

def State.updSession (s : State) (i : Nat) (f : Session → Session) : State :=
  s.updHost fun h => { h with sessions := h.sessions.modify i f }

def Session.stream (x : Session) (i : Nat) : StreamSt := x.streams.getD i streamReset

def Session.updStream (x : Session) (i : Nat) (f : StreamSt → StreamSt) : Session :=
  { x with streams := x.streams.modify i f }

def State.updStream (s : State) (sess i : Nat) (f : StreamSt → StreamSt) : State :=
  s.updSession sess fun x => x.updStream i f

/-- The slot of a sequence number of a stream. -/
def StreamSt.slot? (x : StreamSt) (seq : Nat) : Option Slot := x.slots.find? (·.seq = seq)

/-- Decide a consumed command that is not yet decided (R49). A command decided already keeps its reply (OP-6). -/
def State.decide (s : State) (k : Ticket) (res eff : Nat) (payload : List Byte) : State :=
  s.updStream k.sess k.stream fun x =>
    { x with slots := x.slots.map fun sl =>
        if sl.seq = k.seq ∧ sl.dec = none then { sl with dec := some ⟨res, eff, payload, s.now⟩ } else sl }

/-- Decide with the present instant as the effective TS64 and no payload. -/
def State.decideNow (s : State) (k : Ticket) (res : Nat) : State := s.decide k res s.now []

/-! ## Source paths, records and the log (R19, R425-R429) -/

def State.srcPath (s : State) (region block cell : Nat) : Nat :=
  (if s.straps.roleB then 0x8000 else 0) + region * 0x1000 + block * 0x100 + cell

/-- Codes whose table marks them Catalogue, so that they never merge (R394). -/
def catalogueCodes : List Nat :=
  [0x1001, 0x1002, 0x1003, 0x1004, 0x1005, 0x1006, 0x1007, 0x1008, 0x100B, 0x100E, 0x100F,
   0x1101, 0x1102, 0x1103, 0x1104, 0x1203, 0x1301, 0x1302, 0x1401, 0x1402, 0x1404, 0x1405, 0x1406] ++
  [0x2001, 0x2003, 0x2005, 0x2006, 0x2007, 0x2008, 0x2009, 0x2801, 0x2802, 0x2805, 0x3001, 0x3003, 0x3004,
   0x4002, 0x4004, 0x4007, 0x4008, 0x5001, 0x5002, 0x5005, 0x5007] ++
  [0x6001, 0x6002, 0x6003, 0x6004, 0x6005, 0x7001, 0x7002, 0x7003, 0x7004,
   0x0001, 0x0002, 0x0003, 0x0004, 0x0005, 0x0007, 0x0008, 0x0009, 0x000A, 0x000B, 0x000C]

def isCatalogue (code : Nat) : Bool := catalogueCodes.contains code

end Sys2Proof.Machine
end

