-- ==== Sys2Proof/Machine/Mem.lean ====
section
/-!
DEFINITION. The bytes of the Accession Store: a list of (address, byte) cells with strictly rising addresses, where an
address is accession * 2^30 + offset. An address not listed has never been written: it reads as nothing, and a unit
that reads it takes an undefined byte (R338).
-/
namespace Sys2Proof.Machine

open Sys2Proof

abbrev Memory := List Host.Cell

/-- The canonical form: strictly rising addresses, so that equal memories are equal lists. -/
def Memory.wf (m : Memory) : Bool := rising m

/-- The byte written at an address, if one has been. -/
def Memory.get (m : Memory) (a : Nat) : Option Byte := assocGet m a

/-- Write one byte. -/
def Memory.put (m : Memory) (a : Nat) (b : Byte) : Memory := assocPut m a b

/-- Write bytes at rising addresses. -/
def Memory.putAll (m : Memory) (a : Nat) : List Byte → Memory
  | [] => m
  | b :: bs => Memory.putAll (m.put a b) (a + 1) bs

/-- Drop every byte of an address range. -/
def Memory.drop (m : Memory) (lo hi : Nat) : Memory := m.filter fun c => c.1 < lo || hi ≤ c.1

/-- The key of a byte of an accession. -/
def memKey (acc off : Nat) : Nat := acc * 2 ^ 30 + off

/-- Pool and index of an accession number (R336). -/
def accPool (acc : Nat) : Nat := bits acc 31 24
def accIndex (acc : Nat) : Nat := bits acc 23 0

/-! ## The Gallery map as an accession (R152, R153, R158) -/

/-- Milliseconds of a stamp, 16 bits (R153). -/
def galMs (t : TS) : Nat := t / 1000000 % 65536

/-- The word a cold cell is set to at time t (R158). -/
def coldWord (t : TS) : Nat := ofSigned 16 ((galMs t : Int) - 8192) * 65536

/-- The word of a cell; an unlisted cell is cold, as the last sweep left it. -/
def State.galWord (s : State) (cell : Nat) : Nat :=
  (assocGet s.gal.cells cell).getD (coldWord s.gal.sweptAt)

/-! ## Bytes -/

/-- The system pages, an accession of pinned space (R343). -/
def systemPages : Nat := 0x07000004

/-- The pipeline in whose blob slot an offset of the system pages lies, with the offset in the slot (R312; log entry 113). -/
def blobAt (off : Nat) : Option (Nat × Nat) :=
  ((List.range 8).find? fun p => Config.blobSlot p ≤ off && off < Config.blobSlot p + 32).map fun p => (p, off - Config.blobSlot p)

/-- A byte of the store as a reader sees it; the map's accession holds its cells (R152), the blob slots of the system pages hold the
published records (R312), and an unwritten byte of any other place is undefined (log entry 3). -/
def State.memByte (s : State) (acc off : Nat) : Byte :=
  if acc = s.gal.acc then BitVec.ofNat 8 (s.galWord (off / 4) / 2 ^ (8 * (off % 4)))
  else match if acc = systemPages then blobAt off else none with
  | some (p, k) => ((s.pipes[p]?.bind fun q => q.pub[k]?).getD 0)
  | none => (Memory.get s.store.mem (memKey acc off)).getD (Config.undefByte (memKey acc off))

/-- Bytes of an accession. -/
def State.memBytes (s : State) (acc off : Nat) : Nat → List Byte
  | 0 => []
  | n + 1 => s.memByte acc off :: s.memBytes acc (off + 1) n

def State.updStore (s : State) (f : StoreSt → StoreSt) : State := { s with store := f s.store }

/-- Write bytes into an accession. -/
def State.memWrite (s : State) (acc off : Nat) (data : List Byte) : State :=
  s.updStore fun st => { st with mem := Memory.putAll st.mem (memKey acc off) data }

/-- A field of an accession, low byte first. -/
def State.memNat (s : State) (acc off n : Nat) : Nat := unLe (s.memBytes acc off n)

/-! ## Accessions and loans (R336-R341) -/

def State.acc? (s : State) (acc : Nat) : Option Accn := assocGet s.store.accs acc

def State.updAcc (s : State) (acc : Nat) (f : Accn → Accn) : State :=
  match s.acc? acc with
  | some a => s.updStore fun st => { st with accs := assocPut st.accs acc (f a) }
  | none => s

/-- R340: the check of an accession named for a loan: the result code of the refusal, or none. -/
def State.loanCheck (s : State) (acc : Nat) : Option Nat :=
  match s.acc? acc with
  | none => some rBADPARAM
  | some a =>
    if a.state = 3 ∨ a.state = 2 ∨ a.poisonCount > 0 then some rBADPARAM
    else if a.state = 1 then some rBADSTATE
    else none

/-- Take a loan. -/
def State.takeLoan (s : State) (acc : Nat) : State := s.updAcc acc fun a => { a with loans := a.loans + 1 }

/-- Granules of a size in bytes (R337). -/
def granulesOf (size : Nat) : Nat := (size + 4095) / 4096

/-- Granules held by a pool, FREEING included; pool 7 lives in the store front and holds none (R336, R337). -/
def State.poolUsed (s : State) (pool : Nat) : Nat :=
  if pool = 7 then 0 else ((s.store.accs.filter fun p => accPool p.1 = pool).map fun p => p.2.granules).sum

/-- All granules in use; pool 7 lives in the store front and holds none (R336). -/
def State.granulesUsed (s : State) : Nat :=
  ((s.store.accs.filter fun p => accPool p.1 ≠ 7).map fun p => p.2.granules).sum

def granuleTotal : Nat := 4177920

/-- The first free index of a pool from a starting one on, skipping live ones and 0xFF_FFFF, wrapping at 2^24 (R338). -/
def freeIndex (accs : List (Nat × Accn)) (pool : Nat) : Nat → Nat → Nat
  | 0, i => i
  | fuel + 1, i =>
    let j := i % 2 ^ 24
    if j = 0xFFFFFF ∨ (assocGet accs (pool * 2 ^ 24 + j)).isSome then freeIndex accs pool fuel (j + 1) else j

/-- R338: whether an allocation of a size in a pool would be refused for space. -/
def State.noSpaceFor (s : State) (pool size : Nat) : Bool :=
  s.poolUsed pool + granulesOf size > s.rg P.POOL_QUOTA pool ||
  s.granulesUsed + granulesOf size > granuleTotal || s.store.accs.length ≥ 131072

/-- Allocatable granules of one channel (R337). -/
def channelTotal : Nat := granuleTotal / 2

/-- Free granules of a channel. -/
def State.channelFree (s : State) (ch : Nat) : Nat :=
  channelTotal - ((s.store.accs.filter fun p => accPool p.1 ≠ 7).map fun p => if ch = 0 then p.2.g0 else p.2.g1).sum

/-- Granules of a new accession on channel 0 (R337): alternating, the start included, until one channel is full. -/
def granulesOn0 (start n free0 free1 : Nat) : Nat :=
  let half := if start = 0 then (n + 1) / 2 else n / 2
  let other := n - half
  if half > free0 then free0 else if other > free1 then n - free1 else half

/-- The channel of a granule of an accession. -/
def Accn.channelOf (a : Accn) (g : Nat) : Nat :=
  if g / 2 < min a.g0 a.g1 then (a.start + g) % 2
  else if a.g0 = a.g1 then (a.start + g) % 2
  else if a.g0 > a.g1 then 0 else 1

/-- Allocate an accession in a pool (R338): its number and the new state. -/
def State.allocAcc (s : State) (pool size : Nat) : Nat × State :=
  let i := freeIndex s.store.accs pool 131073 (s.store.next.getD pool 0)
  let acc := pool * 2 ^ 24 + i
  let n := granulesOf size
  let f0 := s.channelFree 0
  let f1 := s.channelFree 1
  let start := if f1 > f0 then 1 else 0
  let g0 := granulesOn0 start n f0 f1
  (acc, s.updStore fun st =>
    { st with
      accs := assocPut st.accs acc ⟨0, size, n, 0, [], 0, false, s.now, 0, 0, start, g0, n - g0⟩
      next := st.next.set pool ((i + 1) % 2 ^ 24) })

/-- Bytes of an accession become undefined. -/
def State.memDrop (s : State) (acc off n : Nat) : State :=
  s.updStore fun st => { st with mem := Memory.drop st.mem (memKey acc off) (memKey acc (off + n)) }

/-- Release an accession: its granules are free and its bytes undefined. -/
def State.releaseAcc (s : State) (acc : Nat) : State :=
  s.updStore fun st =>
    { st with
      accs := assocDel st.accs acc
      mem := Memory.drop st.mem (memKey acc 0) (memKey (acc + 1) 0)
      cache := st.cache.filter fun l => l.key / 2 ^ 30 ≠ acc }

/-- The 64-byte lines that a range of bytes covers whole, from `lo` on. -/
def wholeLines (lo n : Nat) : List Nat :=
  let first := (lo + 63) / 64
  let last := (lo + n) / 64
  (List.range (last - first)).map (· + first)

/-- A write of a range clears the poisoned lines it covers whole; the count falls unless it has saturated (R356). -/
def State.clearPoison (s : State) (acc off n : Nat) : State :=
  s.updAcc acc fun a =>
    let hit := a.poison.filter fun l => (wholeLines off n).contains l
    { a with
      poison := a.poison.filter fun l => !hit.contains l
      poisonCount := if a.poisonCount ≥ 255 then a.poisonCount else a.poisonCount - hit.length }

/-- Rank, bank, row and column of a byte of an accession: the channel by R337, the rest as the loan table chose for its granule, which lies
in one half of a page (log entry 11). -/
def State.placeOf (s : State) (acc off : Nat) : Nat × Nat × Nat × Nat :=
  let (r, b, w, c) := Config.dramPlace (memKey acc (off / 4096 * 4096))
  let ch := match s.acc? acc with | some a => a.channelOf (off / 4096) | none => 0
  (2 * ch + r % 2, b % 8, w % 65536, c % 2 * 512 + off % 4096 / 8)

/-- The store front alone holds an accession's bytes, or a pinned copy of them: no read of it goes to DRAM (R343, R344). -/
def State.frontOnly (s : State) (acc : Nat) : Bool :=
  accPool acc = 7 || ((s.acc? acc).map (·.pinned)).getD false

/-- A line lies in a failed rank: every read of it is poisoned (R360), where it is read from DRAM. -/
def State.lineFailed (s : State) (acc line : Nat) : Bool :=
  (s.store.ranks.any fun r => r.state = 3) && !s.frontOnly acc &&
    (s.store.ranks.getD (s.placeOf acc (line * 64)).1 rankReset).state = 3

/-- Lines of a pinned copy that hold an uncorrectable error (R346). -/
def State.pinBadLines (s : State) (acc : Nat) : List Nat := (s.store.pinBad.filter fun x => x.1 = acc).map (·.2)

/-- The first poisoned line in a range of an accession, as an offset. -/
def State.firstPoison (s : State) (acc off n : Nat) : Option Nat :=
  match s.acc? acc with
  | none => none
  | some a =>
    let marked := ((a.poison ++ s.pinBadLines acc).filter fun l => off / 64 ≤ l && l * 64 < off + n).min?
    let failed := if s.store.ranks.any fun r => r.state = 3 then
        ((List.range (ceilDiv (off + n) 64 - off / 64)).map (· + off / 64)).find? fun l => s.lineFailed acc l
      else none
    match marked, failed with
    | some x, some y => some (min x y * 64)
    | some x, none => some (x * 64)
    | none, some y => some (y * 64)
    | none, none => none

end Sys2Proof.Machine
end

