-- ==== Sys2Proof/Machine/Cache.lean ====
section
/-!
DEFINITION. The store front's cache (R345, R347): 64-byte lines, 16 ways in a set, write-back, the least recently used one leaves; and the
accesses that units make to the store through it.
-/
namespace Sys2Proof.Machine

open Sys2Proof

/-- Sets of 16 lines in the cache, whose size is 42 MiB less the pin area (R343). -/
def State.cacheSets (s : State) : Nat := (42 - s.rg P.SF_PIN_P5 0) * 1024

/-- The set of a line (log entry 42). -/
def State.cacheSet (s : State) (key : Nat) : Nat := Config.cacheSet key % s.cacheSets

/-- A line is used: whether it was held, and the cache after it. A full set gives up its least recently used line. -/
def cacheUse (set : Nat → Nat) (c : List CacheLine) (key : Nat) (dirty : Bool) : Bool × List CacheLine :=
  match c.find? fun l => l.key = key with
  | some l => (true, ⟨key, l.dirty || dirty⟩ :: c.filter fun x => x.key ≠ key)
  | none =>
    let ways := if c.length < 16 then [] else c.filter fun x => set x.key = set key
    let out := if ways.length < 16 then none else ways.getLast?
    (false, ⟨key, dirty⟩ :: (match out with | some v => c.filter fun x => x.key ≠ v.key | none => c))

/-- Pools whose lines the cache takes (R336, R345). -/
def cachedPool (pool : Nat) : Bool := pool ≤ 6 && pool ≠ 2 && pool ≠ 4

/-- A line of an accession is read or written: one hit or one miss. -/
def State.useLine (s : State) (acc : Nat) (write : Bool) (line : Nat) : State :=
  let (hit, c) := cacheUse s.cacheSet s.store.cache (memKey acc (line * 64)) write
  (s.updStore fun st => { st with cache := c }).bump (if hit then P.SF_HITS else P.SF_MISSES) 0

/-- A range of an accession is read or written, each line of it once (log entry 42). What lives in the store front does not pass the cache. -/
def State.useLines (s : State) (acc off n : Nat) (write : Bool) : State :=
  if n = 0 ∨ !cachedPool (accPool acc) ∨ s.frontOnly acc then s
  else forEach (List.range' (off / 64) ((off + n + 63) / 64 - off / 64)) (fun line s => s.useLine acc write line) s

/-- A unit or the host reads a range. -/
def State.readLines (s : State) (acc off n : Nat) : State := s.useLines acc off n false

/-- A line that a read brought from DRAM is in the cache; one that no access has counted yet is a miss. -/
def State.fillLine (s : State) (acc off : Nat) : State :=
  if s.store.cache.any fun l => l.key = memKey acc (off / 64 * 64) then s else s.readLines acc (off / 64 * 64) 64

/-- Every dirty line is written back, and the cache loses its contents in STANDBY (R347). -/
def State.cacheFlush (s : State) : State := s.updStore fun st => { st with cache := [] }

/-- Data written into an accession, with the poison that it clears (R356). -/
def State.storeData (s : State) (acc off : Nat) (data : List Byte) : State :=
  ((s.memWrite acc off data).clearPoison acc off data.length).useLines acc off data.length true

/-- The same where the accession may have gone in the meantime: then nothing is written. -/
def State.storeLive (s : State) (acc off : Nat) (data : List Byte) : State :=
  if (s.acc? acc).isSome then s.storeData acc off data else s

end Sys2Proof.Machine
end

