-- ==== Sys2Proof/Machine/Records.lean ====
section
/-!
DEFINITION. Writing a record (R82, R394-R398, R425-R430): stamp and sequence, merging by repeat, the log ring, and the
staging of catalogue entries into the open segment.
-/
namespace Sys2Proof.Machine

open Sys2Proof

/-- Bytes of a merge key (R429). -/
def mergeKeyLen (code : Nat) : Nat :=
  match code with
  | 0x1009 => 4
  | 0x100A => 0
  | 0x1403 => 1
  | 0x3002 => 2
  | 0x3005 => 0
  | 0x4001 => 8
  | 0x4005 => 8
  | _ => 24

/-- Records the ring holds (R427). -/
def logRing : Nat := 131072

/-- A payload of 24 bytes (R425), cut or padded with zeros. -/
def recPayload (p : List Byte) : List Byte := (p ++ zeros 24).take 24

/-- The newest log record of a source and code. The list runs from oldest to newest. -/
def newestOf (recs : List Rec) (src code : Nat) : Option Rec :=
  recs.foldl (fun acc r => if r.src = src ∧ r.code = code then some r else acc) none

/-- R428: whether a new occurrence merges into a record. -/
def merges (r : Rec) (payload : List Byte) (ts flags powerups : Nat) : Bool :=
  !isCatalogue r.code && r.payload.take (mergeKeyLen r.code) == payload.take (mergeKeyLen r.code) &&
  r.count < 65535 && r.first ≤ ts && ts - r.first ≤ 2 ^ 31 - 1 && r.powerups == powerups &&
  r.flags.testBit 3 == flags.testBit 3 && !r.flags.testBit 1

/-- Sequence number a source's next record carries (R426). -/
def State.seqOf (s : State) (src : Nat) : Nat := (assocGet s.log.seqs src).getD 0

/-- Place a record in the ring under the next log index; the oldest is overwritten when the ring is full (R430). -/
def State.logPlace (s : State) (r : Rec) : State :=
  let l := s.log
  let recs := l.recs ++ [{ r with index := l.head }]
  let past := recs.length > logRing
  let s := { s with log :=
    { l with recs := if past then recs.drop 1 else recs, head := (l.head + 1) % 2 ^ 32 } }
  if past && l.head - logRing ≥ l.mark then s.bump P.LOG_OVERWRITTEN 0 else s

/-- Entries a segment of SEG_KIB KiB holds behind its header (R395). -/
def State.segRoom (s : State) : Nat := s.rg P.CAT_SEG_KIB 0 * 1024 / 64 - 1

/-- Segments sealed and not released (R398). -/
def State.catHeld (s : State) : Nat :=
  (s.log.segs.filter fun g => g.sealedAt.isSome && !g.released).length

/-- An entry that finds no segment is lost and counted (R398). -/
def State.catLose (s : State) (ts : TS) : State :=
  let l := s.log
  { s with log :=
      { l with
        lost := (l.lost + 1) % 2 ^ 32
        lostEpisode := l.lostEpisode + 1
        lostFrom := if l.lostEpisode = 0 then ts else l.lostFrom
        lostTo := ts } }

/-- Open a segment when pool 4 can supply one and HELD is below SEGS_MAX (R396, R398). -/
def State.openSegment (s : State) : State :=
  let size := s.rg P.CAT_SEG_KIB 0 * 1024
  if s.catHeld ≥ s.rg P.CAT_SEGS_MAX 0 ∨ s.noSpaceFor 4 size then s
  else
    let (acc, s) := s.allocAcc 4 size
    let s := s.updAcc acc fun a => { a with state := 1 }
    let l := s.log
    { s with log :=
      { l with
        openSeg := some ⟨l.nextSeg, acc, [], l.lostEpisode, s.now, none, none, none, false⟩
        nextSeg := l.nextSeg + 1 } }

/-- The 64 bytes of a record (R425); its CRC is formed where the bytes are read (Log.lean). -/
def Rec.body (r : Rec) : List Byte :=
  le 8 r.first ++ le 4 r.last ++ le 4 r.seq ++ le 2 r.src ++ le 2 r.code ++ le 2 r.count ++
  le 1 r.flags ++ le 1 r.version ++ r.payload ++ le 4 r.index ++ le 4 r.powerups ++ zeros 4

/-- Stage an entry into the open segment (R395). A full segment is sealed once the step's records are written (Time.lean). -/
def State.catStage (s : State) (r : Rec) : State :=
  let s := if s.log.openSeg.isNone then s.openSegment else s
  match s.log.openSeg with
  | none => s.catLose r.first
  | some g =>
    let l := s.log
    { s with log := { l with openSeg := some { g with
        entries := g.entries ++ [{ r with index := 0, count := 1 }]
        firstAt := if g.entries.isEmpty then s.now else g.firstAt } } }

/-- A pair's modules send each other every record they write (R431). -/
def State.mirrorOut (s : State) (r : Rec) : State :=
  if s.twin.linkUp && 2 ≤ s.twin.state && s.twin.state ≤ 4 then s.put (.twin 8 r.body) else s

/-- Write a record: source path, code, payload, and the stamp of its cause (R82). A record that is not a catalogue
record may merge (R428); every new record advances its source's sequence (R426). -/
def State.recordAt (s : State) (src code : Nat) (payload : List Byte) (ts : TS) : State :=
  let payload := recPayload payload
  let cat := isCatalogue code
  let flags := b2n cat + 4 * b2n (!s.twin.own) + 8 * b2n (!s.time.valid)
  let merged := match newestOf s.log.recs src code with
    | some r => if merges r payload ts flags s.mram.powerups && r.index ≥ s.log.sinceClear then some r else none
    | none => none
  match merged with
  | some r =>
    let l := { s.log with lastTs := ts }
    let r' : Rec := { r with count := r.count + 1, last := ts % 2 ^ 32, version := (r.version + 1) % 256 }
    let s := { s with log := { l with recs := l.recs.map fun (q : Rec) =>
        if q.index = r.index ∧ q.src = src ∧ q.code = code then r' else q } }
    (s.bump P.LOG_MERGES 0).mirrorOut r'
  | none =>
    let seq := s.seqOf src
    let r : Rec := ⟨ts, ts % 2 ^ 32, seq, src, code, 1, flags, 0, payload, 0, s.mram.powerups⟩
    let l := { s.log with lastTs := ts }
    let s := { s with log := { l with seqs := assocPut l.seqs src ((seq + 1) % 2 ^ 32) } }
    let s := (s.logPlace r).mirrorOut r
    if cat && s.twin.own then s.catStage r else s

/-- The stamp of a record: the source's own reading, and at least 1 ns later than the command or record that causes it (R82). -/
def State.stamp (s : State) : TS :=
  match s.log.cause with
  | some c => max s.now (c + 1)
  | none => s.now

/-- A record of an event or of a command. -/
def State.record (s : State) (src code : Nat) (payload : List Byte) : State := s.recordAt src code payload s.stamp

/-- A record that the record written last causes. -/
def State.recordC (s : State) (src code : Nat) (payload : List Byte) : State :=
  s.recordAt src code payload (max s.stamp (s.log.lastTs + 1))

def State.setCause (s : State) (c : Option TS) : State := { s with log := { s.log with cause := c } }

/-- What a command accepted at c, or a record stamped c, causes (R82). -/
def State.causedBy (s : State) (c : TS) (f : State → State) : State :=
  let was := s.log.cause
  (f (s.setCause (some (max c (was.getD c))))).setCause was

/-- A summary entry, which goes to the catalogue only (R394, R397). -/
def State.summary (s : State) (src code : Nat) (payload : List Byte) (ts : TS) : State :=
  let seq := s.seqOf src
  let r : Rec := ⟨ts, ts % 2 ^ 32, seq, src, code, 1, 1 + 8 * b2n (!s.time.valid), 0, recPayload payload, 0, s.mram.powerups⟩
  let l := s.log
  let s := { s with log := { l with seqs := assocPut l.seqs src ((seq + 1) % 2 ^ 32) } }
  s.catStage r

/-! ## Returning loans (R341) -/

/-- Return a loan. When the last loan of a FREEING accession returns, the accession is released and STO_RELEASE gives
the wait (R341). -/
def State.returnLoan (s : State) (acc : Nat) : State :=
  match s.acc? acc with
  | none => s
  | some a =>
    let n := a.loans - 1
    if a.state = 3 ∧ n = 0 then
      let s := s.releaseAcc acc
      s.record (s.srcPath 4 3 0) 0x4006
        (le 4 acc ++ le 4 a.loansAtFree ++ le 4 ((s.now - a.freedAt) / 1000) ++ zeros 12)
    else s.updAcc acc fun a => { a with loans := n }

end Sys2Proof.Machine
end

