-- ==== Sys2Proof/Machine/Cmd.lean ====
section
/-!
DEFINITION. A command as its interpreter sees it, once its packet has been consumed (R44, R49), and the ways of
deciding it.
-/
namespace Sys2Proof.Machine

open Sys2Proof

/-- A consumed command at its interpreter: whose it is, its sequence, the model's count of consumed commands, opcode,
accepted TS64, flags, payload, and whether the twin forwarded it. -/
structure Ctx where
  sess : Nat
  stream : Nat
  seq : Nat
  ord : Nat
  op : Nat
  stamp : TS
  flags : Nat
  payload : List Byte
  twin : Bool
  deriving DecidableEq, Repr

def Ctx.k (c : Ctx) : Ticket := ⟨c.sess, c.stream, c.seq⟩

/-- Decide OK, effective now, with a reply payload. -/
def State.ok (s : State) (c : Ctx) (payload : List Byte := []) : State := s.decide c.k rOK s.now payload
/-- Decide OK_QUEUED (R44: no effective TS64). -/
def State.queued (s : State) (c : Ctx) (payload : List Byte := []) : State := s.decide c.k rQUEUED neverTS payload
/-- Reject: the effective TS64 is the instant of decision, and nothing else changes (R44). -/
def State.reject (s : State) (c : Ctx) (code : Nat) : State := s.decide c.k code s.now []

/-- Run a body when a check finds no reason to reject. -/
def State.unless (s : State) (c : Ctx) (why : Option Nat) (body : State → State) : State :=
  match why with
  | some code => s.reject c code
  | none => body s

/-- The first reason to reject among checks taken in order: (condition, result code). -/
def firstBad : List (Bool × Nat) → Option Nat
  | [] => none
  | (b, code) :: r => if b then some code else firstBad r

/-- A slot of a stream holds the command undecided. -/
def State.undecided (s : State) (k : Ticket) : Bool :=
  match ((s.session k.sess).stream k.stream).slot? k.seq with
  | some sl => sl.dec.isNone
  | none => false

end Sys2Proof.Machine
end

