-- ==== Sys2Proof/Machine/Docent.lean ====
section
/-!
DEFINITION. Docent (R465-R476): sources, pending state, the two targets, claims and completes.
-/
namespace Sys2Proof.Machine

open Sys2Proof

def State.updDoc (s : State) (f : DocSt → DocSt) : State := { s with doc := f s.doc }

/-- The configuration word of a source (R466): 3:0 priority, 5:4 sense, 6 target, 7 enable, 8 wake. -/
def State.docCfg (s : State) (id : Nat) : Nat := s.reg (P.DOC_SRC + id)
def State.docPrio (s : State) (id : Nat) : Nat := bits (s.docCfg id) 3 0
def State.docSense (s : State) (id : Nat) : Nat := bits (s.docCfg id) 5 4
def State.docOn (s : State) (id : Nat) : Bool := bit (s.docCfg id) 7

/-- Reserved source IDs (R465). -/
def docReserved (id : Nat) : Bool := id = 0 || (98 ≤ id && id ≤ 100) || (310 ≤ id && id ≤ 400) || id > 510

/-- The sense a source is fixed to, if it is (R465). -/
def docFixed (id : Nat) : Option Nat :=
  if 27 ≤ id ∧ id ≤ 97 then some 0
  else if (101 ≤ id ∧ id ≤ 148) ∨ (161 ≤ id ∧ id ≤ 288) ∨ (291 ≤ id ∧ id ≤ 309) then some 1
  else none

/-- Whether a source is pending (R466, R467). -/
def State.docPending (s : State) (id : Nat) : Bool :=
  s.docOn id && (if s.docSense id = 0 ∧ id < 401 then (assocGet s.doc.active id).isSome else (assocGet s.doc.pend id).isSome)

/-- In-service level of a stack: the priority of its top, or none (R468). -/
def State.docLevelOf (s : State) (stack : List Nat) : Option Nat := stack.head?.map s.docPrio

/-- Whether a source is eligible for the target that keeps a stack (R468). -/
def State.docEligible (s : State) (stack : List Nat) (id : Nat) : Bool :=
  s.docPending id && !stack.contains id &&
  (match s.docLevelOf stack with | some l => s.docPrio id > l | none => true)

/-- The winner among the eligible sources of a target: the highest priority, then the lowest ID (R468). Firmware sources
are the ones from 401 on. -/
def State.docWinner (s : State) (firmware : Bool) : Option Nat :=
  let stack := if firmware then s.doc.stackF else s.doc.stackH
  let ids := (s.doc.pend.map (·.1) ++ s.doc.active.map (·.1)).filter fun id =>
    (if firmware then id ≥ 401 else id < 401) && s.docEligible stack id
  ids.foldl (fun (best : Option Nat) id =>
    match best with
    | none => some id
    | some b => if s.docPrio id > s.docPrio b ∨ (s.docPrio id = s.docPrio b ∧ id < b) then some id else some b) none

/-- Note that a source of target H is eligible (R470). -/
def State.docNote (s : State) : State :=
  if (s.docWinner false).isSome then s.updDoc fun d => { d with seen := true } else s

/-- An edge of an enabled source (R467). -/
def State.docEdge (s : State) (id : Nat) : State :=
  if docReserved id ∨ !s.docOn id ∨ (s.docSense id = 0 ∧ id < 401) then s
  else
    let p : DocPend := match assocGet s.doc.pend id with
      | some p => { p with count := min 255 (p.count + 1) }
      | none => ⟨1, s.now⟩
    (s.updDoc fun d => { d with pend := assocPut d.pend id p }).docNote

/-- Whether an edge in a direction is one that a source's sense selects (R466). -/
def docSelects (sense : Nat) (rising : Bool) : Bool :=
  match sense with
  | 1 => rising
  | 2 => !rising
  | 3 => true
  | _ => rising

/-- The level of a source, after its pin's polarity: a change is an edge, and the active level is kept with the instant it
began (R466, R467). -/
def State.docLevel (s : State) (id : Nat) (level : Bool) : State :=
  let was := (assocGet s.doc.active id).isSome
  if was = level then s
  else
    let s := s.updDoc fun d =>
      { d with active := if level then assocPut d.active id s.now else assocDel d.active id }
    let s := if s.docSense id ≠ 0 && docSelects (s.docSense id) level then s.docEdge id else s
    s.docNote

/-- A source that is active while a train of edges lasts (the heartbeat): an edge of the train. -/
def State.docPulse (s : State) (id : Nat) : State :=
  let s := s.updDoc fun d => { d with active := if (assocGet d.active id).isSome then d.active else assocPut d.active id s.now }
  (if s.docSense id = 0 then s else s.docEdge id).docNote

/-- EVENT attention (R55, R469). -/
def State.docEvent (s : State) : Bool := !bit (s.rg P.DOC_DIS 0) 0 && (s.docWinner false).isSome

/-- Take a source's pending state away at a claim (R467). -/
def State.docTaken (s : State) (id : Nat) : State := s.updDoc fun d => { d with pend := assocDel d.pend id }

/-- Reply of a claim: ID, priority, flags, count, stamp (R477). -/
def docReply (id prio flags count : Nat) (ts : TS) : List Byte :=
  le 2 id ++ le 1 prio ++ le 1 flags ++ le 1 count ++ zeros 3 ++ le 8 ts

/-- R470: resolve a claim. -/
def State.docClaim (s : State) : List Byte × State :=
  let seen := s.doc.seen
  let clear (s : State) : State := (s.updDoc fun d => { d with seen := false }).docNote
  if bit (s.rg P.DOC_DIS 0) 0 then (docReply 0 0 0 0 0, clear s)
  else if s.doc.stackH.length ≥ 8 then (docReply 0 0 1 0 0, clear s)
  else match s.docWinner false with
  | none => (docReply (if seen then 0x1FF else 0) 0 0 0 0, clear s)
  | some id =>
    let prio := s.docPrio id
    let r := if s.docSense id = 0 then docReply id prio 2 0 ((assocGet s.doc.active id).getD 0)
      else match assocGet s.doc.pend id with
        | some p => docReply id prio 0 p.count p.since
        | none => docReply id prio 0 0 0
    (r, clear ((s.docTaken id).updDoc fun d => { d with stackH := id :: d.stackH }))

/-- R472: pop the H stack. -/
def State.docPop (s : State) : State :=
  (s.updDoc fun d => { d with stackH := d.stackH.drop 1, seen := false }).docNote

/-- R466: why a write of a source's configuration word is rejected. A source or a CAL entry of a port that a YQ-1260 lacks names none of
what R4 lists, and is written as on the YQ-2460 (log entry 109). -/
def docSrcBad (id v : Nat) : Option Nat :=
  if docReserved id then some rBADPARAM
  else if id ≥ 401 then some rBADSTATE
  else match docFixed id with
  | some f => if bits v 5 4 ≠ f then some rBADPARAM else none
  | none => none

/-- R466, R476: write a source's configuration word; bit 6 is read-only, a disabled source keeps no pending state, and one that senses a level no edges. -/
def State.docSrcWrite (s : State) (id v : Nat) : State :=
  let keep := bits (s.docCfg id) 6 6 * 64
  let v := v % 512 - bits v 6 6 * 64 + keep
  let s := s.setReg (P.DOC_SRC + id) v
  let s := if bit v 7 && bits v 5 4 ≠ 0 then s else s.docTaken id
  s.docNote

/-- The wake bit of a source, and its second view in WAKE_EN (R476). -/
def wakeSource (k : Nat) : Nat := if k = 20 then 26 else k + 1

def State.wakeEn (s : State) : Nat :=
  ((List.range 21).map fun k => b2n (bit (s.docCfg (wakeSource k)) 8) * 2 ^ k).sum

def State.setWakeEn (s : State) (v : Nat) : State :=
  forEach (List.range 21) (fun k s =>
    let id := wakeSource k
    let c := s.docCfg id
    s.setReg (P.DOC_SRC + id) (c % 256 + b2n (bit v k) * 256)) s

/-- MGT.DOC.SOFT (R465). -/
def State.docSoft (s : State) (v : Nat) : State :=
  forEach (List.range 16) (fun k s => if bit v k then s.docEdge (294 + k) else s) s

/-! ## The firmware target (R469, R474) -/

/-- The handler of the chosen source starts: it goes on the stack. -/
def State.docFwStart (s : State) (id : Nat) : State :=
  (s.docTaken id).updDoc fun d => { d with stackF := id :: d.stackF, fEntry := none, fExit := none }

/-- What an exit sequence has come to by now: from its seventh cycle (7.5 ns) on, an eligible source that is pending ends it and its handler
starts (tail-chaining); after 15 ns it is over. -/
def State.docFwExit (s : State) : State :=
  match s.doc.fExit with
  | none => s
  | some t =>
    if 2 * (s.now - t) < 15 then s
    else match (if s.doc.fDis then none else s.docWinner true) with
    | some id => s.docFwStart id
    | none => if s.now ≥ t + 15 then s.updDoc fun d => { d with fExit := none } else s

/-- What an entry sequence has come to by now: after 15 ns its handler has started; within its first six cycles (7.5 ns)
the vector follows the winner, or 0x1FF where none is left. -/
def State.docFwSequence (s : State) : State :=
  match s.doc.fEntry with
  | none => s.docFwExit
  | some (id, t) =>
    if s.now ≥ t + 15 then (if id = 0x1FF then s.updDoc fun d => { d with fEntry := none } else s.docFwStart id)
    else if 2 * (s.now - t) < 15 then
      s.updDoc fun d => { d with fEntry := some ((s.docWinner true).getD 0x1FF, t) }
    else s

/-- One action of the firmware at its target. -/
def State.docFw (s : State) (act : FwAct) : State :=
  let s := s.docFwSequence
  match act with
  | .configure id word =>
    if 401 ≤ id ∧ id ≤ 510 then
      let s := s.setReg (P.DOC_SRC + id) (word % 64 + 64 + bits word 7 7 * 128)
      (if bit word 7 then s else s.docTaken id).docFwSequence
    else s
  | .set id => if 401 ≤ id ∧ id ≤ 510 then (s.docEdge id).docFwSequence else s
  | .withdraw id => (s.docTaken id).docFwSequence
  | .disable on => s.updDoc fun d => { d with fDis := on }
  | .enter =>
    if s.doc.fDis ∨ s.doc.fEntry.isSome ∨ s.doc.fExit.isSome then s
    else match s.docWinner true with
    | some id => s.updDoc fun d => { d with fEntry := some (id, s.now) }
    | none => s
  | .exit =>
    -- the handler is done, and the exit sequence begins
    s.updDoc fun d => { d with stackF := d.stackF.drop 1, fExit := some s.now }

end Sys2Proof.Machine
end

