-- ==== Sys2Proof/Machine/Faults.lean ====
section
/-!
DEFINITION. Fault classes and their escalation (R17, R18, R420-R424, R507): what a handler decides, the records it
writes, and the classes in effect. The actions of a Stop and of a Fatal run in Settle.lean.
-/
namespace Sys2Proof.Machine

open Sys2Proof

def clsContained : Nat := 2
def clsDegraded : Nat := 3
def clsStop : Nat := 4
def clsFatal : Nat := 5

/-- Region, block and cell of a source path (R19). -/
def pathRegion (src : Nat) : Nat := bits src 14 12
def pathBlock (src : Nat) : Nat := bits src 11 8
def pathCell (src : Nat) : Nat := bits src 7 0

/-- Highest class among the faults in effect that a test picks. -/
def State.classOf (s : State) (p : Nat → Bool) : Nat :=
  ((s.faults.filter fun f => p f.src).map (·.cls)).foldl max 0

/-- Class in effect in a block and its cells, and in a region, its blocks and its cells (R36, R434). -/
def State.blockClass (s : State) (region block : Nat) : Nat :=
  s.classOf fun p => pathRegion p = region && pathBlock p = block
def State.regionClass (s : State) (region : Nat) : Nat := s.classOf fun p => pathRegion p = region

/-- The chip handler has decided Fatal (R422). -/
def State.fatal (s : State) : Bool := s.faults.any fun f => f.cls = clsFatal && pathRegion f.src = 7

/-- Class in effect anywhere on the chip (R434). -/
def State.chipClass (s : State) : Nat := if s.fatal then clsFatal else s.classOf fun _ => true

/-- FAULT_ESCALATE of a handler (R424, R435): level 2 block, 3 region, 4 chip. -/
def State.escalated (s : State) (handler cls level origin code seq raised : Nat) : State :=
  s.recordC handler 0x7001
    (le 1 cls ++ le 1 level ++ le 2 origin ++ le 2 code ++ zeros 2 ++ le 4 seq ++ le 1 raised)

/-- A class comes into effect at a source. -/
def State.faultOn (s : State) (src cls code seq : Nat) : State :=
  if s.faults.any fun f => f.src = src && f.cls = cls then
    { s with faults := s.faults.map fun f =>
        if f.src = src ∧ f.cls = cls then { f with present := true } else f }
  else { s with faults := s.faults ++ [⟨src, cls, code, seq, true⟩] }

/-- A class at a source ends. -/
def State.faultOff (s : State) (src cls : Nat) : State :=
  { s with faults := s.faults.filter fun f => !(f.src = src && f.cls = cls) }

/-- The escalations a block's handler has received (R36). -/
def State.bumpErr (s : State) (src : Nat) : State :=
  let pid := pathRegion src * 2 ^ 28 + 8 * 2 ^ 24 + pathBlock src * 2 ^ 16 + P.BLK_ERR_COUNT
  s.setReg pid (s.reg pid + 1)

/-- The chip handler decides Fatal (R422); raised: the class it was raised from, or 0. -/
def State.chipFatal (s : State) (origin code seq raised : Nat) : State :=
  let already := s.fatal
  let chip := s.srcPath 7 0xF 0xFF
  let s := s.escalated chip clsFatal 4 origin code seq raised
  if already then s
  else { s.faultOn chip clsFatal code seq with stops := s.stops ++ [7] }

/-- The module is ACTIVE with a settled SHADOW (R423). -/
def State.settledPair (s : State) : Bool := s.twin.state = 2 && s.twin.partner = 3 && !s.twin.lost

/-- A region's handler receives an escalation that no block of it contains (R421, R423, R507): Stop, raised to Fatal in an
ACTIVE with a settled SHADOW; the MGT region passes it to the chip. -/
def State.regionStop (s : State) (origin code seq : Nat) : State :=
  let region := pathRegion origin
  let handler := s.srcPath region 0xF 0xFF
  if region = 0 then
    (s.escalated handler clsFatal 3 origin code seq 0).chipFatal origin code seq 0
  else
    let already := s.classOf fun p => p = handler
    let s := s.escalated handler clsStop 3 origin code seq 0
    if already ≥ clsStop then s
    else
      let s := { s.faultOn handler clsStop code seq with stops := s.stops ++ [region] }
      if s.settledPair then s.chipFatal origin code seq clsStop else s

/-- A block's handler receives an error of one of its cells (R17, R424). A class above Degraded is passed up: the block's
record names Stop. `code` and `seq` are those of the origin's own record. -/
def State.blockEscalate (s : State) (origin code seq cls : Nat) : State :=
  let handler := s.srcPath (pathRegion origin) (pathBlock origin) 0xFF
  let s := s.bumpErr origin
  if cls ≤ clsDegraded then (s.escalated handler clsDegraded 2 origin code seq 0).faultOn origin clsDegraded code seq
  else (s.escalated handler clsStop 2 origin code seq 0).regionStop origin code seq

/-- A cell writes its record of an error and escalates it (R17). -/
def State.raiseFault (s : State) (src code : Nat) (payload : List Byte) (cls : Nat) : State :=
  let seq := s.seqOf src
  (s.record src code payload).blockEscalate src code seq cls

/-- A Degraded fault of a cell is cleared by a write to its FAULT (R229, R288, R420). -/
def State.clearDegraded (s : State) (src : Nat) : State :=
  if s.faults.any fun f => f.src = src && f.cls = clsDegraded then
    (s.faultOff src clsDegraded).record (s.srcPath (pathRegion src) (pathBlock src) 0xFF) 0x7002
      (le 1 (pathRegion src) ++ le 1 clsDegraded ++ le 2 src)
  else s

end Sys2Proof.Machine
end

