-- ==== Sys2Proof/Machine/Geometry.lean ====
section
/-!
DEFINITION. The geometry of the bed: sine and cosine, path durations, pieces of arc, and the interpolations of R109,
R110 in exact arithmetic. Plan coordinates are in 2^-40 nm; angles in µrad (log entry 20).
-/
namespace Sys2Proof.Machine

/-- Plan units in a nanometre. -/
def fine : Nat := 2 ^ 40

/-- 2 pi times 2^96, rounded down. -/
def twoPi96 : Nat := 497805226624462170461043889244

/-- Taylor sums of sine and cosine of x / 2^96: the n-th term, and the sums so far. -/
def trigGo : Nat → Nat → Int → Int → Int → Int → Int × Int
  | 0, _, _, _, sn, cs => (sn, cs)
  | fuel + 1, n, x, term, sn, cs =>
    -- term is x^n / n! in units of 2^-96
    let (sn, cs) := match n % 4 with
      | 0 => (sn, cs + term)
      | 1 => (sn + term, cs)
      | 2 => (sn, cs - term)
      | _ => (sn - term, cs)
    trigGo fuel (n + 1) x (term * x / ((2 ^ 96 : Nat) : Int) / ((n + 1 : Nat) : Int)) sn cs

/-- (sin, cos) of the angle n / d in µrad, times 2^96. -/
def sinCosRat (n : Int) (d : Nat) : Int × Int :=
  let x := (n * ((2 ^ 96 : Nat) : Int) / ((1000000 * d : Nat) : Int)) % (twoPi96 : Int)
  trigGo 72 0 x ((2 ^ 96 : Nat) : Int) 0 0

/-- (sin, cos) of an angle in µrad, times 2^96. -/
def sinCos (urad : Int) : Int × Int := sinCosRat urad 1

/-- The nearest integer to the square root of a / b. -/
def roundSqrtRat (a b : Nat) : Nat :=
  if b = 0 then 0
  else
    let r := isqrt (a / b)
    if (2 * r + 1) * (2 * r + 1) * b ≤ 4 * a then r + 1 else r

/-- Squared length of a vector. -/
def norm2 (dx dy : Int) : Nat := (dx * dx + dy * dy).natAbs

/-- R102: ns along a straight piece at a speed in µm/s. -/
def durLine (dx dy : Int) (v : Nat) : Nat := roundSqrtRat (norm2 dx dy * 10 ^ 12) (v * v * 2 ^ 80)

/-- A vector turned by the angle n / d in µrad, times 2^96. -/
def rotateRat (x y n : Int) (d : Nat) : Int × Int :=
  let (sn, cs) := sinCosRat n d
  (x * cs - y * sn, x * sn + y * cs)

/-- A vector turned by an angle in µrad. -/
def rotate (x y urad : Int) : Int × Int :=
  let r := rotateRat x y urad 1
  (roundDiv r.1 (2 ^ 96), roundDiv r.2 (2 ^ 96))

/-- A length in plan units, times 2^32, rounded down. -/
def lengthFix (dx dy : Int) : Nat := isqrt (norm2 dx dy * 2 ^ 64)

/-- ns along a path at a speed in µm/s, rounded to the nearest; its length in plan units, times 2^32 x 10^6. -/
def durLength (len v : Nat) : Nat := roundDivNat len (v * 2 ^ 72)

/-- A vector of a given length along (dx, dy), each part the nearest to its exact value; zero where it has no direction. -/
def along (dx dy : Int) (len : Int) : Int × Int :=
  let n := norm2 dx dy
  let part (d : Int) : Int := (d * len).sign * (roundSqrtRat ((d * len).natAbs ^ 2) n : Int)
  if n = 0 then (0, 0) else (part dx, part dy)

/-- R103: the corner wait DLY_POLY x (1 - cos a) / 2 between two tangents. -/
def cornerWait (dly : Nat) (ax ay bx by_ : Int) : Nat :=
  let n := isqrt (norm2 ax ay * norm2 bx by_ * 2 ^ 64)
  if n = 0 then 0
  else
    let dot := (ax * bx + ay * by_) * ((2 ^ 32 : Nat) : Int)
    (roundDiv ((dly : Int) * ((n : Int) - dot)) (2 * n)).toNat

/-- Whether turning counter-clockwise from v0 by `sweep` (0 to a full turn) passes the direction u. -/
def ccwCovers (v0x v0y ux uy v1x v1y : Int) : Bool :=
  let half (wx wy : Int) : Nat :=
    let c := v0x * wy - v0y * wx
    if c > 0 ∨ (c = 0 ∧ v0x * wx + v0y * wy > 0) then 0 else 1
  let hu := half ux uy
  let h1 := half v1x v1y
  if hu ≠ h1 then hu < h1 else ux * v1y - uy * v1x ≥ 0

/-- The extreme offsets from its centre that an arc reaches: axis directions it passes, and its two ends. The radius is taken up to
the next plan unit, which decides the comparison with a field edge as the exact one does. -/
def arcExtremes (rx ry sweep : Int) : List (Int × Int) :=
  let q := isqrt (norm2 rx ry)
  let r : Int := if q * q = norm2 rx ry then (q : Int) else (q : Int) + 1
  let (ex, ey) := rotate rx ry sweep
  let full := sweep.natAbs ≥ 6283185
  let (ax, ay, bx, by_) := if sweep ≥ 0 then (rx, ry, ex, ey) else (ex, ey, rx, ry)
  let dirs : List (Int × Int) := [(1, 0), (0, 1), (-1, 0), (0, -1)]
  (dirs.filter fun d => full || ccwCovers ax ay d.1 d.2 bx by_).map (fun d => (d.1 * r, d.2 * r)) ++
    [(rx, ry), (ex, ey)]

/-! ## Tables (R108-R111) -/

/-- R109: the four kernel weights (a = -1/2) at the fraction n / f of a pitch, as numerators over 2 f^3. -/
def cubicWeights (n f : Int) : List Int :=
  [ -n * n * n + 2 * n * n * f - n * f * f,
    3 * n * n * n - 5 * n * n * f + 2 * f * f * f,
    -3 * n * n * n + 4 * n * n * f + n * f * f,
    n * n * n - n * n * f ]

/-- A grid value whose index may lie one or two nodes beyond the grid, extrapolated linearly from the two nearest. -/
def extrap (get : Nat → Int) (last : Nat) (i : Int) : Int :=
  if i < 0 then get 0 + (get 0 - get 1) * (-i)
  else if i > (last : Int) then get last + (get last - get (last - 1)) * (i - last)
  else get i.toNat

/-- Sum of products of two lists. -/
def dot : List Int → List Int → Int
  | a :: as, b :: bs => a * b + dot as bs
  | _, _ => 0

/-- R109: the exact bicubic value at (u, v), which are positions times 64 over a side F, as numerator and denominator. -/
def bicubic (node : Nat → Nat → Int) (u v : Int) (f : Nat) : Int × Nat :=
  let cell (w : Int) : Int × Int :=
    let i := w / (f : Int)
    let i := if i > 63 then 63 else if i < 0 then 0 else i
    (i, w - i * f)
  let (i, nu) := cell u
  let (j, nv) := cell v
  let wx := cubicWeights nu f
  let wy := cubicWeights nv f
  let row (r : Nat) : Int :=
    dot wx ((List.range 4).map fun (k : Nat) => extrap (fun c => node r c) 64 (i - 1 + (k : Int)))
  let col (k : Nat) : Int := extrap row 64 (j - 1 + (k : Int))
  (dot wy ((List.range 4).map col), 4 * f ^ 6)

end Sys2Proof.Machine
end

