-- ==== Sys2Proof/Machine/Plan.lean ====
section
/-!
DEFINITION. The plan stage of a beam cell (R91, R92, R97-R107, R510): from vector records to pieces of path, gate
intervals, pause points and Warder segments, in path time. Path time is laid on the wall clock: path step p begins at
wall micro-step p, and a wait moves everything behind it later.
-/
namespace Sys2Proof.Machine

open Sys2Proof

/-- The delays and speeds a vector is planned with, read when it enters the plan stage. -/
structure Env where
  on : Int
  off : Int
  mark : Nat
  jump : Nat
  poly : Nat
  markSpd : Nat
  jumpSpd : Nat
  power : Nat
  skyIn : Nat
  skyOut : Nat

/-- The delays of beam n and the speeds of its profile set. -/
def State.envOf (s : State) (n set : Nat) : Env where
  on := s.rgI P.BEAM_DLY_ON n
  off := s.rgI P.BEAM_DLY_OFF n
  mark := s.rg P.BEAM_DLY_MARK n
  jump := s.rg P.BEAM_DLY_JUMP n
  poly := s.rg P.BEAM_DLY_POLY n
  markSpd := s.rg (P.BEAM_MARK_SPD + 16 * set) n
  jumpSpd := s.rg (P.BEAM_JUMP_SPD + 16 * set) n
  power := s.rg (P.BEAM_POWER + 16 * set) n
  skyIn := s.rg (P.BEAM_SKY_IN + 16 * set) n
  skyOut := s.rg (P.BEAM_SKY_OUT + 16 * set) n

/-! ## Pieces of path -/

/-- The point of a piece at time t, as numerators over a common denominator of plan units. -/
def Seg.pointAt (g : Seg) (t : Int) : Int × Int × Nat :=
  let t := clampInt g.a g.b t
  let d := (g.t1 - g.t0).toNat
  let k := t - g.t0
  if d = 0 then (g.x1, g.y1, 1)
  else
    match g.shape with
    | .hold => (g.x0, g.y0, 1)
    | .line => (g.x0 * d + (g.x1 - g.x0) * k, g.y0 * d + (g.y1 - g.y0) * k, d)
    | .accel => (g.x0 * (d * d) + (g.x1 - g.x0) * (k * k), g.y0 * (d * d) + (g.y1 - g.y0) * (k * k), d * d)
    | .decel =>
      let r := (d : Int) - k
      (g.x1 * (d * d) - (g.x1 - g.x0) * (r * r), g.y1 * (d * d) - (g.y1 - g.y0) * (r * r), d * d)
    | .arc cx cy sweep =>
      let (ox, oy) := rotateRat (g.x0 - cx) (g.y0 - cy) (sweep * k) d
      (cx * (2 ^ 96 : Nat) + ox, cy * (2 ^ 96 : Nat) + oy, 2 ^ 96)

/-- The point in nm, rounded once (R102). -/
def Seg.nmAt (g : Seg) (t : Int) : Int × Int :=
  let (x, y, d) := g.pointAt t
  (roundDiv x (d * fine), roundDiv y (d * fine))

/-- The point in plan units. -/
def Seg.fineAt (g : Seg) (t : Int) : Int × Int :=
  let (x, y, d) := g.pointAt t
  (roundDiv x d, roundDiv y d)

/-- The piece in force at time t: the last one that has begun. -/
def segAt (segs : List Seg) (t : Int) : Option Seg :=
  segs.foldl (fun acc g => if g.a ≤ t then some g else acc) none

/-- The bed point of path time t; between pieces the path stands at the end of the one before (R92). -/
def Beam.nmAt (b : Beam) (t : Int) : Int × Int :=
  match segAt b.segs t with
  | some g => g.nmAt t
  | none => (b.px, b.py)

def Beam.fineAt (b : Beam) (t : Int) : Int × Int :=
  match segAt b.segs t with
  | some g => g.fineAt t
  | none => (b.px * fine, b.py * fine)

/-- Add a piece that ends at (x1, y1) and lasts `dur`; the head stands at its end. -/
def Beam.addSeg (b : Beam) (shape : Shape) (x1 y1 : Int) (dur : Nat) (vid : Nat) : Beam :=
  let p := b.plan
  let t1 := p.tEnd + dur
  { b with
    segs := if dur = 0 then b.segs else b.segs ++ [⟨shape, p.tEnd, t1, p.tEnd, t1, p.hx, p.hy, x1, y1, vid⟩]
    plan := { p with tEnd := t1, hx := x1, hy := y1 } }

/-- Wait at the head's position. -/
def Beam.addWait (b : Beam) (ns vid : Nat) : Beam := b.addSeg .hold b.plan.hx b.plan.hy ns vid

/-- A straight move with the gate closed, at a speed in µm/s. -/
def Beam.addJump (b : Beam) (x y : Int) (v vid : Nat) : Beam :=
  b.addSeg .line x y (durLine (x - b.plan.hx) (y - b.plan.hy) v) vid

/-! ## Moving the plan later -/

/-- Put off every time of the plan at or after p by d. -/
def Beam.shiftFrom (b : Beam) (p d : Int) : Beam :=
  let m (t : Int) : Int := if t ≥ p then t + d else t
  -- the gate of a vector that moves goes with it, where it opens ahead of the vector too (R104)
  let moves (g : GateInt) : Bool := !g.opened && (g.t0 ≥ p || b.vecs.any fun v => v.vid = g.vid && v.t0 ≥ p)
  let cut (g : Seg) : List Seg :=
    if g.a ≥ p then [{ g with t0 := g.t0 + d, t1 := g.t1 + d, a := g.a + d, b := g.b + d }]
    else if g.b ≤ p then [g]
    else [{ g with b := p }, { g with t0 := g.t0 + d, t1 := g.t1 + d, a := p + d, b := g.b + d }]
  { b with
    segs := b.segs.flatMap cut
    gates := b.gates.map fun g => if moves g then { g with t0 := g.t0 + d, t1 := g.t1 + d } else g
    vecs := b.vecs.map fun v => { v with t0 := m v.t0, t1 := if v.t0 ≥ p then v.t1 + d else v.t1 }
    wsegs := b.wsegs.map fun w => if w.t0 ≥ p then { w with t0 := w.t0 + d, t1 := w.t1 + d } else w
    plan := { b.plan with
      tEnd := m b.plan.tEnd
      cands := b.plan.cands.map m
      starts := b.plan.starts.map m
      segStart := m b.plan.segStart
      rateT := m b.plan.rateT } }

/-- The path time of a beam after a step of the time base by d: its micro-steps are counted on (R24, R25). -/
def Beam.stepPath (b : Beam) (d : Int) : Beam :=
  let vec (v : VecInfo) : VecInfo := { v with t0 := v.t0 + d, t1 := v.t1 + d }
  let seg (g : Seg) : Seg := { g with t0 := g.t0 + d, t1 := g.t1 + d, a := g.a + d, b := g.b + d }
  let plan (p : PlanSt) : PlanSt :=
    { p with
      tEnd := p.tEnd + d, cands := p.cands.map (· + d), starts := p.starts.map (· + d), segStart := p.segStart + d
      rateT := p.rateT + d }
  let shut (h : Shut) : Shut :=
    { h with rampAt := h.rampAt + d, parkFrom := h.parkFrom + d, parkTo := h.parkTo + d, parkT := h.parkT.map (· + d) }
  { b with
    segs := b.segs.map seg
    gates := b.gates.map fun g => { g with t0 := g.t0 + d, t1 := g.t1 + d }
    vecs := b.vecs.map vec
    wsegs := b.wsegs.map fun w => { w with t0 := w.t0 + d, t1 := w.t1 + d }
    plan := plan b.plan
    readyPlan := b.readyPlan.map plan
    front := b.front + d
    committed := b.committed + d
    advFrom := b.advFrom + d
    ahead := b.ahead.map fun a => { a with t := a.t + d }
    hold := b.hold.map (· + d)
    intr := b.intr.map fun i => { i with t := i.t + d }
    resumed := b.resumed.map fun i => { i with t := i.t + d }
    ras := { b.ras with endAt := b.ras.endAt.map (· + d) }
    laser := { b.laser with stepAt := b.laser.stepAt + d, ranTo := b.laser.ranTo + d }
    shut := b.shut.map shut }

/-! ## Gate intervals (R104-R107) -/

/-- A gate interval of a raster line that is not composed yet: it is placed anew when it is (R139, R149). -/
def Beam.provisional (b : Beam) (g : GateInt) : Bool := b.vecs.any fun v => v.vid = g.vid && v.kind == .raster && !v.resolved

/-- Add a gate interval, merged with the one before where its opening edge does not come after that one's close. -/
def Beam.addGate (b : Beam) (t0 t1 : Int) (vid : Nat) (join : Bool) : Beam :=
  match b.gates.getLast? with
  | some g =>
    if (join || g.t1 ≥ t0) && !b.provisional g then { b with gates := b.gates.dropLast ++ [{ g with t1 := t1 }] }
    else { b with gates := b.gates ++ [⟨t0, t1, vid, false, false⟩] }
  | none => { b with gates := b.gates ++ [⟨t0, t1, vid, false, false⟩] }

/-! ## Pause points and segments (R92, R160) -/

/-- Warder grid cell of a bed point (nm): row * 1024 + column, or 2^20 for the outer cell (R161). -/
def warderCell (orgX orgY : Int) (side : Nat) (x y : Int) : Nat :=
  let c := (x - orgX) / (side : Int)
  let r := (y - orgY) / (side : Int)
  if 0 ≤ c ∧ c < 1024 ∧ 0 ≤ r ∧ r < 1024 then r.toNat * 1024 + c.toNat else 2 ^ 20

/-- Core cells of a stretch of path: the cells under its gate-open path at micro-step starts (R160, R161). -/
def Beam.coreOf (b : Beam) (orgX orgY : Int) (side : Nat) (t0 t1 : Int) : List Nat :=
  let gates := b.gates.filter fun g => g.t0 < t1 && t0 < g.t1
  let steps (g : GateInt) : List Int :=
    let a := max g.t0 t0
    let z := min g.t1 t1
    let first := (a + 255) / 256
    let n := ((z + 255) / 256 - first).toNat
    (List.range n).map fun (k : Nat) => (first + (k : Int)) * 256
  (gates.flatMap fun g => (steps g).map fun t =>
    let (x, y) := b.nmAt t
    warderCell orgX orgY side x y).eraseDups

/-- Where the Warder's grid lies: origin and cell side in nm. -/
structure WGrid where
  orgX : Int
  orgY : Int
  side : Nat

def State.wgrid (s : State) : WGrid :=
  ⟨s.rgI P.GAL_ORG_X 0, s.rgI P.GAL_ORG_Y 0, s.rg P.WRD_CELL 0 * 1000⟩

/-- Close the open segment at a pause point. -/
def Beam.pauseAt (b : Beam) (w : WGrid) (t : Int) : Beam :=
  let p := b.plan
  if t < p.segStart then b
  else
    let core := b.coreOf w.orgX w.orgY w.side p.segStart t
    let v := b.vecs.find? fun v => v.t1 > p.segStart
    { b with
      wsegs := b.wsegs ++
        [⟨b.wids, p.segStart, t, core, 0, 0, 0, 0, 0, false, (v.map (·.idx)).getD 0, (v.map (·.tag)).getD 0, false⟩]
      wids := b.wids + 1
      plan := { p with segStart := t } }

/-- R93: a vector that would begin at `start`, sooner than 1 µs after the one before, waits at the last pause point, if the path
has one to wait at; where it has none the wait is made up at the next. The wait is as long as the rate needs, to the ns. -/
def Beam.rateHold (b : Beam) (start : Int) (canWait : Bool) : Beam :=
  let d := if canWait then max 0 (b.plan.rateT - start) else 0
  let due := max b.plan.rateT start + 1000
  let b := if d > 0 then b.shiftFrom b.plan.segStart d else b
  { b with plan := { b.plan with rateT := due, rateWaits := b.plan.rateWaits + (if d > 0 then 1 else 0) } }

/-- No planned gate interval is open at path time t. -/
def Beam.shutAt (b : Beam) (t : Int) : Bool := b.gates.all fun g => !(g.t0 ≤ t && t < g.t1)

/-- The waits of R93 before the JUMPs planned since the last pause point, in their order, each at the last end before the jump that is
a pause point: one before the next opening edge, `lead` from the plan's end (none: no marking vector follows). Unless `all`, the jumps
that an opening edge yet to come may still touch are left. -/
def Beam.settleStarts (b : Beam) (w : WGrid) (lead : Option Int) (all : Bool) : Nat → Beam
  | 0 => b
  | fuel + 1 =>
    match b.plan.starts with
    | [] => b
    | st :: _ =>
      let sure (t : Int) : Bool := match lead with | some l => t < b.plan.tEnd + l | none => true
      if !all && !sure st then b
      else
        let here := b.plan.cands.filter fun l => l ≤ st && sure l && b.shutAt l
        let b := { b with plan := { b.plan with
          starts := b.plan.starts.drop 1, cands := b.plan.cands.filter fun l => l > st } }
        ((here.foldl (fun b t => b.pauseAt w t) b).rateHold st (!here.isEmpty)).settleStarts w lead all fuel

/-- The candidate pause points that hold against the next marking start, at the plan's end, and its opening edge, `lead` from there,
become pause points (R92). -/
def Beam.settlePauses (b : Beam) (w : WGrid) (lead : Int) : Beam :=
  let b := b.settleStarts w (some lead) true b.plan.starts.length
  let ok := b.plan.cands.filter fun l => l < b.plan.tEnd + lead && l ≤ b.plan.tEnd && b.shutAt l
  let b := ok.foldl (fun b t => b.pauseAt w t) b
  { b with plan := { b.plan with cands := [] } }

/-- The end of everything planned is a pause point: no marking vector follows (R92, R98). -/
def Beam.endChain (b : Beam) (w : WGrid) : Beam :=
  let b := b.settleStarts w none true b.plan.starts.length
  let b := b.plan.cands.foldl (fun b t => b.pauseAt w t) b
  let b := if b.plan.segStart < b.plan.tEnd then b.pauseAt w b.plan.tEnd else b
  { b with plan := { b.plan with cands := [], chainOpen := false } }

/-! ## Junctions (R103, R510) -/

/-- The vectors before which DLY_MARK comes ahead of an implicit jump. -/
def VKind.marksBefore : VKind → Bool
  | .mark | .arc | .poly | .dwell | .hatch | .raster => true
  | _ => false

def VKind.chains : VKind → Bool
  | .mark | .arc | .poly => true
  | _ => false

def VKind.skyEnd : VKind → Bool
  | .sky | .skyHatch => true
  | _ => false

/-- Go to the start (x, y) of the vector that follows, with the waits of R103 and the implicit jump of R510. The
vector's kind and start tangent decide; a direct chain keeps the gate open. From a raster line the way is its turnaround or
blanking (R140). -/
def Beam.junction (b : Beam) (e : Env) (next : VKind) (x y tx ty : Int) (vid : Nat) : Beam :=
  let p := b.plan
  let prev := p.prev
  let implicit := next == .hatch || next == .sky || next == .skyHatch || next == .raster ||
    ((prev.skyEnd || prev == .raster) && next != .jump)
  if implicit then
    let b := if prev.marksBefore then b.addWait e.mark vid else b
    (b.addJump x y e.jumpSpd vid).addWait e.jump vid
  else match next with
  | .jump => if prev.marksBefore then b.addWait e.mark vid else b
  | .dwell => if prev == .jump then b.addWait e.jump p.prevVid else b
  | _ =>
    if prev.chains && p.chainOpen then b.addWait (cornerWait e.poly p.tanX p.tanY tx ty) vid
    else if prev.chains || prev == .hatch then (b.addWait e.mark vid).addWait e.jump vid
    else if prev == .jump then b.addWait e.jump p.prevVid
    else b

/-- What planning needs beside the delays: Warder grid, command, tag, index and header of the record. -/
structure RecCtx where
  grid : WGrid
  ord : Nat
  tag : Nat
  idx : Nat
  set : Nat
  cl : Bool
  gff : Bool
  ramp : Bool
  power : Nat
  z : Int

/-- Note a vector in the plan, as it runs from t0 to the plan's end. -/
def Beam.addVec (b : Beam) (c : RecCtx) (kind : VKind) (line : Nat) (t0 : Int) (speed : Nat) (last : Bool)
    (row : Nat := 0) (edge : TS := 0) : Beam :=
  { b with
    vecs := b.vecs ++ [⟨b.vids, c.ord, c.tag, c.idx, line, kind, c.set, c.cl, c.gff, c.ramp, c.power, c.z, speed, t0,
      b.plan.tEnd, last, false, false, false, row, 0, edge⟩]
    vids := b.vids + 1 }

/-- A JUMP record (R98, R103). The wait of R93 before it is settled as soon as no opening edge to come can fall before the end at which
it is made; with DLY_ON below 0 that may take some vectors more. -/
def Beam.planJump (b : Beam) (e : Env) (c : RecCtx) (x y : Int) : Beam :=
  let vid := b.vids
  let b := b.junction e .jump x y 0 0 vid
  let t0 := b.plan.tEnd
  let b := b.addJump x y e.jumpSpd vid
  let b := b.addVec c .jump 0 t0 e.jumpSpd true
  let b : Beam := { b with plan := { b.plan with
      cx := x, cy := y, prev := .jump, prevVid := vid, chainOpen := false
      cands := b.plan.cands ++ [b.plan.tEnd], starts := b.plan.starts ++ [t0] } }
  b.settleStarts c.grid (some e.on) false b.plan.starts.length

/-- One leg of a marking vector. -/
inductive Leg where
  | line (x y : Int)
  | arc (cx cy sweep : Int)

/-- End point of a leg from (x0, y0), its tangents at its start and its end, and its length as durLength takes it. -/
def Leg.info (l : Leg) (x0 y0 : Int) : (Int × Int) × (Int × Int) × (Int × Int) × Nat :=
  match l with
  | .line x y => ((x, y), (x - x0, y - y0), (x - x0, y - y0), lengthFix (x - x0) (y - y0) * 1000000)
  | .arc cx cy sweep =>
    let (rx, ry) := (x0 - cx, y0 - cy)
    let (ex, ey) := rotate rx ry sweep
    let turn (a b : Int) : Int × Int := if sweep ≥ 0 then (-b, a) else (b, -a)
    ((cx + ex, cy + ey), turn rx ry, turn ex ey, lengthFix rx ry * sweep.natAbs)

def Leg.shape : Leg → Shape
  | .line _ _ => .line
  | .arc cx cy sweep => .arc cx cy sweep

/-- The legs of a vector one after another, with the corner waits of a POLY. The duration of the vector is rounded once, from the
length of all its legs, of which `len` lie behind (R102): a leg ends at the ns nearest to the point it has then reached. -/
def Beam.addLegs (b : Beam) (e : Env) (vid : Nat) : List Leg → Int × Int → Nat → Beam × (Int × Int)
  | [], tan, _ => (b, tan)
  | l :: ls, tan, len =>
    let ((x, y), st, en, own) := l.info b.plan.hx b.plan.hy
    let b := b.addWait (cornerWait e.poly tan.1 tan.2 st.1 st.2) vid
    let b := b.addSeg l.shape x y (durLength (len + own) e.markSpd - durLength len e.markSpd) vid
    b.addLegs e vid ls (if en.1 = 0 ∧ en.2 = 0 then tan else en) (len + own)

/-- Settle the pause points before a marking vector that starts at the plan's end and opens its gate `lead` later, and wait where R93
asks for it. -/
def Beam.beginMark (b : Beam) (c : RecCtx) (lead : Int) : Beam :=
  let before := b.wids
  let b := b.settlePauses c.grid lead
  b.rateHold b.plan.tEnd (before < b.wids)

/-- A MARK, ARC or POLY (R98, R102-R104). -/
def Beam.planMark (b : Beam) (e : Env) (c : RecCtx) (kind : VKind) (legs : List Leg) : Beam :=
  let vid := b.vids
  let chained := b.plan.prev.chains && b.plan.chainOpen
  let st := match legs with
    | l :: _ => (l.info b.plan.cx b.plan.cy).2.1
    | [] => (0, 0)
  let b := b.junction e kind b.plan.cx b.plan.cy st.1 st.2 vid
  -- the gate stays open into a directly chained vector: the end before it is no pause point (R92)
  let b := if chained then { b with plan := { b.plan with cands := [] } } else b
  let b := b.beginMark c e.on
  let t0 := b.plan.tEnd
  let (b, tan) := b.addLegs e vid legs (if chained then st else (0, 0)) 0
  let t1 := b.plan.tEnd
  let b := b.addGate (t0 + e.on) (t1 + e.off) vid chained
  let b := b.addVec c kind 0 t0 e.markSpd true
  { b with plan := { b.plan with
      cx := b.plan.hx, cy := b.plan.hy, prev := kind, prevVid := vid, tanX := tan.1, tanY := tan.2,
      chainOpen := true, cands := b.plan.cands ++ [max t1 (t1 + e.off)] } }

/-- A DWELL (R105). -/
def Beam.planDwell (b : Beam) (e : Env) (c : RecCtx) (ns : Nat) : Beam :=
  let vid := b.vids
  let b := b.junction e .dwell b.plan.cx b.plan.cy 0 0 vid
  let b := b.beginMark c 0
  let t0 := b.plan.tEnd
  let b := b.addWait ns vid
  let b := b.addGate t0 b.plan.tEnd vid false
  let b := b.addVec c .dwell 0 t0 0 true
  { b with plan := { b.plan with
      prev := .dwell, prevVid := vid, chainOpen := false, cands := b.plan.cands ++ [b.plan.tEnd] } }

/-- A skywritten line from (x0, y0) to (x1, y1): run-in, line, run-out (R106). -/
def Beam.planSky (b : Beam) (e : Env) (c : RecCtx) (kind : VKind) (x0 y0 x1 y1 : Int) (line : Nat) (last : Bool) : Beam :=
  if x0 = x1 ∧ y0 = y1 then b
  else
    let vid := b.vids
    let (dx, dy) := (x1 - x0, y1 - y0)
    let (ix, iy) := along dx dy ((e.skyIn * 1000 * fine : Nat) : Int)
    let (ox, oy) := along dx dy ((e.skyOut * 1000 * fine : Nat) : Int)
    let b := b.junction e kind (x0 - ix) (y0 - iy) dx dy vid
    let runIn := roundDivNat (2 * e.skyIn * 10 ^ 9) e.markSpd
    let b := b.beginMark c runIn
    let b := b.addSeg .accel x0 y0 runIn vid
    let t0 := b.plan.tEnd
    let b := b.addSeg .line x1 y1 (durLine dx dy e.markSpd) vid
    let t1 := b.plan.tEnd
    let b := b.addGate t0 t1 vid false
    let b := b.addVec c kind line t0 e.markSpd last
    let b := b.addSeg .decel (x1 + ox) (y1 + oy) (roundDivNat (2 * e.skyOut * 10 ^ 9) e.markSpd) vid
    { b with plan := { b.plan with
        cx := x1, cy := y1, prev := kind, prevVid := vid, chainOpen := false,
        cands := b.plan.cands ++ [b.plan.tEnd] } }

/-- One hatch line that is not skywritten (R101, R103, R104). -/
def Beam.planHatchLine (b : Beam) (e : Env) (c : RecCtx) (x0 y0 x1 y1 : Int) (line : Nat) (last : Bool) : Beam :=
  let vid := b.vids
  let b := b.junction e .hatch x0 y0 (x1 - x0) (y1 - y0) vid
  let b := b.beginMark c e.on
  let t0 := b.plan.tEnd
  let b := b.addSeg .line x1 y1 (durLine (x1 - x0) (y1 - y0) e.markSpd) vid
  let t1 := b.plan.tEnd
  let b := b.addGate (t0 + e.on) (t1 + e.off) vid false
  let b := b.addVec c .hatch line t0 e.markSpd last
  { b with plan := { b.plan with
      cx := x1, cy := y1, prev := .hatch, prevVid := vid, chainOpen := false,
      cands := b.plan.cands ++ [max t1 (t1 + e.off)] } }

/-! ## Records (R97-R101) -/

def nmF (v : Int) : Int := v * (fine : Int)

def recType (r : List Byte) : Nat := bits (u8 r 0) 3 0
def recSet (r : List Byte) : Nat := bits (u8 r 0) 7 4
def recFlags (r : List Byte) : Nat := u8 r 1
def recLen (r : List Byte) : Nat := u16 r 2 * 8
def recSky (r : List Byte) : Bool := bit (recFlags r) 3
def recBidir (r : List Byte) : Bool := bit (recFlags r) 4

/-- The length a record's type and count give it, or 0 for an undefined type. -/
def recTypeLen (r : List Byte) : Nat :=
  match recType r with
  | 0x1 => 16
  | 0x2 => 16
  | 0x3 => 24
  | 0x4 => 16 + 8 * u16 r 4
  | 0x5 => 16
  | 0x6 => 16
  | 0x7 => (32 + 4 * u16 r 20 + 7) / 8 * 8
  | 0xF => 8
  | _ => 0

/-- R99: whether a record, whole in its bytes, is malformed. -/
def recBad (r : List Byte) : Bool :=
  let t := recType r
  recTypeLen r = 0 || recLen r ≠ recTypeLen r || recLen r > 16384 || r.length < recLen r ||
  bits (recFlags r) 7 5 ≠ 0 ||
  ((recSky r || recBidir r) && t ≠ 0x7) ||
  (t = 0x4 && (u16 r 4 = 0 || u16 r 4 > 2046)) ||
  (t = 0x6 && (u32 r 4 = 0 || u32 r 4 > 1000000000)) ||
  (t = 0x7 && (u32 r 12 > 6283185 || u32 r 16 = 0 || u32 r 16 > 10000000 || u16 r 20 > 4088 || u16 r 22 = 0))

/-- The lines of a HATCH in plan units, with their numbers; lines of length 0 are passed over (R101). -/
def hatchLines (r : List Byte) : List (Nat × (Int × Int) × (Int × Int)) :=
  let (sn, cs) := sinCos (u32 r 12)
  let d := 2 ^ 96 / fine
  let sp := (u32 r 16 : Int)
  let unit := (u16 r 22 : Int)
  let at_ (i : Nat) (k : Int) : Int × Int :=
    let n := (i : Int) * sp
    (nmF (i32 r 4) + roundDiv (k * cs - n * sn) d, nmF (i32 r 8) + roundDiv (k * sn + n * cs) d)
  let lines := (List.range (u16 r 20)).filter fun i => u16 r (32 + 4 * i + 2) ≠ 0
  lines.map fun i =>
    let off := i16 r (32 + 4 * i) * unit
    let len := (u16 r (32 + 4 * i + 2) : Int) * unit
    let a := at_ i off
    let z := at_ i (off + len)
    if recBidir r && i % 2 == 1 then (i, z, a) else (i, a, z)

/-- The points of a POLY. -/
def polyPoints (r : List Byte) : List (Int × Int) :=
  (List.range (u16 r 4)).map fun i => (nmF (i32 r (16 + 8 * i)), nmF (i32 r (20 + 8 * i)))

/-- The extreme points of a record's geometry from the current point, for a JUMP from the head's position (R98), run-ins and
run-outs included, and its end. -/
def recExtent (r : List Byte) (e : Env) (cx cy hx hy : Int) : List (Int × Int) × (Int × Int) :=
  let skyPts (x0 y0 x1 y1 : Int) : List (Int × Int) :=
    let (dx, dy) := (x1 - x0, y1 - y0)
    let (ix, iy) := along dx dy ((e.skyIn * 1000 * fine : Nat) : Int)
    let (ox, oy) := along dx dy ((e.skyOut * 1000 * fine : Nat) : Int)
    [(x0 - ix, y0 - iy), (x0, y0), (x1, y1), (x1 + ox, y1 + oy)]
  let p := (nmF (i32 r 4), nmF (i32 r 8))
  match recType r with
  | 0x3 =>
    let (rx, ry) := (cx - p.1, cy - p.2)
    let sweep := i32 r 12
    let (ex, ey) := rotate rx ry sweep
    ((arcExtremes rx ry sweep).map (fun q => (p.1 + q.1, p.2 + q.2)), (p.1 + ex, p.2 + ey))
  | 0x4 => ((cx, cy) :: polyPoints r, (polyPoints r).getLastD (cx, cy))
  | 0x5 => (skyPts cx cy p.1 p.2, p)
  | 0x6 => ([(cx, cy)], (cx, cy))
  | 0x7 =>
    let ls := hatchLines r
    (ls.flatMap (fun l => if recSky r then skyPts l.2.1.1 l.2.1.2 l.2.2.1 l.2.2.2 else [l.2.1, l.2.2]),
     ((ls.getLast?.map (fun l => l.2.2)).getD (cx, cy)))
  | 0x1 => ([(hx, hy), p], p)
  | _ => ([(cx, cy), p], p)

/-- Whether a point lies in the closed field square (R108), all in plan units. -/
def inField (fx fy side : Int) (q : Int × Int) : Bool :=
  (2 * (q.1 - fx)).natAbs ≤ side.toNat && (2 * (q.2 - fy)).natAbs ≤ side.toNat

/-- The power field of a record and its Z field, at the offset its type gives. -/
def recPowerZ (r : List Byte) : Nat × Int :=
  match recType r with
  | 0x2 => (u16 r 12, i16 r 14)
  | 0x3 => (u16 r 16, i16 r 18)
  | 0x4 => (u16 r 6, i16 r 8)
  | 0x5 => (u16 r 12, i16 r 14)
  | 0x6 => (u16 r 8, i16 r 10)
  | 0x7 => (u16 r 24, i16 r 26)
  | _ => (0, 0)

/-- What the plan stage finds of a well-formed record: its skip cause (1 outside field, 2 zero radius, 3 zero count), or
none (R100). -/
def recSkip (r : List Byte) (e : Env) (cx cy hx hy fx fy side : Int) : Option Nat :=
  if recType r = 0x3 && nmF (i32 r 4) = cx && nmF (i32 r 8) = cy then some 2
  else if recType r = 0x7 && u16 r 20 = 0 then some 3
  else if recType r ≠ 0xF && (recExtent r e cx cy hx hy).1.any (fun q => !inField fx fy side q) then some 1
  else none

/-- Plan a well-formed record that is not skipped. -/
def Beam.planRec (b : Beam) (e : Env) (c : RecCtx) (r : List Byte) : Beam :=
  let p := (nmF (i32 r 4), nmF (i32 r 8))
  match recType r with
  | 0x1 => b.planJump e c p.1 p.2
  | 0x2 => b.planMark e c .mark [.line p.1 p.2]
  | 0x3 => if i32 r 12 = 0 then b.planMark e c .mark [.line b.plan.cx b.plan.cy]
           else b.planMark e c .arc [.arc p.1 p.2 (i32 r 12)]
  | 0x4 => b.planMark e c .poly ((polyPoints r).map fun q => .line q.1 q.2)
  | 0x5 => b.planSky e c .sky b.plan.cx b.plan.cy p.1 p.2 0 true
  | 0x6 => b.planDwell e c (u32 r 4)
  | 0x7 =>
    let ls := hatchLines r
    let n := ls.length
    ((List.range n).zip ls).foldl (fun b (i, l, s, z) =>
      if recSky r then b.planSky e c .skyHatch s.1 s.2 z.1 z.2 l (i + 1 == n)
      else b.planHatchLine e c s.1 s.2 z.1 z.2 l (i + 1 == n)) b
  | _ => b

/-- A skipped record: the current point becomes its end where the field allows it (R100). Where no jump is made, it does not end a
direct chain, nor does a SKY that is passed over (R106): neither places anything in the path (log entry 74). -/
def Beam.planSkip (b : Beam) (e : Env) (c : RecCtx) (r : List Byte) (fx fy side : Int) : Beam :=
  let z := (recExtent r e b.plan.cx b.plan.cy b.plan.hx b.plan.hy).2
  if inField fx fy side z then
    if z.1 = b.plan.hx ∧ z.2 = b.plan.hy then { b with plan := { b.plan with cx := z.1, cy := z.2 } }
    else b.planJump e { c with ord := 0 } z.1 z.2
  else { b with plan := { b.plan with cx := b.plan.hx, cy := b.plan.hy } }

end Sys2Proof.Machine
end

