-- ==== Sys2Proof/Machine/Beam.lean ====
section
/-!
DEFINITION. Beam cells: states and transitions (R125-R129), tables and head setpoints (R108-R112), power (R113-R116),
interruption and resume (R130, R131), cancellation (R132).
-/
namespace Sys2Proof.Machine

open Sys2Proof

def State.beam (s : State) (n : Nat) : Beam := s.beams.getD n beamReset
def State.updBeam (s : State) (n : Nat) (f : Beam → Beam) : State := { s with beams := s.beams.modify n f }

/-- Source path of a beam cell (R2, R21). -/
def State.beamSrc (s : State) (n : Nat) : Nat := s.srcPath 1 (n / 4) (n % 4)

/-- The XY2-100 port assigned to a beam (R244). -/
def State.xy2Of (s : State) (n : Nat) : Option Nat := (List.range 4).find? fun q => s.rg P.XY2_BEAM q = n

/-- Tag of the command in effect. -/
def Beam.tag (b : Beam) : Nat :=
  match b.cmds.find? (·.begun) with
  | some c => c.tag
  | none => b.tagNow

/-- Change a beam's state, with its BEAM_STATE record (R126). -/
def State.beamTo (s : State) (n dest cause : Nat) : State :=
  let b := s.beam n
  let s := s.updBeam n fun b => { b with st := dest }
  (s.record (s.beamSrc n) 0x100B (le 1 b.st ++ le 1 dest ++ le 1 cause ++ zeros 1 ++ le 4 b.tag)).docEdge (101 + n)

/-! ## Tables (R108-R112, R240) -/

def fcLen : Nat := 16 + 50700

/-- Why a field-correction accession fails its check: 1 R340, 2 pool or format, 3 header field or length (R112). -/
def State.fcCheck (s : State) (acc : Nat) : Option Nat :=
  if (s.loanCheck acc).isSome then some 1
  else if accPool acc ≠ 5 ∨ s.memNat acc 0 2 ≠ 0x0041 then some 2
  else
    let side := s.memNat acc 12 4
    if side < 1000000 ∨ side > 2000000000 ∨ ((s.acc? acc).map (·.size)).getD 0 < fcLen then some 3 else none

/-- The same of a height map (R110). -/
def State.hmCheck (s : State) (acc : Nat) : Option Nat :=
  if (s.loanCheck acc).isSome then some 1
  else if accPool acc ≠ 5 ∨ s.memNat acc 0 2 ≠ 0x0048 then some 2
  else
    let pitch := s.memNat acc 12 4
    let nx := s.memNat acc 16 2
    let ny := s.memNat acc 18 2
    if pitch < 100000 ∨ pitch > 10000000 ∨ nx < 2 ∨ nx > 2048 ∨ ny < 2 ∨ ny > 2048 ∨
      ((s.acc? acc).map (·.size)).getD 0 < 24 + 2 * nx * ny then some 3 else none

/-- Centre and side of a field-correction table, nm. -/
def State.fieldOf (s : State) (acc : Nat) : Int × Int × Nat :=
  (toSigned 32 (s.memNat acc 4 4), toSigned 32 (s.memNat acc 8 4), s.memNat acc 12 4)

/-- A node value of a field-correction table: channel 0 X mirror, 1 Y mirror, 2 focus. -/
def State.fcNode (s : State) (acc chan row col : Nat) : Int :=
  toSigned 32 (s.memNat acc (16 + (row * 65 + col) * 12 + 4 * chan) 4)

/-- R109: the exact table value of a channel at a bed point (nm). -/
def State.fcValue (s : State) (acc chan : Nat) (x y : Int) : Int × Nat :=
  let (cx, cy, f) := s.fieldOf acc
  if f = 0 then (0, 1)
  else bicubic (s.fcNode acc chan) ((2 * (x - cx) + f) * 32) ((2 * (y - cy) + f) * 32) f

/-- R110: the exact height at a bed point, in µm. -/
def State.heightAt (s : State) (acc : Nat) (x y : Int) : Int × Nat :=
  if acc = noAcc then (0, 1)
  else
    let ox := toSigned 32 (s.memNat acc 4 4)
    let oy := toSigned 32 (s.memNat acc 8 4)
    let p := s.memNat acc 12 4
    let nx := s.memNat acc 16 2
    let ny := s.memNat acc 18 2
    if p = 0 then (0, 1)
    else
      let u := clampInt 0 (((nx - 1) * p : Nat) : Int) (x - ox)
      let v := clampInt 0 (((ny - 1) * p : Nat) : Int) (y - oy)
      let i := min (u.toNat / p) (nx - 2)
      let j := min (v.toNat / p) (ny - 2)
      let a := u - (i * p : Nat)
      let c := v - (j * p : Nat)
      let h (j i : Nat) : Int := toSigned 16 (s.memNat acc (24 + 2 * (j * nx + i)) 2)
      let top := h j i * ((p : Int) - a) + h j (i + 1) * a
      let bot := h (j + 1) i * ((p : Int) - a) + h (j + 1) (i + 1) * a
      (top * ((p : Int) - c) + bot * c, p * p * 10)

/-- R109-R111: head setpoints of a bed point: X mirror, Y mirror, focus, for a focus offset of z µm. -/
def State.mapPoint (s : State) (n : Nat) (x y z : Int) : Int × Int × Int :=
  let b := s.beam n
  let (mx, dx) := s.fcValue b.fcAcc 0 x y
  let (my, dy) := s.fcValue b.fcAcc 1 x y
  let (tf, df) := s.fcValue b.fcAcc 2 x y
  let (h, dh) := s.heightAt b.hmAcc x y
  let k := fNum (s.rg P.BEAM_FOCUS_K n)
  -- table focus + K (z + h), K = k / fDen
  let num := tf * ((dh * fDen : Nat) : Int) + k * (z * dh + h) * df
  (roundDiv mx dx, roundDiv my dy, roundDiv num (df * dh * fDen))

/-- R240: the park point clamped into the field, nm. -/
def State.parkPoint (s : State) (n : Nat) : Int × Int :=
  let (cx, cy, f) := s.fieldOf (s.beam n).fcAcc
  let half := ((f / 2 : Nat) : Int)
  (clampInt (cx - half) (cx + half) (s.rgI P.HP_PARK_X n), clampInt (cy - half) (cy + half) (s.rgI P.HP_PARK_Y n))

/-- A setpoint in head units, clamped with a count (R211). -/
def State.clampSet (s : State) (n : Nat) (v : Int) : Int × State :=
  if v > 8388607 then (8388607, s.bump P.HP_CLAMP n)
  else if v < -8388608 then (-8388608, s.bump P.HP_CLAMP n)
  else (v, s)

/-- R211, R240: store the park values in head units when a table is latched. A head that has never had a table stands at its
park point from then on (log entry 32). -/
def State.storePark (s : State) (n : Nat) : State :=
  let (x, y) := s.parkPoint n
  let (mx, my, _) := s.mapPoint n x y 0
  let (mx, s) := s.clampSet n mx
  let (my, s) := s.clampSet n my
  let z := toSigned 24 (s.rg P.HP_PARK_Z n)
  let s := ((s.setRgI P.HP_PARK_HU n mx).setRgI (P.HP_PARK_HU + 1) n my).setRgI (P.HP_PARK_HU + 2) n z
  let first := !((s.heads.getD n headReset).latched)
  if first then
    let s := { s with heads := s.heads.modify n fun h =>
      { h with latched := true, setPrev := [mx, my, z], setNow := [mx, my, z], setNext := [mx, my, z] } }
    s.updBeam n fun b => { b with px := x, py := y, plan := { b.plan with cx := nmF x, cy := nmF y, hx := nmF x, hy := nmF y } }
  else s

/-- TABLE_REFUSED (R112): parameter 1 FC_ACC, 2 HM_ACC. -/
def State.tableRefused (s : State) (n par cause acc kept : Nat) : State :=
  s.record (s.beamSrc n) 0x100F (le 1 par ++ le 1 cause ++ zeros 2 ++ le 4 acc ++ le 4 kept)

/-! ## Loans of a command (R96, R142) -/

/-- Accessions an exposure command holds on loan. -/
def ExpCmd.loans (c : ExpCmd) : List Nat :=
  match c.kind with
  | .list acc _ _ => [acc]
  | .rasPush d => u32 d 0 :: (if u32 d 4 = noAcc then [] else [u32 d 4])
  | _ => []

def State.returnLoans (s : State) (accs : List Nat) : State := accs.foldl State.returnLoan s

/-! ## Holds and leases (R165, R166) -/

/-- A hold of the laser timeline ends: the longest one is kept in WRD_HOLD_MAX. -/
def State.endHold (s : State) (n : Nat) : State :=
  let b := s.beam n
  let s := if b.holdNow then s.setRg P.BEAM_WRD_HOLD_MAX n (max (s.rg P.BEAM_WRD_HOLD_MAX n) ((s.now - b.holdAt) / 1000)) else s
  s.updBeam n fun b => { b with hold := none, holdNow := false }

/-- Segments of a beam are cancelled or interrupted at t: their future cores end at once. Halo and plume of a segment whose
gate has opened stay from its last gate-close, which is t where the gate is open; those of the others end at once. -/
def State.releaseSegs (s : State) (n : Nat) (t : TS) (which : Nat → Bool) : State :=
  let tex := s.rg P.WRD_T_EX 0 * 1000
  let tpl := s.rg P.WRD_T_PLUME 0 * 1000
  { s with gal := { s.gal with
    zones := s.gal.zones.map fun (z : Zone) =>
      if z.beam = n ∧ z.future ∧ which z.id then
        match (if z.gateOn then some (t : Int) else z.lastClose) with
        | some c => { z with future := false, gateOn := false, haloUntil := some (c.toNat + tex), plumeUntil := some (c.toNat + tpl) }
        | none => { z with future := false, haloUntil := some t, plumeUntil := some t }
      else z } }

/-- All of them, with the hold they may stand in. -/
def State.releaseLeases (s : State) (n : Nat) (t : TS) : State :=
  ((s.releaseSegs n t fun _ => true).endHold n).updBeam n fun b => { b with wsegs := [] }

/-- The gate of beam n opens at t: the zone of its segment notes it. -/
def State.zoneOpens (s : State) (n : Nat) (t : Int) : State :=
  match (s.beam n).wsegs.find? fun w => w.status = 3 && w.t0 ≤ t && t < w.t1 with
  | none => s
  | some w => { s with gal := { s.gal with
      zones := s.gal.zones.map fun (z : Zone) => if z.beam = n ∧ z.id = w.id then { z with gateOn := true } else z } }

/-- The gate of beam n closes at t. -/
def State.zoneCloses (s : State) (n : Nat) (t : Int) : State :=
  { s with gal := { s.gal with
    zones := s.gal.zones.map fun (z : Zone) =>
      if z.beam = n ∧ z.gateOn then { z with gateOn := false, lastClose := some t } else z } }

/-! ## Causes of interruption (R130) -/

/-- The module executes dry: it is the SHADOW of a pair (R203, R401). -/
def State.dry (s : State) : Bool := s.twin.state = 3

/-- Whether a Degraded or higher class is in effect for beam n: at its beam, laser port or head port cell, or at an axis loop bound to it (R130
cause 6, R201). -/
def State.beamDegraded (s : State) (n : Nat) : Bool :=
  s.faults.any fun f => f.cls ≥ 3 && f.cls < 4 &&
    (f.src = s.srcPath 1 (n / 4) (n % 4) || f.src = s.srcPath 1 (n / 4) (0x10 + n % 4) ||
     f.src = s.srcPath 1 (n / 4) (0x20 + n % 4) ||
     -- an axis loop's fault is the beam block's (R201)
     ((List.range s.cns.slots.length).zip s.cns.slots).any (fun c => c.2.kind = 1 && c.2.a = n && f.src = s.srcPath 1 7 c.1) ||
     (List.range 4).any fun q => s.rg P.XY2_BEAM q = n && f.src = s.srcPath 1 8 q)

/-- READY_IN and ALARM_IN in their active sense, as last sampled (R120). -/
def State.readyActive (s : State) (n : Nat) : Bool := (s.beam n).laser.readyS != bit (s.rg P.LSR_IN_POL n) 0
def State.alarmActive (s : State) (n : Nat) : Bool := (s.beam n).laser.alarmS != bit (s.rg P.LSR_IN_POL n) 1

/-- The first cause of R130 present for beam n, or 0. -/
def State.intCause (s : State) (n : Nat) : Nat :=
  if !(s.power.laserEnA && s.power.laserEnB) then 1
  else if s.power.safety then 2
  else if s.power.state ≠ 4 then 3
  else if s.rg P.LSR_READY_REQ n = 1 && !s.readyActive n then 4
  else if s.rg P.LSR_ALARM_ACT n = 0 && s.alarmActive n then 5
  else if s.beamDegraded n then 6
  else if !s.twin.own && !s.dry then 7
  else 0

/-! ## The laser timeline -/

/-- The vector whose power applies at path time t: the last marking vector begun, else the gate interval's own. -/
def Beam.vecAt (b : Beam) (g : GateInt) (t : Int) : Option VecInfo :=
  let cand := b.vecs.filter fun v => v.kind != .jump && v.vid ≥ g.vid && v.t0 ≤ t
  match cand.getLast? with
  | some v => some v
  | none => b.vecs.find? fun v => v.vid = g.vid

/-- R113: 16 bits of power as a 24-bit fraction. -/
def power24 (v : Nat) : Nat := v * 256 + v / 256

/-- The gate interval in force at or after t. -/
def Beam.gateAt (b : Beam) (t : Int) : Option GateInt := b.gates.find? fun g => g.t0 ≤ t && t < g.t1

/-- R113: the composed power of a step of a vector, from its base power before the flags (24 bits), the power at the end
of the vector before, its first and last step, the Gallery factor, and the correction, an exact sum rounded once, to the nearest
(log entry 105). -/
def composePower (base prev : Nat) (ramp gff cl : Bool) (k m : Nat) (g : Nat) (corr : Int) (pmax : Nat) : Nat :=
  -- base after the ramp, as a numerator over m
  let num : Int := if ramp then (prev : Int) * m + ((base : Int) - prev) * (k + 1) else (base : Int) * m
  let (num, den) := if gff then (num * fNum g, m * fDen) else (num, m)
  let (num, den) := if cl then (num * 10 + corr * (den : Int), den * 10) else (num, den)
  (clampInt 0 (power24 pmax : Nat) (roundDiv num den)).toNat

/-- R113: ten times the correction of micro-step j of a frame, between c_prev and c_k, as a 24-bit fraction. -/
def corrAt (cPrev cNow : Int) (j : Nat) : Int := cPrev * 10 + (cNow - cPrev) * (j + 1)

/-- Put out an output that a module without TWIN_OWN keeps high-impedance (R121). -/
def State.putOwn (s : State) (o : Output) : State := if s.twin.own then s.put o else s

/-- A new level of MOD at t. -/
def State.modTo (s : State) (n : Nat) (t : Int) (level : Bool) : State :=
  if (s.beam n).laser.modOut = level then s
  else (s.putOwn (.modEdge n t.toNat level)).updBeam n fun b => { b with laser := { b.laser with modOut := level } }

/-- Close the gate now, whatever the timeline says. Setpoint and MOD follow at the next micro-step (R122). -/
def State.forceGateLow (s : State) (n : Nat) : State :=
  let b := s.beam n
  let s := if b.laser.gate && s.twin.own then s.put (.gateEdge n s.now false) else s
  let s := s.zoneCloses n s.now
  s.updBeam n fun b =>
    { b with
      gates := b.gates.map fun g => if g.opened then { g with closed := true } else g
      laser := { b.laser with gate := false, openFrame := false, nextPulse := none } }

/-! ## Cancelling (R129, R132) -/

/-- Bytes of a command's list. -/
def State.cmdBytes (s : State) (c : ExpCmd) (off n : Nat) : List Byte :=
  match c.kind with
  | .list acc o _ => s.memBytes acc (o + off) n
  | .inline d => field d off n
  | _ => []

def ExpCmd.len (c : ExpCmd) : Nat :=
  match c.kind with
  | .list _ _ l => l
  | .inline d => d.length
  | _ => 0

/-- Vectors of a record: each hatch line of non-zero length singly (R101, R133). -/
def recVectors (r : List Byte) : Nat := if recType r = 0x7 then (hatchLines r).length else 1

/-- Records and vectors of a list that has not been fetched yet. -/
def countRecs (get : Nat → Nat → List Byte) (len : Nat) : Nat → Nat → Nat × Nat
  | 0, _ => (0, 0)
  | fuel + 1, off =>
    if off + 8 > len then (0, 0)
    else
      let l := recLen (get off 8)
      if l = 0 ∨ off + l > len then (1, 1)
      else if recType (get off 8) = 0xF then (0, 0)
      else
        let r := countRecs get len fuel (off + l)
        (1 + r.1, recVectors (get off l) + r.2)

/-- Records and vectors of a command that are not exposed when it is cancelled now: planned and not done, in the ring, unfetched. An
END record counts in neither, and nothing behind it counts. -/
def State.cmdRemainder (s : State) (n : Nat) (c : ExpCmd) : Nat × Nat :=
  let b := s.beam n
  let vecs := b.vecs.filter fun v => v.ord = c.ord && !v.done
  let ring := b.ring.filter fun r => r.ord = c.ord
  let live := ring.takeWhile fun r => recType r.data ≠ 0xF
  let rest := if c.planned || live.length < ring.length then (0, 0) else countRecs (s.cmdBytes c) c.len (c.len / 8 + 1) c.fetched
  ((vecs.map (·.idx)).eraseDups.length + live.length + rest.1,
   vecs.length + (live.map fun r => recVectors r.data).sum + rest.2)

/-- R107: gate intervals shorter than GATE_MIN are not placed: each is counted, and recorded with its width, 0 where the closing edge
would come first (log entry 111). -/
def State.omitGates (s : State) (n : Nat) (short : List GateInt) : State :=
  let s := s.updBeam n fun b => { b with gates := b.gates.filter fun g => !short.contains g }
  short.foldl (fun s g =>
    let tag := match (s.beam n).vecs.find? fun v => v.vid = g.vid with | some v => v.tag | none => (s.beam n).tag
    (s.bump P.BEAM_GATE_SHORT n).record (s.beamSrc n) 0x1009 (le 4 tag ++ le 4 (g.t1 - g.t0).toNat)) s

/-- A gate interval that GATE_MIN forbids. -/
def State.gateShort (s : State) (n : Nat) (g : GateInt) : Bool := !g.opened && g.t1 - g.t0 < (s.rg P.BEAM_GATE_MIN n : Int)

/-- R107: gate intervals that can no longer grow are omitted where they are shorter than GATE_MIN. Those of a raster line are judged
when the line is composed. -/
def State.omitShort (s : State) (n : Nat) (final : Bool) : State :=
  let b := s.beam n
  let raster (g : GateInt) : Bool := b.vecs.any fun v => v.vid = g.vid && v.kind == .raster
  let fixed := if final then b.gates else b.gates.dropLast
  s.omitGates n (fixed.filter fun g => s.gateShort n g && !raster g)

/-- The pieces of a vector's path of one shape. -/
def Beam.parts (b : Beam) (v : VecInfo) (sh : Shape) : List Seg := b.segs.filter fun g => g.vid = v.vid && g.shape == sh

/-- The instant at which a vector's path, its run-out included, and its gate have ended (R92). -/
def Beam.lineOff (b : Beam) (v : VecInfo) : Int :=
  let off := (b.gates.filter fun g => v.kind != .jump && g.vid ≤ v.vid && v.t0 < g.t1).foldl (fun m g => max m g.t1) v.t1
  (b.parts v .decel).foldl (fun m g => max m g.b) off

/-- Where the vectors of a planned path end for R92: the instant at which path and gate of each have ended, its run-out included, if the
gate is closed there, and the next opening edge and the next marking start, its run-in included, come later. -/
def Beam.lineEnds (b : Beam) : List Int :=
  let start (u : VecInfo) : Int := (b.parts u .accel).foldl (fun m g => min m g.a) u.t0
  b.vecs.filterMap fun v =>
    let l := b.lineOff v
    let free (u : VecInfo) : Bool := u.vid ≤ v.vid || u.kind == .jump || l ≤ start u
    if b.shutAt l && (b.gates.all fun g => g.vid ≤ v.vid || l < g.t0) && b.vecs.all free then some l else none

/-- A vector is complete at t on the laser timeline: its path end is past, and the gate has closed unless a later vector keeps it
open. -/
def Beam.vecOver (b : Beam) (v : VecInfo) (t : Int) : Bool :=
  v.t1 ≤ t && ((b.gateAt t).isNone || b.vecs.any fun u => u.vid > v.vid && u.t0 ≤ t && u.kind != .jump)

/-- Path vectors that the laser timeline has completed at t, and that are not counted yet. -/
def Beam.vecPast (b : Beam) (v : VecInfo) (t : Int) : Bool := !v.done && b.vecOver v t

def Beam.updCmd (b : Beam) (ord : Nat) (f : ExpCmd → ExpCmd) : Beam :=
  { b with cmds := b.cmds.map fun c => if c.ord = ord then f c else c }

/-- Key of a row in the line buffer. -/
def bufKey (ord row : Nat) : Nat := ord * 65536 + row

/-- Count the vectors completed at t (R133). -/
def State.finishVecs (s : State) (n : Nat) (t : Int) : State :=
  let b := s.beam n
  let past := b.vecs.filter fun v => b.vecPast v t
  let s := s.bumpBy P.BEAM_VEC_DONE n (past.filter fun v => v.ord ≠ 0).length
  past.foldl (fun s v =>
    s.updBeam n fun b =>
      let b := if v.lastOfRec then b.updCmd v.ord fun c => { c with exposed := c.exposed + 1 } else b
      let b := if v.kind == .raster then
          { b with ras := { b.ras with
            exposed := b.ras.exposed + 1
            endAt := some (b.lineOff v)
            cache := b.ras.cache.filter fun c => c.1 ≠ v.vid
            bufRows := b.ras.bufRows.filter fun k => k ≠ bufKey v.ord v.row } }
        else b
      { b with vecs := b.vecs.map fun u => if u.vid = v.vid then { u with done := true } else u }) s

/-- Every record of a command has been planned and none of its vectors is left. -/
def Beam.cmdDone (b : Beam) (c : ExpCmd) : Bool :=
  c.begun && c.planned && !(b.vecs.any fun v => v.ord = c.ord && !v.done) && !(b.ring.any fun r => r.ord = c.ord)

/-- LIST_END of a command (R129, R133). -/
def State.listEnd (s : State) (n : Nat) (c : ExpCmd) : State :=
  s.record (s.beamSrc n) 0x1002
    (le 4 c.tag ++ le 4 c.exposed ++ le 4 c.cancelled ++ le 4 c.skipped ++ le 1 c.cause)

/-- The path interval of a vector, its waits included. -/
def Beam.vecSpan (b : Beam) (v : VecInfo) : Int × Int :=
  let gs := b.segs.filter (·.vid = v.vid)
  (gs.foldl (fun m g => min m g.a) v.t0, gs.foldl (fun m g => max m g.b) v.t1)

/-- The tick at which the setpoints up to path time t were committed (R91). -/
def commitTick (adv : Nat) (t : Int) : Int := (t - 2560 - ((adv * 256 : Nat) : Int) + 2559) / 2560 * 2560

/-- VEC_CANCEL of one vector (R132), if any of its path steps has been committed to the head. -/
def State.vecCancel (s : State) (n : Nat) (v : VecInfo) (cause : Nat) : State :=
  let b := s.beam n
  let (a, z) := b.vecSpan v
  let first := (a + 255) / 256
  let last := min (b.committed / 256) ((z - 1) / 256)
  if last < first then s
  else
    s.record (s.beamSrc n) 0x1004
      (le 4 v.tag ++ le 4 v.idx ++ le 4 (last - first + 1).toNat ++ le 8 (commitTick (s.rg P.BEAM_ADV n) (last * 256)).toNat ++
        le 1 (b2n v.gateOpened) ++ le 1 cause)

/-- The plan stands at `com`, with nothing planned beyond it (R132). -/
def Beam.cutPlan (b : Beam) (com : Int) : Beam :=
  let (x, y) := b.fineAt com
  { b with
    segs := (b.segs.filter fun g => g.a < com).map fun g => { g with b := min g.b com }
    ahead := b.ahead.filter fun a => a.t ≤ com
    wsegs := []
    plan := { b.plan with
      hx := x, hy := y, cx := x, cy := y, tEnd := com, prev := .none, chainOpen := false, cands := [], starts := [],
      segStart := com } }

/-- The path planned for an ARMED beam is dropped: nothing of it has been seen by the head. Its commands stand as they were fetched. -/
def Beam.unplan (b : Beam) : Beam :=
  match b.readyPlan with
  | none => b
  | some p => { b with
      plan := p
      readyPlan := none
      segs := b.segs.filter (·.a < p.tEnd)
      gates := []
      vecs := b.vecs.filter (·.done)
      wsegs := []
      ring := []
      cmds := b.cmds.map fun c => { c with fetched := 0, recNo := 0, planned := false } }

/-- A cancellation at path time c of the vectors that `gone` picks, the last ones of the path (R132). No gate of theirs opens from c
on, and one that is open closes at c; committed path runs out; those the head has seen are recorded; their leases return. -/
def State.cancelPath (s : State) (n : Nat) (c : Int) (cause : Nat) (gone : VecInfo → Bool) : State :=
  let b := s.beam n
  let cut := b.vecs.filter fun v => !v.done && gone v
  let stay := b.vecs.filter fun v => !v.done && !gone v
  let s := (cut.filter (·.ord ≠ 0)).foldl (fun s v => s.vecCancel n v cause) s
  -- an interrupted path stands at the last committed point already
  let com := if b.st = 5 then b.committed else max b.committed c
  let com := match stay, cut with
    | _ :: _, v :: _ => max com (b.vecSpan v).1
    | _, _ => com
  -- a gate is that of every vector it stays open into (R104)
  let of (l : List VecInfo) (g : GateInt) : Bool :=
    l.any fun v => v.vid = g.vid || (v.kind != .jump && v.vid > g.vid && v.t0 < g.t1)
  -- a chain that runs on into a cancelled vector ends with the last one that stays
  let stop := match (stay.filter fun v => v.kind != .jump).getLast? with
    | some v => if v.kind.chains || v.kind == .hatch then v.t1 + s.rgI P.BEAM_DLY_OFF n else v.t1
    | none => c
  let keep := if stay.isEmpty then [] else b.wsegs.filter fun w => w.t0 < com
  let s := if keep.isEmpty then s.releaseLeases n c.toNat else s.releaseSegs n c.toNat fun id => !keep.any (·.id = id)
  let from_ := min b.plan.segStart com
  let s := s.updBeam n fun b =>
    let b := b.cutPlan com
    { b with
      wsegs := keep.map fun w => { w with t1 := min w.t1 com }
      plan := { b.plan with segStart := if keep.isEmpty then com else from_ }
      gates := (b.gates.filter fun g => g.opened || g.t0 < c || !of cut g).map fun g =>
        if of stay g then (if cut.isEmpty then g else { g with t1 := min g.t1 stop })
        else { g with t1 := min g.t1 c }
      vecs := b.vecs.filter fun v => v.done || stay.contains v
      resumed := if stay.isEmpty then none else b.resumed }
  -- an interval that the cancellation leaves too short is not placed
  s.omitGates n ((s.beam n).gates.filter fun g => s.gateShort n g && !b.gates.contains g)

/-- End commands of a cell as cancelled: their path from c on goes, every record of theirs not done counts as cancelled, every vector
not done in VEC_CANCEL; loans return, and LIST_END with cause 3 is written. `which` picks the commands. -/
def State.cancelCmds (s : State) (n : Nat) (c : Int) (cause : Nat) (which : ExpCmd → Bool) : State :=
  let ahead := (s.beam n).readyPlan.isSome
  let s := s.updBeam n Beam.unplan
  -- what has completed by c is not cancelled
  let s := if (s.beam n).st = 3 ∨ (s.beam n).st = 4 then s.finishVecs n c else s
  let cs := (s.beam n).cmds.filter which
  let left := cs.map fun x => s.cmdRemainder n x
  let all : Bool := !cs.isEmpty && cs.length = (s.beam n).cmds.length
  let s := s.bumpBy P.BEAM_VEC_CANCEL n (left.map (·.2)).sum
  let st := (s.beam n).st
  let hit (v : VecInfo) : Bool := all || st = 5 || cs.any fun x => x.ord = v.ord
  let cuts : Bool := st = 5 || ((st = 3 || st = 4) && (all || (s.beam n).vecs.any fun v => !v.done && hit v))
  let s := if cuts then s.cancelPath n c cause hit else s
  let s := (cs.zip left).foldl (fun s (x, rest) =>
    -- what was skipped while it was planned for an ARMED beam is not cancelled
    let counted := if ahead then x.skipped + x.exposed else 0
    let x := ((s.beam n).cmds.find? fun y => y.ord = x.ord).getD x
    let cause := if (s.beam n).cmdDone x then x.cause else 3
    let s := s.listEnd n { x with cancelled := x.cancelled + (rest.1 - counted), cause := cause }
    s.returnLoans x.loans) s
  s.updBeam n fun b =>
    { b with
      cmds := b.cmds.filter fun x => !which x
      ring := b.ring.filter fun r => !(cs.any fun x => x.ord = r.ord) }

/-- The next micro-step boundary after now. -/
def State.nextStep (s : State) : Int := ((s.now / 256 + 1) * 256 : Nat)

/-- Where new path can begin: the interpolation front, or the end of what is planned if that lies later. -/
def State.pathFront (s : State) (n : Nat) : Int :=
  max (s.beam n).plan.tEnd (((s.now / 256 * 256 + (s.rg P.BEAM_ADV n + 20) * 256 : Nat)) : Int)

/-- Begin the move to park (R128): a jump at the JUMP_SPD of profile set 0, then DLY_JUMP. -/
def State.goPark (s : State) (n : Nat) : State :=
  let e := s.envOf n 0
  let (x, y) := s.parkPoint n
  let front := s.pathFront n
  s.updBeam n fun b =>
    let b := { b with plan := { b.plan with tEnd := front, segStart := front } }
    let b := b.addJump (nmF x) (nmF y) e.jumpSpd 0
    let jumped := b.plan.tEnd
    let b := b.addWait e.jump 0
    let p := b.plan
    { b with
      plan := { p with cx := nmF x, cy := nmF y, prev := .none, segStart := p.tEnd }
      shut := b.shut.map fun h => { h with closed := true, parkFrom := front, parkTo := jumped, parkT := some p.tEnd } }

/-- A shutdown begins at path time c (R128): STOPPING, at once for an ARMED beam or a PAUSE at a pause point; a NOW ramps first. What
of the exposure commands is cancelled has been. -/
def State.beginShut (s : State) (n mode cause : Nat) (c : Int) : State :=
  let ramp := if mode = 2 ∧ (s.beam n).st = 3 then s.rg P.BEAM_DIS_RAMP n else 0
  let s := s.beamTo n 4 cause
  let s := s.updBeam n fun b =>
    let b := b.unplan
    { b with
      intr := none
      ras := { b.ras with edges := [] }
      shut := some ⟨mode, cause, c.toNat, c, ramp, false, 0, 0, none⟩ }
  if ramp > 0 then s else s.goPark n

/-- Whether a cell with this queue still holds exposure work sent before a control command (R128). -/
def Beam.workBefore (b : Beam) (ord : Nat) : Bool := b.cmds.any fun c => c.ord < ord

/-- The pause points of the path that are known: the ends of its segments (R92, R160). -/
def Beam.pauses (b : Beam) : List Int :=
  b.plan.segStart :: b.wsegs.flatMap fun w => [w.t0, w.t1]

/-- The laser timeline stands: it is held, or at the end of all that is planned (R92, R166). -/
def Beam.stands (b : Beam) (t : Int) : Bool :=
  b.st ≠ 3 || b.holdNow || (b.segs.all (fun g => g.b ≤ t) && (b.gateAt t).isNone)

/-- The first pause point that the laser timeline reaches in the micro-step that begins at t; t itself where it stands (R92). -/
def Beam.pauseIn (b : Beam) (t : Int) : Option Int :=
  if b.stands t then some t
  else (b.pauses.filter fun p => t ≤ p && p < t + 256).foldl (fun m p => match m with | some q => some (min p q) | none => some p) none

/-- The pause point at which the interpolation front stands, or which it passes with its next step: what the head is sent beyond it
is mapped with what takes effect now (R91, R112). The head of a beam that is not in RUN or STOPPING stands, an interrupted one's at a
pause point or inside a line. -/
def Beam.frontPause (b : Beam) : Option Int :=
  if b.st = 5 ∧ b.intr.any (fun i => !i.still) then none
  else if b.st ≠ 3 ∧ b.st ≠ 4 then some b.front
  else if b.plan.tEnd ≤ b.front then some b.plan.tEnd
  else if b.st = 4 then none
  else b.pauses.find? fun p => b.front < p && p ≤ b.front + 256

/-- The path time that the laser timeline has reached: within the micro-step under way. -/
def State.laserNow (s : State) (n : Nat) : Int := (s.beam n).laser.stepAt + ((min 256 (s.now - s.micro) : Nat) : Int)

/-! ## Interruption and resume (R130, R131) -/

/-- The distance back along a vector's own pieces from time t: the time of the point `d` plan units before t, no earlier
than its start. -/
def backAlong (segs : List Seg) (vid : Nat) (t0 t : Int) (d : Nat) : Int :=
  let gs := (segs.filter fun g => g.vid = vid && g.a < t && g.b > t0 && g.shape != .hold).reverse
  (gs.foldl (fun (acc : Int × Nat) g =>
    let left := acc.2
    if left = 0 then acc
    else
      let hi := min g.b t
      let lo := max g.a t0
      let len := match g.shape with
        | .arc cx cy sw => isqrt (norm2 (g.x0 - cx) (g.y0 - cy)) * sw.natAbs / 1000000
        | _ => isqrt (norm2 (g.x1 - g.x0) (g.y1 - g.y0))
      let dur := (g.t1 - g.t0).toNat
      let part := if dur = 0 then 0 else len * (hi - lo).toNat / dur
      if part ≤ left then (lo, left - part)
      else (hi - ((left * dur / (max len 1) : Nat) : Int), 0)) (t, d)).1

/-- The interruption of a beam at t (R130, R131): in the first vector that is not complete. Where its gate is open or has been, the
point at which it was forced low; on the way back from an earlier interruption, with the gate not open again, that one's. With no
vector left, the point reached. -/
def Beam.intrAt (b : Beam) (t : Int) (cause : Nat) : Intr × Option VecInfo :=
  let com := max b.committed t
  let (lx, ly) := b.fineAt com
  let still := b.frontPause.isSome && b.segs.all fun g => g.shape == .hold || g.b ≤ com || g.a ≥ b.front
  match b.vecs.find? fun v => !v.done && !b.vecPast v t with
  | none =>
    let (x, y) := b.nmAt t
    (⟨0, t, x, y, cause, false, 0, lx, ly, still⟩, none)
  | some v =>
    let again := b.gates.any fun g => g.opened && g.vid ≤ v.vid && v.t0 < g.t1
    match b.resumed.filter fun r => r.vid = v.vid && !again with
    | some r => ({ r with cause := cause, lx := lx, ly := ly, still := still }, some v)
    | none =>
      let at_ := if v.gateOpened then t else v.t0
      let (x, y) := b.nmAt at_
      (⟨v.vid, at_, x, y, cause, v.gateOpened, v.openNs, lx, ly, still⟩, some v)

/-- VEC_INTERRUPT (R133). -/
def State.vecInterrupt (s : State) (n : Nat) (i : Intr) (v : Option VecInfo) : State :=
  s.record (s.beamSrc n) 0x1005
    (le 4 ((v.map (·.tag)).getD (s.beam n).tag) ++ le 4 ((v.map (·.idx)).getD 0) ++ le 2 ((v.map (·.line)).getD 0) ++
      le 1 i.cause ++ le 1 (b2n i.part) ++ le 4 (ofSigned 32 i.x) ++ le 4 (ofSigned 32 i.y))

/-- Interrupt a beam in RUN (R130): gate low now, path stopped at the last committed point, leases released, queue kept. -/
def State.interrupt (s : State) (n cause : Nat) : State :=
  let b := s.beam n
  if b.st ≠ 3 then s
  else
    let t : Int := s.now
    let (i, v) := b.intrAt t cause
    let s := s.releaseLeases n s.now
    let s := s.forceGateLow n
    let s := s.setRg P.BEAM_INT_CAUSE n cause
    let s := s.vecInterrupt n i v
    let s := s.updBeam n fun b =>
      { b with
        intr := some i
        resumed := none
        ahead := b.ahead.filter fun a => a.t ≤ max b.committed t }
    s.beamTo n 5 cause

/-- VEC_RESUME (R133). One that a takeover makes carries REMELT, and its cause 7 in the byte behind that flag (R415, log entry 81). -/
def State.vecResume (s : State) (n : Nat) (i : Intr) (v : Option VecInfo) (x y : Int) (back : Nat) (take : Bool) : State :=
  s.record (s.beamSrc n) 0x1006
    (le 4 ((v.map (·.tag)).getD (s.beam n).tag) ++ le 4 ((v.map (·.idx)).getD 0) ++ le 2 ((v.map (·.line)).getD 0) ++
      le 1 (b2n (i.part || take)) ++ le 1 (if take then 7 else 0) ++ le 4 (ofSigned 32 x) ++ le 4 (ofSigned 32 y) ++ le 2 back)

/-- The path with which an interrupted beam goes on in vector v (R131): a jump from the last committed point to the resume point at
path time tRes of the old plan, or to the start of a new run-in that ends there, DLY_JUMP, and the rest of the plan from there. The
new path begins at `front`, behind the pieces `keep` that still run out. -/
def Beam.resumeIn (b : Beam) (e : Env) (w : WGrid) (i : Intr) (v : VecInfo) (tRes front : Int) (keep : List Seg) : Beam :=
  let (rx, ry) := b.fineAt tRes
  let sky := v.kind.skyEnd
  -- what is left of the old plan, cut at the resume point
  let rest := (b.segs.filter fun g => g.b > tRes).map fun g => { g with a := max g.a tRes }
  let restGates := (b.gates.filter fun g => g.t1 > tRes).map fun g =>
    if g.t0 ≤ tRes then { g with t0 := (if sky ∨ v.kind == .dwell then tRes else tRes + e.on), opened := false, closed := false }
    else { g with opened := false, closed := false }
  -- the way back
  let b1 := { b with segs := [], gates := [], plan := { b.plan with tEnd := front, hx := i.lx, hy := i.ly } }
  let dirv := match segAt b.segs tRes with | some g => (g.x1 - g.x0, g.y1 - g.y0) | none => (0, 0)
  let (ix, iy) := if sky then along dirv.1 dirv.2 ((e.skyIn * 1000 * fine : Nat) : Int) else (0, 0)
  let b1 := (b1.addJump (rx - ix) (ry - iy) e.jumpSpd v.vid).addWait e.jump v.vid
  let b1 := if sky then b1.addSeg .accel rx ry (roundDivNat (2 * e.skyIn * 10 ^ 9) e.markSpd) v.vid else b1
  let d := b1.plan.tEnd - tRes
  let tail := b.plan
  let b : Beam :=
    { b with
      segs := keep ++ b1.segs ++ rest.map fun (g : Seg) => { g with t0 := g.t0 + d, t1 := g.t1 + d, a := g.a + d, b := g.b + d }
      gates := restGates.map fun (g : GateInt) => { g with t0 := g.t0 + d, t1 := g.t1 + d }
      vecs := (b.vecs.filter fun u => !u.done).map fun (u : VecInfo) => { u with t0 := u.t0 + d, t1 := u.t1 + d }
      plan := { tail with
        tEnd := tail.tEnd + d, cands := tail.cands.map (· + d), starts := tail.starts.map (· + d), rateT := tail.rateT + d
        segStart := front }
      intr := none
      resumed := some { i with t := i.t + d }
      front := front }
  -- the pause points of the rest; those that are not settled yet stay so
  let ends := b.lineEnds.filter fun z => !b.plan.cands.contains z
  let b := ends.foldl (fun b z => b.pauseAt w z) b
  if b.plan.cands.isEmpty then b.pauseAt w b.plan.tEnd else b

/-- The same with no vector left: a jump back to the point at which the path was stopped, and DLY_JUMP. -/
def Beam.resumeBare (b : Beam) (e : Env) (w : WGrid) (i : Intr) (front : Int) (keep : List Seg) : Beam :=
  let b := { b with plan := { b.plan with tEnd := front, segStart := front, hx := i.lx, hy := i.ly } }
  let b := (b.addJump (nmF i.x) (nmF i.y) e.jumpSpd 0).addWait e.jump 0
  let b : Beam := { b with segs := keep ++ b.segs.filter fun g => g.a ≥ front }
  { b with intr := none, gates := [], vecs := [], plan := { b.plan with prev := .none, chainOpen := false, cands := [], starts := [] } }.pauseAt w b.plan.tEnd

/-- Resume an interrupted beam (R131). A DWELL exposes what its gate has not been open for; any other vector goes on RESUME_BACK before
the interruption point, no earlier than its start. -/
def State.resumeAt (s : State) (n : Nat) (front : Int) (keep : List Seg) (take : Bool) : State :=
  let b := s.beam n
  match b.intr with
  | none => s.beamTo n 3 0
  | some i =>
    let back := s.rg P.BEAM_RESUME_BACK n
    let s := match b.vecs.find? fun v => v.vid = i.vid && !v.done with
      | none => (s.updBeam n fun b => b.resumeBare (s.envOf n 0) s.wgrid i front keep).vecResume n i none i.x i.y back take
      | some v =>
        let tRes := if v.kind == .dwell then min v.t1 (v.t0 + v.openNs)
          else if i.part then backAlong b.segs v.vid v.t0 (min i.t v.t1) (back * 1000 * fine) else v.t0
        let (rx, ry) := b.fineAt tRes
        let s := s.updBeam n fun b => b.resumeIn (s.envOf n v.set) s.wgrid i v tRes front keep
        (s.vecResume n i (some v) (roundDiv rx fine) (roundDiv ry fine) back take).omitShort n (s.beam n).plan.cands.isEmpty
    if (s.beam n).st = 3 then s else s.beamTo n 3 0

/-- BEAM_ENABLE with RESUME: the path goes on at the interpolation front. -/
def State.resumeBeam (s : State) (n : Nat) : State :=
  s.resumeAt n (s.nextStep + (((s.rg P.BEAM_ADV n + 20) * 256 : Nat) : Int)) [] false

end Sys2Proof.Machine
end

