-- ==== Sys2Proof/Machine/Exp.lean ====
section
/-!
DEFINITION. The correctly rounded binary32 exp and ln of R154 and R183: exact rational bounds, one rounding.
-/
namespace Sys2Proof.Machine

/-- Scale of the fixed-point sums. -/
def expScale : Nat := 2 ^ 160

/-- ln 2 times 2^160, rounded down. -/
def ln2Fix : Nat := 1013035739299659071135698605846798551586536899366

/-- Sum of x^k / k! at scale 2^160, for 0 <= x < ln 2. -/
def expSeries : Nat → Nat → Int → Int → Int → Int
  | 0, _, _, _, acc => acc
  | fuel + 1, k, x, term, acc =>
    expSeries fuel (k + 1) x (term * x / (expScale : Int) / ((k + 1 : Nat) : Int)) (acc + term)

/-- e^(n/d) as a binary32 pattern, correctly rounded: the argument is reduced by multiples of ln 2. -/
def expRat (n : Int) (d : Nat) : Nat :=
  if d = 0 then 0
  else
    let x := n * (expScale : Int) / (d : Int)
    let k := x / (ln2Fix : Int)
    if k > 200 then fInf false
    else if k < -200 then 0
    else
      let r := x - k * (ln2Fix : Int)
      let m := (expSeries 48 0 r (expScale : Int) 0).toNat
      if k ≥ 0 then fOfPos false (m * 2 ^ k.toNat) expScale else fOfPos false m (expScale * 2 ^ (-k).toNat)

/-- exp of a binary32 value. -/
def fExpE (v : Nat) : Nat :=
  if fIsNaN v then fNaN
  else if !fFinite v then (if fSign v then 0 else v)
  else expRat (fNum v) fDen

/-- Sum of the series of atanh at scale 2^160: y + y^3/3 + ... -/
def atanhSeries : Nat → Nat → Int → Int → Int → Int
  | 0, _, _, _, acc => acc
  | fuel + 1, k, y2, term, acc =>
    atanhSeries fuel (k + 2) y2 (term * y2 / (expScale : Int)) (acc + term / (k : Int))

/-- ln (n/d) times 2^160 for positive n, d. -/
def lnFix (n d : Nat) : Int :=
  let e : Int := (bitLen n : Int) - (bitLen d : Int)
  let (a, b) := if e ≥ 0 then (n, d * 2 ^ e.toNat) else (n * 2 ^ (-e).toNat, d)
  -- a / b lies in (1/2, 2)
  let y := ((a : Int) - b) * (expScale : Int) / ((a : Int) + b)
  2 * atanhSeries 120 1 (y * y / (expScale : Int)) y 0 + e * (ln2Fix : Int)

/-- ln of a positive rational as a binary32 pattern. -/
def lnRat (n d : Nat) : Nat := fOfRat (lnFix n d) expScale

end Sys2Proof.Machine
end

