-- ==== Sys2Proof/Machine/Gallery.lean ====
section
/-!
DEFINITION. The Gallery map (R152-R158) and the Warder (R160-R166).
-/
namespace Sys2Proof.Machine

open Sys2Proof

/-! ## The Gallery map -/

/-- Side of a Gallery cell, nm (R152). -/
def State.galSide (s : State) : Nat := if s.rg P.GAL_CELL 0 = 0 then 500000 else 1000000

/-- The cell of a bed point, row * 2048 + column, if the point lies in the map. -/
def State.galCell (s : State) (x y : Int) : Option Nat :=
  let c := (x - s.rgI P.GAL_ORG_X 0) / (s.galSide : Int)
  let r := (y - s.rgI P.GAL_ORG_Y 0) / (s.galSide : Int)
  if 0 ≤ c ∧ c < 2048 ∧ 0 ≤ r ∧ r < 2048 then some (r.toNat * 2048 + c.toNat) else none

/-- Age of a cell word at time t, signed ms (R153). -/
def galAge (w : Nat) (t : TS) : Int := toSigned 16 (ofSigned 16 ((galMs t : Int) - (w / 65536 : Nat)))

/-- R153: a cell is cold when its age is negative or at least 8,192 ms. -/
def galCold (w : Nat) (t : TS) : Bool := galAge w t < 0 || galAge w t ≥ 8192

/-- R154: present energy of a cell word, binary32. -/
def State.galEnergy (s : State) (w : Nat) (t : TS) : Nat :=
  if galCold w t then 0
  else
    let dt := galAge w t
    let e := fOfInt (w % 65536 : Nat)
    if dt = 0 then e
    else fMul e (fExpE (fDiv (fOfInt (-dt)) (fOfInt (s.rg P.GAL_TAU 0 : Nat))))

/-- R156: the Gallery factor at a bed point, binary32; 1 outside the map, where OUTSIDE counts. -/
def State.galFactor (s : State) (n : Nat) (x y : Int) : Nat × State :=
  match s.galCell x y with
  | none => (fOne, s.bump P.GAL_OUTSIDE 0)
  | some c =>
    let e := s.galEnergy (s.galWord c) s.now
    let k := s.rg P.BEAM_GAL_K n
    -- 1 - K * E / 65535, formed exactly and rounded once
    let g := fOfRat ((65535 * fDen * fDen : Nat) - fNum k * fNum e) (65535 * fDen * fDen)
    let lo := fOfRat (s.rg P.BEAM_GAL_G_MIN n : Nat) 65535
    (if fLt g lo then lo else g, s)

/-- Write a cell; a cold word as the sweep leaves it is not listed. -/
def State.galPut (s : State) (cell w : Nat) : State :=
  let cells := if w = coldWord s.gal.sweptAt then assocDel s.gal.cells cell else assocPut s.gal.cells cell w
  { s with gal := { s.gal with cells := cells } }

/-- R155: write a beam's accumulated deposit as one read-modify-write. -/
def State.galFlush (s : State) (n : Nat) : State :=
  match (s.beam n).dep with
  | none => s
  | some d =>
    let w := s.galWord d.cell
    let e := fNum (s.galEnergy w s.now) / (fDen : Int)
    let add := roundDiv (fNum d.energy) (fDen * s.rg P.GAL_E_LSB 0)
    let e' := (min 65535 (e + add)).toNat
    let s := s.galPut d.cell (d.lastMs * 65536 + e')
    s.updBeam n fun b => { b with dep := none }

/-- The laser-timeline point of a step has left the cell of the deposit that is accumulating: it is written (R155). -/
def State.leaveCell (s : State) (n : Nat) (x y : Int) : State :=
  match (s.beam n).dep with
  | some d => if s.galCell x y = some d.cell then s else s.galFlush n
  | none => s

/-- R155: the deposit of the micro-step under way: power (24 bits) x GAL_P_FS x ns open, in µJ. One left by an earlier opening of the
gate is written first. A step outside the map is counted where it is interpolated. -/
def State.galDeposit (s : State) (n : Nat) (x y : Int) (power ns ord : Nat) : State :=
  let fs := s.rg P.BEAM_GAL_P_FS n
  match (if fs = 0 ∨ ns = 0 then none else s.galCell x y) with
  | none => s
  | some c =>
    let q := fOfRat (power * fs * ns : Nat) (16777215 * 1000000)
    let s := match (s.beam n).dep with
      | some d => if d.cell ≠ c ∨ d.shut then s.galFlush n else s
      | none => s
    s.updBeam n fun b =>
      { b with dep := some (match b.dep with
        | some d => { d with energy := fAdd d.energy q, lastMs := galMs s.micro }
        | none => ⟨c, q, s.micro, galMs s.micro, ord, false⟩) }

/-- R158: set every cold cell as the sweeper does, while the EXP domain runs. -/
def State.galSweep (s : State) : State :=
  if !s.gal.expOn then s else
  let live := s.gal.cells.filter fun c => !galCold c.2 s.now
  (({ s with gal := { s.gal with cells := live, sweptAt := s.now } } : State).bump P.GAL_SWEEPS 0)

/-- R158, R159: set every cell cold. -/
def State.galClear (s : State) : State := { s with gal := { s.gal with cells := [], sweptAt := s.now } }

/-! ## The Warder's geometry (R161) -/

/-- Halo radius in cells. -/
def State.haloR (s : State) : Nat := ceilDiv (s.rg P.WRD_D_EX 0) (s.rg P.WRD_CELL 0)

def outerCell : Nat := 2 ^ 20

/-- Cells between a cell of the grid and the edge nearest to it. -/
def edgeDist (c : Nat) : Nat := min (min (c % 1024) (1023 - c % 1024)) (min (c / 1024) (1023 - c / 1024))

/-- Whether cell c lies in the halo of core cell a. The outer cell begins beside the cells at the edge of the grid. -/
def inHalo (r a c : Nat) : Bool :=
  if a = outerCell then c = outerCell || edgeDist c < r
  else if c = outerCell then edgeDist a < r
  else
    let dx := ((a % 1024 : Nat) : Int) - (c % 1024 : Nat)
    let dy := ((a / 1024 : Nat) : Int) - (c / 1024 : Nat)
    dx.natAbs ≤ r && dy.natAbs ≤ r

/-- Whether cell c lies in the plume of core cell a: within PLUME_LEN + CELL of it, at no more than PLUME_ANG from the
gas-flow direction (R161). Distances in µm; the angle is compared by its cosine. The outer cell has no place: no plume of it, and none
over it (log entry 84). -/
def State.inPlume (s : State) (a c : Nat) : Bool :=
  let len := s.rg P.WRD_PLUME_LEN 0
  if len = 0 ∨ a = outerCell ∨ c = outerCell then false
  else
    let side := (s.rg P.WRD_CELL 0 : Int)
    let dx := (((c % 1024 : Nat) : Int) - (a % 1024 : Nat)) * side
    let dy := (((c / 1024 : Nat) : Int) - (a / 1024 : Nat)) * side
    let d2 := norm2 dx dy
    let far := (len + s.rg P.WRD_CELL 0) * (len + s.rg P.WRD_CELL 0)
    if d2 > far then false
    else if d2 = 0 then true
    else
      let (gs, gc) := sinCos (s.rg P.WRD_GAS_DIR 0)
      let ca := (sinCos (s.rg P.WRD_PLUME_ANG 0)).2
      -- cos of the angle: (dx gc + dy gs) / |d|  >=  cos PLUME_ANG
      let p := dx * gc + dy * gs
      p ≥ 0 && p * p ≥ ca * ca * (d2 : Int)

/-- Whether cell c lies in the zone of a core. -/
def State.inZone (s : State) (core : List Nat) (halo plume : Bool) (c : Nat) : Bool :=
  core.any fun a => (halo && inHalo s.haloR a c) || (plume && s.inPlume a c)

/-- Cells of a core and its zone together (R164). -/
def State.zoneSize (s : State) (core : List Nat) : Nat :=
  let reach := max s.haloR (ceilDiv (s.rg P.WRD_PLUME_LEN 0) (s.rg P.WRD_CELL 0) + 1)
  let r := s.haloR
  let near (a : Nat) : List Nat :=
    if a = outerCell then []
    else
      let ax : Int := (a % 1024 : Nat)
      let ay : Int := (a / 1024 : Nat)
      let w := 2 * reach + 1
      (List.range (w * w)).filterMap fun k =>
        let x := ax + ((k % w : Nat) : Int) - (reach : Int)
        let y := ay + ((k / w : Nat) : Int) - (reach : Int)
        if 0 ≤ x ∧ x < 1024 ∧ 0 ≤ y ∧ y < 1024 then
          let c := y.toNat * 1024 + x.toNat
          if s.inZone [a] true true c then some c else none
        else none
  let inner := (core.flatMap near).eraseDups
  if core.contains outerCell then
    -- the outer cell, and the border of the grid that lies within its halo
    let border := 1024 * 1024 - (1024 - 2 * r) * (1024 - 2 * r)
    1 + border + (inner.filter fun c => r ≤ edgeDist c).length
  else inner.length + b2n (core.any fun a => inHalo r a outerCell)

/-! ## Requests and grants (R162-R164) -/

/-- A zone still in force for a halo or a plume at time t. -/
def Zone.haloOn (z : Zone) (t : TS) : Bool := match z.haloUntil with | some u => t < u | none => true
def Zone.plumeOn (z : Zone) (t : TS) : Bool := match z.plumeUntil with | some u => t < u | none => true

/-- R162: whether core c of beam b conflicts with a zone in force. -/
def State.conflictsZone (s : State) (b : Nat) (core : List Nat) (z : Zone) : Bool :=
  z.beam ≠ b &&
  ((core.any fun c => s.inZone z.core (z.haloOn s.now) (z.plumeOn s.now) c) ||
   (z.future && z.core.any fun c => s.inZone core true true c))

/-- R162: whether two requests conflict. -/
def State.conflictsSeg (s : State) (c1 c2 : List Nat) : Bool :=
  (c1.any fun c => s.inZone c2 true true c) || (c2.any fun c => s.inZone c1 true true c)

/-- Every request, with its beam. -/
def State.requests (s : State) : List (Nat × WSeg) :=
  (List.range 24).flatMap fun n => ((s.beam n).wsegs.filter fun w => w.status = 1 || w.status = 2).map fun w => (n, w)

def State.updSeg (s : State) (n id : Nat) (f : WSeg → WSeg) : State :=
  s.updBeam n fun b => { b with wsegs := b.wsegs.map fun (w : WSeg) => if w.id = id then f w else w }

/-- R160: post the requests whose start lies within 1,000 micro-steps of the interpolation front; one with an empty
core is granted at once, and so is every one while ENABLE is 0 (R162). -/
def State.postRequests (s : State) (n : Nat) : State :=
  let b := s.beam n
  let en := s.rg P.WRD_ENABLE 0 = 1
  s.updBeam n fun b' =>
    { b' with wsegs := b'.wsegs.map fun (w : WSeg) =>
        if w.status = 0 && w.t0 ≤ b.front + 256000 then
          if w.core.isEmpty || !en then { w with status := 3, posted := s.now }
          else { w with status := 1, posted := s.now }
        else w }

/-- WARD_EXCLUSIVE source path and the Warder's own (R169). -/
def State.wrdSrc (s : State) : Nat := s.srcPath 1 6 1

/-- A write of WRD.ENABLE (R162): at 0 every request is granted at once, and nothing stays in force. -/
def State.warderEnable (s : State) (v : Nat) : State :=
  let s := s.setRg P.WRD_ENABLE 0 v
  if v = 1 then s
  else
    let s := { s with gal := { s.gal with zones := [] } }
    forEach (List.range 24) (fun n s => s.updBeam n fun b =>
      { b with wsegs := b.wsegs.map fun (w : WSeg) => if w.status = 1 ∨ w.status = 2 then { w with status := 3 } else w }) s

/-- Grant a segment: its zone is in force, its core future (R162). -/
def State.grant (s : State) (n : Nat) (w : WSeg) : State :=
  let s := s.updSeg n w.id fun w => { w with status := 3 }
  let s := { s with gal := { s.gal with zones := s.gal.zones ++ [⟨n, w.id, w.core, true, w.excl, none, none, false, none⟩] } }
  if w.excl then
    s.record s.wrdSrc 0x1202 (le 1 n ++ zeros 3 ++ le 4 w.size ++ le 4 ((s.now - w.posted) / 1000))
  else s

/-- R163, R164: whether a request can be granted now. -/
def State.grantable (s : State) (n : Nat) (w : WSeg) : Bool :=
  let others := s.requests.filter fun q => !(q.1 = n)
  if w.excl then
    (s.gal.zones.all fun z => if z.beam = n then !(z.excl && z.future) else !(z.future || z.haloOn s.now || z.plumeOn s.now)) &&
    (others.all fun q => !(q.2.status = 2 && q.2.reservedAt < w.reservedAt))
  else
    (s.gal.zones.all fun z => !(z.excl && z.future) || w.core.isEmpty) &&
    (s.gal.zones.all fun z => !s.conflictsZone n w.core z) &&
    (others.all fun q =>
      q.2.status ≠ 2 || (w.status = 2 && w.reservedAt ≤ q.2.reservedAt) || !s.conflictsSeg w.core q.2.core)

/-- Up to 64 segments of a beam, in path order, until one is not granted. `res` takes reserved requests only. -/
def State.grantTurn (s : State) (n : Nat) (res : Bool) : Nat → State
  | 0 => s
  | fuel + 1 =>
    match (s.beam n).wsegs.find? fun w => w.status ≠ 3 with
    | none => s
    | some w =>
      if (if res then w.status = 2 else w.status = 1) && s.grantable n w then (s.grant n w).grantTurn n res fuel
      else s

/-- R163: a request pending for AGE_FR ticks becomes reserved, and one over the limit of R164 at once. -/
def State.reserveIf (s : State) (n : Nat) (w : WSeg) (age : Nat) (due : Bool) : State :=
  let size := if w.size = 0 then s.zoneSize w.core else w.size
  let big : Bool := s.rg P.WRD_SEG_MAX 0 < size
  if big || due then
    let k := s.gal.resCount
    let s := { s with gal := { s.gal with resCount := k + 1 } }
    s.updSeg n w.id fun w => { w with status := 2, age := age, reservedAt := k, size := size, excl := big }
  else s.updSeg n w.id fun w => { w with age := age, size := size }

/-- The tick ages the requests of a beam (R163, R164). -/
def State.reserveRequests (s : State) (n : Nat) : State :=
  ((s.beam n).wsegs.filter (·.status = 1)).foldl (fun s w => s.reserveIf n w (w.age + 1) (s.rg P.WRD_AGE_FR 0 ≤ w.age)) s

/-- WARDER_RESERVE: the requests whose AGE_FR ticks have passed, the tick at this instant counted, become reserved. -/
def State.warderReserve (s : State) (n : Nat) : State :=
  let ticks := s.now / 2560 - s.tick / 2560
  ((s.beam n).wsegs.filter fun w => w.status = 1 && s.rg P.WRD_AGE_FR 0 < w.age + ticks).foldl (fun s w =>
    s.reserveIf n w w.age true) s

/-- Beams with a reserved request at the head of their path, oldest reservation first. -/
def State.reservedOrder (s : State) : List Nat :=
  let rs := (List.range s.nBeams).filterMap fun n =>
    match (s.beam n).wsegs.find? fun w => w.status ≠ 3 with
    | some w => if w.status = 2 then some (w.reservedAt, n) else none
    | none => none
  (sortBy (fun (a b : Nat × Nat) => a.1 ≤ b.1) rs).map (·.2)

/-- R163: the evaluation of a control-frame tick. -/
def State.warderEvaluate (s : State) : State :=
  let s := forEach (List.range s.nBeams) (fun n s => s.reserveRequests n) s
  let s := forEach s.reservedOrder (fun n s => s.grantTurn n true 64) s
  let start := s.frameNo % s.nBeams
  let order := (List.range s.nBeams).map fun k => (start + k) % s.nBeams
  forEach order (fun n s => s.grantTurn n false 64) s

/-- The beam that blocks a beam's next request, or 0xFF (R159, R166). -/
def State.blocker (s : State) (n : Nat) : Nat :=
  match (s.beam n).wsegs.find? fun w => w.status ≠ 3 with
  | none => 0xFF
  | some w =>
    match s.gal.zones.find? fun z => s.conflictsZone n w.core z || (z.beam ≠ n && (w.excl || z.excl)) with
    | some z => z.beam
    | none =>
      match s.requests.find? fun q => q.1 ≠ n && q.2.status = 2 && s.conflictsSeg w.core q.2.core with
      | some q => q.1
      | none => 0xFF

/-- R162: zones whose halo and plume have both expired and whose core is done are dropped. -/
def State.expireZones (s : State) : State :=
  { s with gal := { s.gal with
    zones := s.gal.zones.filter fun z => z.future || z.haloOn s.now || z.plumeOn s.now } }

/-- R162: a segment whose laser timeline has passed its end completes: its future core ends, and its halo and plume run
on from its last gate-close. Where its gate has not opened nothing of it stays. -/
def State.completeSegs (s : State) (n : Nat) (t : Int) : State :=
  let past (w : WSeg) : Bool := w.status = 3 && w.t1 ≤ t
  let gone := (s.beam n).wsegs.filter past
  let s := if gone.isEmpty then s else s.releaseSegs n t.toNat fun id => gone.any (·.id = id)
  s.updBeam n fun b => { b with wsegs := b.wsegs.filter fun w => !past w }

/-- Whether any beam is in RUN or STOPPING (R159, R170). -/
def State.anyRunning (s : State) : Bool := s.beams.any fun b => b.st = 3 || b.st = 4

/-- R159: the reply of WARDER_STATUS. -/
def State.warderStatus (s : State) : List Byte :=
  (List.range 24).flatMap fun n =>
    if n < s.nBeams then
      match (s.beam n).wsegs.find? fun w => w.status ≠ 0 && w.status ≠ 3 with
      | some w => le 1 w.status ++ le 1 (s.blocker n)
      | none => if (s.beam n).wsegs.any (·.status = 3) then le 1 3 ++ le 1 0xFF else le 1 0 ++ le 1 0xFF
    else le 1 0 ++ le 1 0xFF

end Sys2Proof.Machine
end

