-- ==== Sys2Proof/Machine/GalleryCmd.lean ====
section
/-!
DEFINITION. The opcodes of group 0x12xx (R159): clearing, copying and reading the Gallery map, and the Warder's status.
-/
namespace Sys2Proof.Machine

open Sys2Proof

/-- R159, R169: the map is cleared, with its record. Cause 1: a command; 2: a write of the geometry. -/
def State.galClearBy (s : State) (cause : Nat) : State := s.galClear.record (s.srcPath 1 6 0) 0x1203 (le 1 cause)

/-- GALLERY_CLEAR. -/
def State.bodyGalleryClear (c : Ctx) (s : State) : State :=
  s.unless c (firstBad [(s.anyRunning, rBADSTATE)]) fun s => (s.galClearBy 1).ok c

/-- Size of the map in bytes, and its cells (R152). -/
def galBytes : Nat := 16777216
def galCells : Nat := 4194304

/-- The copy of the first snapshot of the queue starts. -/
def State.snapStart (s : State) : State :=
  { s with gal := { s.gal with snapCells := s.gal.cells, snapSwept := s.gal.sweptAt, snapAt := s.now } }

/-- GALLERY_SNAPSHOT: the target is checked and lent (R340); copies are made one after another. -/
def State.bodyGallerySnapshot (c : Ctx) (s : State) : State :=
  let acc := u32 c.payload 0
  s.unless c (s.loanCheck acc) fun s =>
    let small : Bool := match s.acc? acc with | some a => a.size < galBytes | none => true
    s.unless c (firstBad [(accPool acc ≠ 6 || small, rBADPARAM)]) fun s =>
      let first := s.gal.snaps.isEmpty
      let s := s.takeLoan acc
      let s := { s with gal := { s.gal with snaps := s.gal.snaps ++ [(c.k, acc)] } }
      if first then s.snapStart else s

/-- What the copy read of a cell: its word where nothing changed it during the copy; else a free value (log entry 43). -/
def State.snapWord (s : State) (cell : Nat) : List Byte :=
  let before := (assocGet s.gal.snapCells cell).getD (coldWord s.gal.snapSwept)
  if before = s.galWord cell then le 4 before else le 4 (Config.fresh (s.fresh + cell))

/-- GALLERY_SNAPSHOT_DONE: the copy is complete; its reply gives the two stamps. -/
def State.snapDone (s : State) : State :=
  match s.gal.snaps with
  | [] => s
  | (k, acc) :: rest =>
    let data := (List.range galCells).flatMap fun cell => s.snapWord cell
    let s := if (s.acc? acc).isSome then s.storeData acc 0 data else s
    let s := { s with fresh := s.fresh + galCells }
    let s := (s.returnLoan acc).decide k rOK s.now (le 8 s.gal.snapAt ++ le 8 s.now)
    let s := { s with gal := { s.gal with snaps := rest } }
    if rest.isEmpty then s else s.snapStart

/-- GALLERY_READ. -/
def State.bodyGalleryRead (c : Ctx) (s : State) : State :=
  match s.galCell (i32 c.payload 0) (i32 c.payload 4) with
  | none => s.reject c rBADPARAM
  | some cell =>
    let w := s.galWord cell
    s.ok c (le 4 w ++ le 4 (ofSigned 32 (galAge w s.now)) ++ le 4 (s.galEnergy w s.now))

/-- WARDER_STATUS. -/
def State.bodyWarderStatus (c : Ctx) (s : State) : State := s.ok c s.warderStatus

end Sys2Proof.Machine
end

