-- ==== Sys2Proof/Machine/Crc.lean ====
section
/-!
DEFINITION. The check values of the manual: CRC-16 and CRC-32C (R40), CRC-32, CRC-64, and the CRC-6 of BiSS-C, one bit
at a time.
-/
namespace Sys2Proof.Machine

open Sys2Proof

/-- One bit of a CRC of width w with polynomial p, most significant bit first. -/
def crcBit (w p crc : Nat) (b : Bool) : Nat :=
  let top := crc.testBit (w - 1) != b
  let c := crc * 2 % 2 ^ w
  if top then Nat.xor c p else c

/-- Bits of a byte, most significant first. -/
def byteBits (b : Byte) : List Bool := (List.range 8).map fun i => b.toNat.testBit (7 - i)

/-- A CRC over bytes, most significant bit of each first. -/
def crcMsb (w p : Nat) (bytes : List Byte) (crc : Nat) : Nat :=
  bytes.foldl (fun c b => (byteBits b).foldl (crcBit w p) c) crc

/-- A CRC over bytes, least significant bit of each first, the result reflected. -/
def crcLsb (w p : Nat) (bytes : List Byte) (crc : Nat) : Nat :=
  bitrev w (bytes.foldl (fun c b => (byteBits b).reverse.foldl (crcBit w p) c) crc)

/-- CRC-16 of R40: 0x1021, initial 0xFFFF. -/
def crc16 (bytes : List Byte) : Nat := crcMsb 16 0x1021 bytes 0xFFFF

/-- CRC-32C of R40. -/
def crc32c (bytes : List Byte) : Nat := Nat.xor (crcLsb 32 0x1EDC6F41 bytes 0xFFFFFFFF) 0xFFFFFFFF

/-- CRC-32 as the published compression and Ethernet formats define it. -/
def crc32 (bytes : List Byte) : Nat := Nat.xor (crcLsb 32 0x04C11DB7 bytes 0xFFFFFFFF) 0xFFFFFFFF

/-- CRC-64 with polynomial 0x42F0E1EBA9EA3693. -/
def crc64 (bytes : List Byte) : Nat := crcMsb 64 0x42F0E1EBA9EA3693 bytes 0

end Sys2Proof.Machine
end

