-- ==== Sys2Proof/Machine/Cell.lean ====
section
/-!
DEFINITION. The commands of group 0x10xx at a beam cell and the cell's queue of waiting enables and disables
(R94-R96, R126-R131), flushing (R86, R129, R132), and the table latch (R112).
-/
namespace Sys2Proof.Machine

open Sys2Proof

/-- Beam of a beam stream (R2). -/
def Ctx.beam (c : Ctx) : Nat := c.stream - 1

/-! ## Tables at arming and at pause points (R108, R112, R239, R240) -/

/-- Take the loans of the tables a beam arms with; on a bad table, TABLE_REFUSED and no loans. -/
def State.armTables (s : State) (n : Nat) : Bool × State :=
  let b := s.beam n
  match s.fcCheck b.fcAcc with
  | some cause => (false, s.tableRefused n 1 cause b.fcAcc noAcc)
  | none =>
    match (if b.hmAcc = noAcc then none else s.hmCheck b.hmAcc) with
    | some cause => (false, s.tableRefused n 2 cause b.hmAcc noAcc)
    | none =>
      let s := s.takeLoan b.fcAcc
      let s := if b.hmAcc = noAcc then s else s.takeLoan b.hmAcc
      (true, s.storePark n)

/-- Return the table loans of a beam that reaches OFF (R108, R126). -/
def State.dropTables (s : State) (n : Nat) : State :=
  let b := s.beam n
  let s := s.returnLoan b.fcAcc
  if b.hmAcc = noAcc then s else s.returnLoan b.hmAcc

/-- A write of FC_ACC or HM_ACC takes effect (R112): the new loan is taken and the old one returned; a table that fails its check is
refused and the old one kept. -/
def State.latchTable (s : State) (n : Nat) (fc : Bool) (v : Nat) : State :=
  let b := s.beam n
  let old := if fc then b.fcAcc else b.hmAcc
  match (if v = noAcc then none else if fc then s.fcCheck v else s.hmCheck v) with
  | some cause => s.tableRefused n (if fc then 1 else 2) cause v old
  | none =>
    let held := b.st ≠ 0
    let s := if held && v ≠ noAcc then s.takeLoan v else s
    let s := if held && old ≠ noAcc then s.returnLoan old else s
    let s := s.updBeam n fun b => if fc then { b with fcAcc := v } else { b with hmAcc := v }
    let s := s.setRg (if fc then P.BEAM_FC_ACC else P.BEAM_HM_ACC) n v
    if fc && v ≠ noAcc then s.storePark n else s

/-- A write of ADV takes effect at the pause point p at which the interpolation front stands (R90, R91): for a longer lookahead the
path beyond p runs that much later; the setpoints up to p are committed with the old one (log entry 75). -/
def State.latchAdv (s : State) (n v : Nat) (p : Int) : State :=
  let old := s.rg P.BEAM_ADV n
  let s := s.setRg P.BEAM_ADV n v
  if (s.beam n).st ≠ 3 then s.updBeam n fun b => { b with advOld := v }
  else s.updBeam n fun b =>
    let b := if v > old then b.shiftFrom p (((v - old) * 256 : Nat) : Int) else b
    { b with advOld := old, advFrom := p }

/-- The parameters of a beam that take effect at a pause point (R91, R112). -/
def State.latchAt (s : State) (n p v : Nat) : State :=
  if p = P.BEAM_FC_ACC then s.latchTable n true v
  else if p = P.BEAM_HM_ACC then s.latchTable n false v
  else if p = P.BEAM_ADV then s.latchAdv n v ((s.beam n).frontPause.getD (s.beam n).front)
  else s.setRg p n v

/-! ## Arming -/

/-- A command frame of digital serial: IDENT (R118, R119). CRC-4 is over type and data, bit 23 first. -/
def crc4 : List Bool → Nat → Nat
  | [], c => c
  | b :: bs, c =>
    let top := (c / 8 % 2 == 1) != b
    let c := c * 2 % 16
    crc4 bs (if top then Nat.xor c 3 else c)

def bitsMsb (w v : Nat) : List Bool := (List.range w).map fun i => v.testBit (w - 1 - i)

/-- The 32 bit times of a digital serial frame, bit time 0 in bit 31 (R118). Bit 31 of the frame is the idle time. -/
def serialFrame (type data : Nat) : Nat :=
  let crc := crc4 (bitsMsb 1 type ++ bitsMsb 24 data) 0
  type * 2 ^ 30 + data * 2 ^ 6 + crc * 4 + 2 + (1 - type)

/-- An attempt to identify the laser begins: an IDENT command frame at a tick (R118, R119). -/
def State.sendIdent (s : State) (n : Nat) : State :=
  let s := s.updBeam n fun b => { b with laser := { b.laser with identTries := b.laser.identTries + 1, identAt := some s.now } }
  if s.twin.own then s.put (.laserFrame n (serialFrame 1 0x010000)) else s

/-- Arming ends in OFF (R126): FAULT for the enable, unless it was decided already. -/
def State.armFail (s : State) (n : Nat) (tables : Bool) : State :=
  let b := s.beam n
  let s := if tables then s.dropTables n else s
  let s := match b.arming with
    | some k => s.decide ⟨k.sess, k.stream, k.seq⟩ rFAULT s.now (le 1 0 ++ zeros 3)
    | none => s
  let s := s.updBeam n fun b => { b with arming := none }
  s.beamTo n 0 0

/-- An attempt has failed: after the third, arming has; else the next tick makes another. -/
def State.identFail (s : State) (n : Nat) : State :=
  if (s.beam n).laser.identTries ≥ 3 then s.armFail n true
  else s.updBeam n fun b => { b with laser := { b.laser with identAt := none } }

/-- A frame tick in ARMING with a mode 2 laser (R119): an attempt begins, or one whose frame for the reply is over fails and the next
begins. -/
def State.identTick (s : State) (n : Nat) : State :=
  match (s.beam n).laser.identAt with
  | none => s.sendIdent n
  | some a =>
    if s.now < a + 5120 then s
    else
      let s := s.identFail n
      if (s.beam n).st = 1 then s.sendIdent n else s

/-- OFF to ARMING (R126): loans on the tables; the next tick asks a mode 2 laser for its identity. No power has been composed since
(R113). -/
def State.startArming (s : State) (n : Nat) (k : CtlCmd) : State :=
  let s := s.beamTo n 1 0
  let s := s.updBeam n fun b =>
    { b with
      arming := some k
      armAt := s.now
      laser := { b.laser with
        identTries := 0, identAt := none, identOk := false, cPrev := 0, cNow := 0, lastBase := 0, lastVid := 0, prevBase := 0 } }
  let (good, s) := s.armTables n
  if good then s else s.armFail n false

/-! ## Waiting enables and disables (R127, R128) -/

def CtlCmd.k (c : CtlCmd) : Ticket := ⟨c.sess, c.stream, c.seq⟩

/-- A disable takes effect at path time t: the shutdown begins, and the disable is decided when OFF is reached. The exposure commands
sent before it are cancelled, by a NOW in RUN when its ramp has ended. `mode` 1 stands for every mode of an INTERRUPTED or ARMING
beam. -/
def State.shutFor (s : State) (n : Nat) (c : CtlCmd) (mode : Nat) (t : Int) : State :=
  let s := s.updBeam n fun b =>
    { b with closers := b.closers ++ [{ c with begunAt := if mode = 0 then none else some t.toNat }] }
  let s := if mode = 0 ∨ (mode = 2 ∧ (s.beam n).st = 3) then s else s.cancelCmds n t (mode + 1) fun x => x.ord < c.ord
  s.beginShut n mode 0 t

/-- The front of the waiting control commands of a beam in ARMED or RUN acts, if it is a disable that can: DRAIN when the work before
it is done, and OK_QUEUED while it is not; PAUSE at the next pause point; NOW at a micro-step. -/
def State.disableFront (s : State) (n : Nat) (c : CtlCmd) (drop : State → State) : Option State :=
  let b := s.beam n
  match c.mode with
  | 0 =>
    if !b.workBefore c.ord then some ((drop s).shutFor n c 0 s.now)
    else if c.decided then none
    else some ((s.decide c.k rQUEUED neverTS []).updBeam n fun b =>
      { b with ctl := b.ctl.map fun x => if x.ord = c.ord then { x with decided := true } else x })
  | 1 =>
    if s.micro = s.now ∨ b.stands s.now then (b.pauseIn s.now).map fun p => (drop s).shutFor n c 1 p else none
  | _ => if s.micro = s.now then some ((drop s).shutFor n c 2 s.now) else none

/-- Whether the front of the waiting control commands can act now, and what it does. -/
def State.ctlFront (s : State) (n : Nat) : Option State :=
  let b := s.beam n
  match b.ctl with
  | [] => none
  | c :: _ =>
    let drop (s : State) : State := s.updBeam n fun b => { b with ctl := b.ctl.drop 1 }
    if c.enable then
      match b.st with
      | 0 => some ((drop s).startArming n c)
      | 1 | 2 | 3 => some ((drop s).decide c.k rOK s.now (le 1 b.st ++ zeros 3))
      | _ => none
    else
      match b.st with
      | 0 => some ((drop s).decideNow c.k rOK)
      | 1 =>
        if c.mode = 0 then none
        else
          let s := drop s
          let s := match b.arming with
            | some e => s.decide e.k rCANCELLED s.now (le 1 4 ++ zeros 3)
            | none => s
          let s := s.updBeam n fun b => { b with arming := none }
          some (s.shutFor n c 1 s.now)
      | 2 | 3 => s.disableFront n c drop
      | 4 => some ((drop s).updBeam n fun b => { b with closers := b.closers ++ [c] })
      | _ => some ((drop s).shutFor n c 1 s.now)

/-- Let the waiting enables and disables act, in order, as far as they can. -/
def State.pumpCtl (s : State) (n : Nat) : Nat → State
  | 0 => s
  | fuel + 1 =>
    match s.ctlFront n with
    | none => s
    | some s => s.pumpCtl n fuel

def State.ctl (s : State) (n : Nat) : State := s.pumpCtl n (2 * (s.beam n).ctl.length + 1)

/-- OFF is reached (R126): leases, loans and waiting disables go, and the next queued enable takes effect. -/
def State.reachOff (s : State) (n : Nat) : State :=
  let b := s.beam n
  let s := s.forceGateLow n
  let s := s.dropTables n
  let s := s.releaseLeases n s.now
  let s := b.closers.foldl (fun s c => s.decide c.k rOK (c.begunAt.getD s.now) []) s
  let (x, y) := b.nmAt b.plan.tEnd
  let s := s.updBeam n fun b =>
    { b with closers := [], shut := none, segs := [], gates := [], vecs := [], ahead := [], px := x, py := y }
  let s := s.beamTo n 0 0
  s.ctl n

/-! ## BEAM_ENABLE and BEAM_DISABLE -/

def State.bodyBeamEnable (c : Ctx) (s : State) : State :=
  let n := c.beam
  let b := s.beam n
  let e : CtlCmd := ⟨true, bit (u8 c.payload 0) 0, 0, c.sess, c.stream, c.seq, c.ord, false, none⟩
  let waits := b.ctl ≠ []
  if n ≥ s.nBeams then s.reject c rBADPARAM
  else if s.rg P.BEAM_FC_ACC n = noAcc then s.reject c rBADSTATE
  else if b.st = 5 ∧ !waits then
    if e.resume && s.intCause n = 0 then
      (s.resumeBeam n).decide c.k rOK s.now (le 1 3 ++ zeros 3)
    else s.reject c rBADSTATE
  else if b.st = 4 ∨ waits then
    let s := s.queued c (le 1 b.st ++ zeros 3)
    (s.updBeam n fun b => { b with ctl := b.ctl ++ [{ e with decided := true }] }).ctl n
  else if b.st = 0 then s.startArming n e
  else s.ok c (le 1 b.st ++ zeros 3)

def State.bodyBeamDisable (c : Ctx) (s : State) : State :=
  let n := c.beam
  let mode := u8 c.payload 0
  if n ≥ s.nBeams ∨ mode > 2 then s.reject c rBADPARAM
  else
    let d : CtlCmd := ⟨false, false, mode, c.sess, c.stream, c.seq, c.ord, false, none⟩
    (s.updBeam n fun b => { b with ctl := b.ctl ++ [d] }).ctl n

/-! ## Exposure commands (R95, R96) -/

/-- R95: a cell that is OFF, or STOPPING with no enable queued, takes no exposure command. -/
def Beam.closed (b : Beam) : Bool := b.st = 0 || (b.st = 4 && !(b.ctl.any (·.enable)))

/-- Put an exposure command into the cell's queue, decided OK_QUEUED. -/
def State.enqueue (s : State) (c : Ctx) (tag : Nat) (kind : ExpKind) : State :=
  let x : ExpCmd := ⟨c.ord, c.seq, tag, kind, false, 0, 0, false, 0, 0, 0, 0, s.now⟩
  (s.updBeam c.beam fun b => { b with cmds := b.cmds ++ [x] }).queued c

/-- The queue of a cell is full: the command waits at its interpreter (R95). -/
def State.beamQueueFull (s : State) (n : Nat) : Bool := (s.beam n).cmds.length ≥ 256

def State.bodyExposeList (c : Ctx) (s : State) : State :=
  let n := c.beam
  let acc := u32 c.payload 0
  let off := u32 c.payload 4
  let len := u32 c.payload 8
  let size := ((s.acc? acc).map (·.size)).getD 0
  let loan := s.loanCheck acc
  let bad := firstBad
    [(n ≥ s.nBeams || loan = some rBADPARAM, rBADPARAM), (loan = some rBADSTATE, rBADSTATE),
     ((accPool acc ≠ 0 && accPool acc ≠ 6) || off % 8 ≠ 0 || len % 8 ≠ 0 || len = 0 || off + len > size, rBADPARAM),
     ((s.beam n).closed, rBADSTATE)]
  s.unless c bad fun s => (s.takeLoan acc).enqueue c (u32 c.payload 12) (.list acc off len)

def State.bodyExposeInline (c : Ctx) (s : State) : State :=
  let n := c.beam
  let data := c.payload.drop 4
  s.unless c (firstBad
    [(n ≥ s.nBeams || data.length % 8 ≠ 0, rBADPARAM), ((s.beam n).closed, rBADSTATE)]) fun s =>
    s.enqueue c (u32 c.payload 0) (.inline data)

def State.bodyCatalogueMark (c : Ctx) (s : State) : State :=
  let n := c.beam
  s.unless c (firstBad [(n ≥ s.nBeams, rBADPARAM), ((s.beam n).closed, rBADSTATE)]) fun s =>
    s.enqueue c (u32 c.payload 0) .mark

/-! ## Flushing a beam stream (R86, R129, R132) -/

/-- A queued enable or disable is cancelled: one that is not decided is CANCELLED; one that is keeps OK_QUEUED, and a BEAM_STATE record
without a change of state, its cause 1 for a flush, reports it (log entry 76). -/
def State.cancelCtl (s : State) (n : Nat) (c : CtlCmd) : State :=
  if !c.decided then s.decideNow c.k rCANCELLED
  else
    let b := s.beam n
    s.record (s.beamSrc n) 0x100B (le 1 b.st ++ le 1 b.st ++ le 1 1 ++ zeros 1 ++ le 4 b.tag)

/-- Cancel what a flush of a beam stream cancels in its cell; the sequences cancelled. A disable that a session close has queued is no
command of the stream, and stays (R71). With `abort`, running commands
stop as well, and the beam holds where the committed path ends: DLY_JUMP follows there (R132). -/
def State.flushBeam (s : State) (n : Nat) (abort : Bool) : List Nat × State :=
  let b := s.beam n
  let hit (c : ExpCmd) : Bool := abort || !c.begun
  let ctl := b.ctl.filter fun k => k.sess = 0
  let seqs := (b.cmds.filter hit).map (·.seq) ++ (ctl.map (·.seq)) ++ (b.ras.halts.map (·.seq))
  let cut : Bool := b.st = 3 && b.vecs.any fun v => !v.done && b.cmds.any fun c => c.ord = v.ord && hit c
  let s := s.cancelCmds n s.nextStep 1 hit
  let s := if cut then s.updBeam n fun x => x.addWait (s.rg P.BEAM_DLY_JUMP n) 0 else s
  let s := ctl.foldl (fun s c => s.cancelCtl n c) s
  let s := b.ras.halts.foldl (fun s c => s.decideNow c.k rCANCELLED) s
  (seqs, s.updBeam n fun b => { b with ctl := b.ctl.filter fun k => k.sess ≠ 0, ras := { b.ras with halts := [] } })

/-- A Stop of the EXP region or a cold takeover disables a beam (R421, R418): as NOW without a command and a ramp. -/
def State.stopBeam (s : State) (n : Nat) (cause : Nat) : State :=
  let b := s.beam n
  if b.st ≠ 2 ∧ b.st ≠ 3 ∧ b.st ≠ 5 then s
  else
    let s := s.cancelCmds n s.nextStep 4 fun _ => true
    s.beginShut n 1 cause s.nextStep

/-- Close of the owner session with TMO_ACT 1 (R71): a PAUSE disable of every beam, without a slot. -/
def State.pauseBeam (s : State) (n : Nat) : State :=
  let b := s.beam n
  -- a shutdown under way ends in OFF, unless an enable waits behind it
  if b.st = 0 ∨ (b.st = 4 ∧ !(b.ctl.any (·.enable))) then s
  else
    let d : CtlCmd := ⟨false, false, 1, 8, 0, 0, s.host.ordCount, true, none⟩
    (s.updBeam n fun b => { b with ctl := b.ctl ++ [d] }).ctl n

end Sys2Proof.Machine
end

