-- ==== Sys2Proof/Machine/Raster.lean ====
section
/-!
DEFINITION. Raster regions (R135-R151, R167): descriptors, planes, line geometry, line timing, the line buffer and
underrun, and the commands of group 0x11xx.
-/
namespace Sys2Proof.Machine

open Sys2Proof

/-! ## Descriptors and planes (R135, R136, R142) -/

def rdPower (d : List Byte) : Nat := u32 d 0
def rdMod (d : List Byte) : Nat := u32 d 4
def rdPitch (d : List Byte) : Nat := u32 d 20
def rdW (d : List Byte) : Nat := u16 d 24
def rdH (d : List Byte) : Nat := u16 d 26
def rdSpeed (d : List Byte) : Nat := u32 d 28
def rdSet (d : List Byte) : Nat := u8 d 32
def rdFlags (d : List Byte) : Nat := u8 d 33
def rdTag (d : List Byte) : Nat := u32 d 36

/-- R137: the pixel period in ns. -/
def rdPeriod (d : List Byte) : Nat := roundDivNat (rdPitch d * 10 ^ 6) (rdSpeed d)

/-- R136: a plane of a format with so many pixels and rows, rows of at least so many bytes. -/
def State.planeOk (s : State) (acc fmt px rows need : Nat) : Bool :=
  let stride := s.memNat acc 8 4
  s.memNat acc 0 2 == fmt && s.memNat acc 2 2 == px && s.memNat acc 4 2 == rows && stride % 8 == 0 && stride ≥ need &&
  ((s.acc? acc).map (·.size)).getD 0 ≥ 16 + stride * rows

/-- What of a descriptor's own fields R136 and R142 do not allow. -/
def descFieldsBad (d : List Byte) : Bool :=
  let w := rdW d
  accPool (rdPower d) ≠ 1 || (rdMod d ≠ noAcc && accPool (rdMod d) ≠ 1) ||
  u32 d 16 > 6283185 || rdPitch d < 10000 || rdPitch d > 200000 || w < 1 || w > 4096 || rdH d < 1 ||
  rdSpeed d < 1 || rdSpeed d > 20000000 || rdSet d > 15 || bits (rdFlags d) 7 4 ≠ 0 || u16 d 34 ≠ 0 || rdPeriod d < 256

/-- R142: why a descriptor is rejected. The check of its loans comes before those of its content (R340), BAD_PARAM first. -/
def State.descBad (s : State) (d : List Byte) : Option Nat :=
  let w := rdW d
  let h := rdH d
  let none? := rdMod d = noAcc
  let ls := [s.loanCheck (rdPower d), if none? then none else s.loanCheck (rdMod d)]
  firstBad
    [(ls.contains (some rBADPARAM), rBADPARAM), (ls.contains (some rBADSTATE), rBADSTATE),
     (descFieldsBad d || !s.planeOk (rdPower d) 0x0050 w h ((3 * w + 1) / 2) ||
       (!none? && !s.planeOk (rdMod d) 0x004D ((w + 1) / 2) ((h + 1) / 2) ((w + 1) / 2)), rBADPARAM)]

def descLoans (d : List Byte) : List Nat := rdPower d :: (if rdMod d = noAcc then [] else [rdMod d])

def State.takeLoans (s : State) (accs : List Nat) : State := accs.foldl State.takeLoan s

/-- Whether a byte of an accession lies in a poisoned line: it counts as not arrived (R149, R356). -/
def State.poisonAt (s : State) (acc off : Nat) : Bool := (s.firstPoison acc off 1).isSome

/-- Where the modifier pixel of a power pixel stands. -/
def State.modOff (s : State) (d : List Byte) (row j : Nat) : Nat := 16 + s.memNat (rdMod d) 8 4 * (row / 2) + j / 2

/-- The modifier pixel of a power pixel has not arrived. -/
def State.modPoison (s : State) (d : List Byte) (row j : Nat) : Bool := rdMod d ≠ noAcc && s.poisonAt (rdMod d) (s.modOff d row j)

/-- R136: a power pixel, or none where its bytes, or those of its modifier, have not arrived; `lost` lists the 64-byte pieces of its row
that the line buffer has lost. -/
def State.powerPixel (s : State) (d : List Byte) (lost : List Nat) (row j : Nat) : Option Nat :=
  let acc := rdPower d
  let off := 16 + s.memNat acc 8 4 * row + 3 * (j / 2)
  let b (k : Nat) : Nat := (s.memByte acc (off + k)).toNat
  let k0 := if j % 2 = 0 then off else off + 1
  let gone (k : Nat) : Bool := lost.contains ((k - s.memNat acc 8 4 * row - 16) / 64)
  if s.poisonAt acc k0 || s.poisonAt acc (k0 + 1) || gone k0 || gone (k0 + 1) || s.modPoison d row j then none
  else if j % 2 = 0 then some (b 0 + b 1 % 16 * 256) else some (b 1 / 16 + b 2 * 16)

/-- R136, R137: the modifier pixel under power pixel (i, j): focus code and shape index. -/
def State.modPixel (s : State) (d : List Byte) (row j : Nat) : Int × Nat :=
  if rdMod d = noAcc then (0, 0)
  else
    let v := (s.memByte (rdMod d) (s.modOff d row j)).toNat
    (toSigned 6 (v / 4), v % 4)

/-! ## Geometry (R137) -/

/-- Odd lines run along -d unless UNIDIR is set. -/
def rdReversed (d : List Byte) (row : Nat) : Bool := row % 2 = 1 && !bit (rdFlags d) 2

/-- Pixel at place k of a line, in the order of exposure. -/
def rdPixelAt (d : List Byte) (row k : Nat) : Nat := if rdReversed d row then rdW d - 1 - k else k

/-- A point of line `row` at `k` half pitches from the centre of pixel 0 along d, plan units. -/
def rdPoint (d : List Byte) (row : Nat) (k : Int) : Int × Int :=
  let (sn, cs) := sinCos (u32 d 16)
  let p := (rdPitch d : Int)
  let a := k * p
  let n := 2 * (row : Int) * p
  let q := 2 * (2 ^ 96 / fine)
  (nmF (i32 d 8) + roundDiv (a * cs - n * sn) q, nmF (i32 d 12) + roundDiv (a * sn + n * cs) q)

/-- Start and end of a line. -/
def rdLine (d : List Byte) (row : Nat) : (Int × Int) × (Int × Int) :=
  let a := rdPoint d row (-1)
  let z := rdPoint d row (2 * (rdW d : Int) - 1)
  if rdReversed d row then (z, a) else (a, z)

/-- R142: every point of a region, run-ins included, lies in the field. -/
def State.regionInField (s : State) (n : Nat) (d : List Byte) : Bool :=
  let (cx, cy, f) := s.fieldOf (s.beam n).fcAcc
  let e := s.envOf n (rdSet d)
  let pts (row : Nat) : List (Int × Int) :=
    let (a, z) := rdLine d row
    if bit (rdFlags d) 3 then
      let (dx, dy) := (z.1 - a.1, z.2 - a.2)
      let (ix, iy) := along dx dy ((e.skyIn * 1000 * fine : Nat) : Int)
      let (ox, oy) := along dx dy ((e.skyOut * 1000 * fine : Nat) : Int)
      [(a.1 - ix, a.2 - iy), (z.1 + ox, z.2 + oy)]
    else [a, z]
  -- lines are parallel: the first two and the last two bound the region
  let rows := [0, min 1 (rdH d - 1), rdH d - 2, rdH d - 1]
  (rows.flatMap pts).all fun q => inField (nmF cx) (nmF cy) (nmF f) q

/-! ## Pixels of a line, with underrun (R139, R149) -/

/-- One pixel in the order of exposure: the value exposed so far, the pixel held, the run of repeats, all repeats, and
the place from which the line is clamped. -/
structure LineAcc where
  out : List Nat
  held : Option Nat
  run : Nat
  repeats : Nat
  clamp : Option Nat
  /-- None of the line's pixels has arrived. -/
  missing : Bool

/-- With no pixel of the line held yet, a missing one keeps the gate closed. -/
def LineAcc.step (lim : Nat) (a : LineAcc) (k : Nat) (px : Option Nat) : LineAcc :=
  if a.clamp.isSome then { a with out := a.out ++ [0] }
  else match px, a.held with
  | some v, _ => { a with out := a.out ++ [v], held := some v, run := 0 }
  | none, held =>
    if lim = 0 then { a with out := a.out ++ [0], clamp := some k }
    else match held with
    | none => { a with out := a.out ++ [0] }
    | some v =>
      let run := a.run + 1
      { a with out := a.out ++ [v], run := run, repeats := a.repeats + 1, clamp := if run ≥ lim then some (k + 1) else none }

/-- A line none of whose pixels has arrived: its gate stays closed, clamped from pixel 0 (R149). -/
def lineMissing (d : List Byte) : LineAcc := ⟨List.replicate (rdW d) 0, none, 0, 0, some 0, true⟩

/-- The line as exposed from the buffer. -/
def State.lineFromBuffer (s : State) (n : Nat) (d : List Byte) (ord row : Nat) : LineAcc :=
  let lim := s.rg P.BEAM_RAS_RPT_LIMIT n
  let lost := ((s.beam n).ras.lost.filter fun x => x.1 = bufKey ord row).map (·.2)
  let px := (List.range (rdW d)).map fun k => s.powerPixel d lost row (rdPixelAt d row k)
  if px.all (·.isNone) then lineMissing d
  else ((List.range (rdW d)).zip px).foldl (fun a p => a.step lim p.1 p.2) ⟨[], none, 0, 0, none, false⟩

/-- Gate intervals of a line that starts at t0: one for each run of non-zero pixels, merged as R104 merges (R139). A clamp forces the
gate closed from the edge of its first pixel on (R149). -/
def lineGates (px : List Nat) (period : Nat) (t0 : Int) (on off : Int) (vid : Nat) (clamp : Option Nat) : List GateInt :=
  let runs : List (Nat × Nat) := ((List.range px.length).zip px).foldl (fun acc (k, v) =>
    if v = 0 then acc
    else match acc.getLast? with
    | some r => if r.2 = k then acc.dropLast ++ [(r.1, k + 1)] else acc ++ [(k, k + 1)]
    | none => [(k, k + 1)]) []
  let all := runs.foldl (fun (acc : List GateInt) r =>
    let a := t0 + ((r.1 * period : Nat) : Int) + on
    let z := t0 + ((r.2 * period : Nat) : Int) + off
    match acc.getLast? with
    | some g => if g.t1 ≥ a then acc.dropLast ++ [{ g with t1 := z }] else acc ++ [⟨a, z, vid, false, false⟩]
    | none => [⟨a, z, vid, false, false⟩]) []
  match clamp with
  | none => all
  | some k =>
    let edge := t0 + ((k * period : Nat) : Int)
    (all.filter fun g => g.t0 < edge).map fun g => { g with t1 := min g.t1 edge }

/-- Gate intervals put in among those of a beam, in order of their opening. -/
def Beam.insertGates (b : Beam) (gs : List GateInt) : Beam :=
  { b with gates := sortBy (fun (x y : GateInt) => x.t0 ≤ y.t0) (b.gates ++ gs) }

/-- The same for a line that is composed: an interval that reaches the next one runs on into it, whosever it is (R104, R139). -/
def Beam.mergeGates (b : Beam) (gs : List GateInt) : Beam :=
  let b := b.insertGates gs
  { b with gates := b.gates.foldl (fun acc g =>
      match acc.getLast? with
      | some p =>
        if p.t1 ≥ g.t0 && !p.closed && !g.opened && !b.provisional p && !b.provisional g then
          acc.dropLast ++ [{ p with t1 := max p.t1 g.t1 }]
        else acc ++ [g]
      | none => [g]) [] }

/-! ## Planning lines (R140, R144-R147) -/

/-- The command whose vectors or lines the planner plans next. -/
def Beam.planCmd (b : Beam) : Option ExpCmd := b.cmds.find? fun c => !c.planned

/-- The descriptor of a raster command: a push's own, a run's active one. -/
def Beam.descFor (b : Beam) (ord : Nat) : Option (List Byte) :=
  match b.cmds.find? fun c => c.ord = ord with
  | some c => (match c.kind with | .rasPush d => some d | .rasRun => b.ras.active | _ => none)
  | none => none

/-- A line's way as the planner takes it: its ends, what a run-in and a run-out add to them, and their times (R106, R139). -/
structure LineWay where
  a : Int × Int
  z : Int × Int
  inn : Int × Int
  out : Int × Int
  inNs : Nat
  outNs : Nat

def lineWay (e : Env) (d : List Byte) (row : Nat) : LineWay :=
  let (a, z) := rdLine d row
  if bit (rdFlags d) 3 then
    let (dx, dy) := (z.1 - a.1, z.2 - a.2)
    ⟨a, z, along dx dy ((e.skyIn * 1000 * fine : Nat) : Int), along dx dy ((e.skyOut * 1000 * fine : Nat) : Int),
      roundDivNat (2 * e.skyIn * 10 ^ 9) e.markSpd, roundDivNat (2 * e.skyOut * 10 ^ 9) e.markSpd⟩
  else ⟨a, z, (0, 0), (0, 0), 0, 0⟩

/-- The turnaround or blanking to the start of a line, or of its run-in (R140). -/
def Beam.turnTo (b : Beam) (e : Env) (w : LineWay) : Beam :=
  b.junction e .raster (w.a.1 - w.inn.1) (w.a.2 - w.inn.2) (w.z.1 - w.a.1) (w.z.2 - w.a.2) b.vids

/-- The delays and speeds a raster line is planned with. -/
def State.lineEnv (s : State) (n : Nat) (d : List Byte) : Env := { s.envOf n (rdSet d) with markSpd := rdSpeed d }

/-- A line from where its run-in begins, with the gates that the buffer gives it now. -/
def State.layLine (s : State) (n : Nat) (b : Beam) (c : RecCtx) (e : Env) (w : LineWay) (row : Nat) (d : List Byte)
    (edge : TS) : Beam :=
  let sky := bit (rdFlags d) 3
  let vid := b.vids
  let b := if sky then b.addSeg .accel w.a.1 w.a.2 w.inNs vid else b
  let t0 := b.plan.tEnd
  let b := b.addSeg .line w.z.1 w.z.2 (rdW d * rdPeriod d) vid
  let t1 := b.plan.tEnd
  let px := (s.lineFromBuffer n d c.ord row).out
  let gs := lineGates px (rdPeriod d) t0 (if sky then 0 else e.on) (if sky then 0 else e.off) vid none
  let b := b.insertGates gs
  let off := gs.foldl (fun (m : Int) (g : GateInt) => max m g.t1) t1
  let b := b.addVec c .raster row t0 (rdSpeed d) true row edge
  let b := if sky then b.addSeg .decel (w.z.1 + w.out.1) (w.z.2 + w.out.2) w.outNs vid else b
  { b with plan := { b.plan with
      cx := w.z.1, cy := w.z.2, prev := .raster, prevVid := vid, chainOpen := false,
      cands := b.plan.cands ++ [if sky then b.plan.tEnd else off] } }

def State.lineCtx (s : State) (ord : Nat) (d : List Byte) : RecCtx :=
  ⟨s.wgrid, ord, rdTag d, ord, rdSet d, bit (rdFlags d) 1, bit (rdFlags d) 0, false, 0, 0⟩

/-- Plan one line of command mode: its turnaround, and the line behind it (R144). -/
def State.planLine (s : State) (n ord row : Nat) (d : List Byte) : State :=
  let e := s.lineEnv n d
  let w := lineWay e d row
  let c := s.lineCtx ord d
  let b := (s.beam n).turnTo e w
  let b := b.beginMark c ((w.inNs : Int) + (if bit (rdFlags d) 3 then 0 else e.on))
  let b := s.layLine n b c e w row d 0
  s.updBeam n fun _ => b.updCmd ord fun c => { c with recNo := row + 1 }

/-- In line sync the turnaround to a line's start is planned at once, and the path stands behind it until the line's edge: the end
of the turnaround is where it may wait (R140, R145; log entry 77). -/
def State.planTurn (s : State) (n row : Nat) (d : List Byte) : State :=
  let e := s.lineEnv n d
  let w := lineWay e d row
  s.updBeam n fun b =>
    let b := (b.endChain s.wgrid).turnTo e w
    let b := b.pauseAt s.wgrid b.plan.tEnd
    { b with
      plan := { b.plan with prev := .raster }
      ras := { b.ras with turned := some row } }

/-- Plan the line of an edge: its first pixel begins at `start`. None where the turnaround before it ends later, or its run-in would
have to begin behind the interpolation front (R147, log entry 77). The line is a segment of its own, behind the wait for its start
(R167). -/
def State.planSyncLine (s : State) (n ord row : Nat) (d : List Byte) (start : Int) (edge : TS) : Option State :=
  let b := s.beam n
  let e := s.lineEnv n d
  let w := lineWay e d row
  let c := s.lineCtx ord d
  let go := start - (w.inNs : Int)
  if go < b.plan.tEnd ∨ b.ras.turned ≠ some row then none
  else
    let b := b.addWait (go - b.plan.tEnd).toNat b.vids
    let b := b.pauseAt c.grid go
    let b := s.layLine n b c e w row d edge
    let b := b.endChain c.grid
    let s := s.updBeam n fun _ => b.updCmd ord fun c => { c with recNo := row + 1 }
    some (if row + 1 < rdH d then s.planTurn n (row + 1) d else s)

/-- The number of the region of a command's lines: that of the open region, or of the one that begins next (R143). -/
def State.regionOf (s : State) (n ord : Nat) : Nat :=
  let r := (s.beam n).ras
  s.rg P.BEAM_RAS_REGION_NO n + (if r.regionOpen && r.regionOrd = ord then 0 else 1)

/-- The first line of a region starts on the laser timeline at t: blanking ends, the region is begun (R143, R151). -/
def State.startRegion (s : State) (n : Nat) (d : List Byte) (ord : Nat) (t : TS) : State :=
  let r := (s.beam n).ras
  if r.regionOpen && r.regionOrd = ord then s
  else
    let s := s.bump P.BEAM_RAS_REGION_NO n
    let s := s.updBeam n fun b => { b with ras := { b.ras with regionOpen := true, regionOrd := ord, blanking := false } }
    s.recordAt (s.beamSrc n) 0x1101
      (le 4 (rdTag d) ++ le 4 (s.rg P.BEAM_RAS_REGION_NO n) ++ le 4 (rdPower d) ++ le 4 (rdMod d) ++ le 1 0) t

/-- A line is skipped (R147, R167): the counter advances, its rows leave the buffer, and a record gives the cause. -/
def State.skipLine (s : State) (n : Nat) (d : List Byte) (ord row cause : Nat) (edge : TS) : State :=
  let s := s.startRegion n d ord s.now
  let s := if cause = 1 then s.bump P.BEAM_RAS_SYNC_MISS n else s
  let s := s.updBeam n fun b => { b with ras := { b.ras with
    skipped := b.ras.skipped + 1
    bufRows := b.ras.bufRows.filter fun k => k % 65536 ≠ row || (b.descFor (k / 65536)) ≠ some d } }
  s.record (s.beamSrc n) 0x1104
    (le 4 (rdTag d) ++ le 4 (s.rg P.BEAM_RAS_REGION_NO n) ++ le 2 row ++ le 1 cause ++ zeros 1 ++ le 8 edge)

/-- Serve the waiting edges of a beam's run, in order: each starts the next line at its stamp plus RAS_SYNC_DLY. -/
def State.rasEdges (s : State) (n : Nat) : Nat → State
  | 0 => s
  | fuel + 1 =>
    let b := s.beam n
    match b.ras.edges, b.planCmd, b.ras.active with
    | e :: rest, some c, some d =>
      if c.kind ≠ .rasRun ∨ !c.begun ∨ c.recNo ≥ rdH d ∨ !(b.ras.blanking || b.ras.regionOpen) then s
      else
        let s := s.updBeam n fun b => { b with ras := { b.ras with edges := rest } }
        let start : Int := ((e + s.rg P.BEAM_RAS_SYNC_DLY n : Nat) : Int)
        let s := match s.planSyncLine n c.ord c.recNo d start e with
          | some s => s
          | none =>
            let s := s.updBeam n fun b => b.updCmd c.ord fun c => { c with recNo := c.recNo + 1 }
            let s := s.skipLine n d c.ord c.recNo 1 e
            if c.recNo + 1 < rdH d then s.planTurn n (c.recNo + 1) d else s
        s.rasEdges n fuel
    | _, _, _ => s

/-- An edge or a crossing for a beam (R145-R147); ignored while no RASTER_RUN is running,
or while its region lies outside the field. -/
def State.rasEdge (s : State) (n : Nat) (stamp : TS) : State :=
  let b := s.beam n
  match b.cmds.find? fun c => c.begun && c.kind == .rasRun with
  | none => s
  | some _ =>
    if b.st ≠ 3 ∨ b.ras.outside then s
    else
      let s := s.updBeam n fun b => { b with ras := { b.ras with edges := b.ras.edges ++ [stamp] } }
      s.rasEdges n (b.ras.edges.length + 1)

/-- R167: the segment of a sync-mode line is not granted when interpolation must begin its first step: the line goes, its request is
withdrawn, and the path stays where it stands. Lines of later edges are planned anew from there; one whose turnaround is now too long
is missed (R147). -/
def State.dropLine (s : State) (n : Nat) (w : WSeg) : State :=
  let b := s.beam n
  match b.vecs.find? fun v => v.kind == .raster && !v.done && w.t0 ≤ v.t0 && v.t0 < w.t1 with
  | none => s
  | some v =>
    match b.descFor v.ord with
    | none => s
    | some d =>
      let (hx, hy) := b.fineAt w.t0
      let later := b.vecs.filter fun u => u.vid > v.vid
      let s := s.updBeam n fun b =>
        { b with
          segs := b.segs.filter fun g => g.a < w.t0
          gates := b.gates.filter fun g => g.vid < v.vid
          vecs := b.vecs.filter fun u => u.vid < v.vid
          wsegs := b.wsegs.filter fun u => u.t0 < w.t0
          plan := { b.plan with
            hx := hx, hy := hy, cx := hx, cy := hy, prev := .raster, cands := [], tEnd := w.t0, segStart := w.t0 } }
      let s := s.skipLine n d v.ord v.row 2 v.edge
      let next := match later with | u :: _ => u.row | [] => v.row + 1
      let s := if next < rdH d then s.planTurn n next d else s
      later.foldl (fun s u =>
        let s := if (s.beam n).ras.turned = some u.row then s else s.planTurn n u.row d
        match s.planSyncLine n u.ord u.row d u.t0 u.edge with
        | some s => s
        | none =>
          let s := s.skipLine n d u.ord u.row 1 u.edge
          if u.row + 1 < rdH d then s.planTurn n (u.row + 1) d else s) s

/-! ## Resolving a line before it is composed (R148, R149) -/

/-- Fix the pixels and gate intervals of a line whose composition begins: what the buffer does not hold is repeated or
clamped; what is shorter than GATE_MIN is omitted (R139). -/
def State.resolveLine (s : State) (n : Nat) (v : VecInfo) : State :=
  let b := s.beam n
  match b.descFor v.ord with
  | none => s
  | some d =>
    let held := b.ras.bufRows.contains (bufKey v.ord v.row)
    let a := if held then s.lineFromBuffer n d v.ord v.row else lineMissing d
    let e := s.envOf n (rdSet d)
    let sky := bit (rdFlags d) 3
    let own := lineGates a.out (rdPeriod d) v.t0 (if sky then 0 else e.on) (if sky then 0 else e.off) v.vid a.clamp
    let s := s.updBeam n fun b =>
      let b := { b with
        gates := b.gates.filter fun g => g.vid ≠ v.vid
        vecs := b.vecs.map fun (u : VecInfo) => if u.vid = v.vid then { u with resolved := true } else u
        ras := { b.ras with cache := b.ras.cache ++ [(v.vid, a.out)], repeated := b.ras.repeated + a.repeats } }
      b.mergeGates own
    let s := s.omitGates n ((s.beam n).gates.filter fun g => g.vid = v.vid && s.gateShort n g)
    let s := s.bumpBy P.BEAM_RAS_UNDERRUN n a.repeats
    match a.clamp with
    | none => s
    | some k =>
      let s := s.bump P.BEAM_RAS_CLAMP n
      let s := s.updBeam n fun b => { b with ras := { b.ras with clamped := b.ras.clamped + 1 } }
      -- a limit reached at the last pixel forces none off: the field then reads W
      let first := if a.missing then 0 else if k ≥ rdW d then rdW d else rdPixelAt d v.row k
      s.record (s.beamSrc n) 0x1103
        (le 4 v.tag ++ le 4 (s.regionOf n v.ord) ++ le 2 v.row ++ le 2 first ++ le 2 (rdW d - k))

/-- R150: the power scale and the shapes of the pixel at place k of a line: those it began with, else those in effect when it begins. -/
def State.pixelScale (s : State) (n : Nat) (v : VecInfo) (k : Nat) (period : Nat) : Nat × List Nat :=
  let r := (s.beam n).ras
  if r.pix = some (v.vid, k) then (r.pixScale, r.pixShapes)
  else if v.t0 + ((k * period : Nat) : Int) < (r.scaleAt : Int) then (r.oldScale, r.oldShapes)
  else (s.rg P.BEAM_RAS_PSCALE n, (List.range 4).map fun i => s.rg (P.BEAM_RAS_SHAPE + i) n)

/-- The place of the pixel under the path point of a line at time t. -/
def pixelPlace (d : List Byte) (v : VecInfo) (t : Int) : Nat := min ((max 0 (t - v.t0)).toNat / rdPeriod d) (rdW d - 1)

/-- A write of RAS_PSCALE or RAS_SHAPE takes effect: pixels begun before it keep what was in effect. -/
def State.scaleWrite (s : State) (n pid v : Nat) : State :=
  let shapes := (List.range 4).map fun i => s.rg (P.BEAM_RAS_SHAPE + i) n
  let r := (s.beam n).ras
  let s := if r.scaleAt = s.now then s
    else s.updBeam n fun b => { b with ras := { b.ras with scaleAt := s.now, oldScale := s.rg P.BEAM_RAS_PSCALE n, oldShapes := shapes } }
  s.setReg pid v

/-- R138: base power (24 bits), focus offset and pulse width of a step at time t of a raster line. The two divisions are made as one,
rounded down (log entry 110). -/
def State.rasterStep (s : State) (n : Nat) (v : VecInfo) (t : Int) : Nat × Int × Nat :=
  let b := s.beam n
  match b.descFor v.ord with
  | none => (0, 0, 0)
  | some d =>
    let px := (assocGet b.ras.cache v.vid).getD []
    let k := pixelPlace d v t
    let p := px.getD k 0
    let (f, sh) := s.modPixel d v.row (rdPixelAt d v.row k)
    let (scale, shapes) := s.pixelScale n v k (rdPeriod d)
    let shape := shapes.getD sh 0
    let b16 := p * 16 + p / 256
    let b16 := min 65535 (b16 * scale * (shape % 65536) / (32768 * 32768))
    (power24 b16, f * (s.rg P.BEAM_RAS_MOD_Z n : Int), shape / 65536)

/-! ## The line buffer (R148) -/

/-- Bytes a buffered row takes: a power row, and for an even row its modifier row. -/
def rowBytes (d : List Byte) (row : Nat) : Nat :=
  (3 * rdW d + 1) / 2 + (if rdMod d ≠ noAcc && row % 2 = 0 then (rdW d + 1) / 2 else 0)

def Beam.bufFill (b : Beam) : Nat :=
  (b.ras.bufRows.map fun k => match b.descFor (k / 65536) with | some d => rowBytes d (k % 65536) | none => 0).sum

/-- The next row that the line buffer fetches for a command: that of a line still to be planned or exposed, not of one that is done or
skipped (R147, R148). -/
def Beam.nextRow (b : Beam) (c : ExpCmd) : Nat :=
  let live (r : Nat) : Bool := b.vecs.any fun v => v.ord = c.ord && v.kind == .raster && v.row = r && !v.done
  (((List.range (c.recNo - c.fetched)).map fun i => c.fetched + i).find? live).getD (max c.fetched c.recNo)

/-- LINE_BUFFER_FILL: the next whole row of the first latched region that has rows to fetch and room for one. -/
def State.lineBufferFill (s : State) (n : Nat) : State :=
  let b := s.beam n
  let cand := b.cmds.find? fun c =>
    match c.kind, b.descFor c.ord with
    | .rasPush _, some d => c.recNo > 0 && b.nextRow c < rdH d
    | .rasRun, some d => c.begun && b.nextRow c < rdH d
    | _, _ => false
  match cand with
  | none => s
  | some c =>
    match b.descFor c.ord with
    | none => s
    | some d =>
      let row := b.nextRow c
      if b.bufFill + rowBytes d row > 16384 then s
      else
        let stride := s.memNat (rdPower d) 8 4
        let s := s.readLines (rdPower d) (16 + stride * row) ((3 * rdW d + 1) / 2)
        let s := if rdMod d = noAcc ∨ row % 2 = 1 then s
          else s.readLines (rdMod d) (16 + s.memNat (rdMod d) 8 4 * (row / 2)) ((rdW d + 1) / 2)
        s.updBeam n fun b =>
          let b := b.updCmd c.ord fun c => { c with fetched := row + 1 }
          { b with ras := { b.ras with bufRows := b.ras.bufRows ++ [bufKey c.ord row] } }

/-! ## Blanking and the end of a region (R140, R142, R151) -/

/-- A raster command goes: loans return, and the run's active set is dropped. -/
def State.endRaster (s : State) (n : Nat) (c : ExpCmd) : State :=
  let s := s.returnLoans c.loans
  let s := match c.kind, (s.beam n).ras.active with
    | .rasRun, some d => s.returnLoans (descLoans d)
    | _, _ => s
  s.updBeam n fun b =>
    { b with
      cmds := b.cmds.filter fun x => x.ord ≠ c.ord
      ras := { b.ras with
        active := if c.kind == .rasRun then none else b.ras.active
        edges := if c.kind == .rasRun then [] else b.ras.edges
        blanking := false
        regionOpen := false
        outside := false
        turned := none
        bufRows := b.ras.bufRows.filter fun k => k / 65536 ≠ c.ord } }

/-- RAS_REGION with cause 1 (R142). -/
def State.regionOutside (s : State) (n : Nat) (d : List Byte) : State :=
  s.record (s.beamSrc n) 0x1101
    (le 4 (rdTag d) ++ le 4 (s.rg P.BEAM_RAS_REGION_NO n) ++ le 4 (rdPower d) ++ le 4 (rdMod d) ++ le 1 1)

/-- RASTER_BLANKING of a run, whose blanking began where its last line ended: halts act; the pending set, if written since the last blanking, becomes the active one. A region outside
the field is recorded once and not exposed: the run waits for the next descriptor. -/
def State.blankRun (s : State) (n : Nat) (c : ExpCmd) : State :=
  let b := s.beam n
  let halts := b.ras.halts.filter fun h => h.ord > c.ord
  let start := match b.ras.endAt with | some t => t.toNat | none => s.now
  let s := s.updBeam n fun b => { b with ras := { b.ras with endAt := none } }
  if halts ≠ [] then
    let s := halts.foldl (fun s h => s.decide h.k rOK start (le 4 (s.rg P.BEAM_RAS_REGION_NO n))) s
    let s := s.updBeam n fun b => { b with ras := { b.ras with halts := b.ras.halts.filter fun h => h.ord ≤ c.ord } }
    s.endRaster n c
  else
    let s := if b.ras.pendingFresh then
        let s := match b.ras.active with | some d => s.returnLoans (descLoans d) | none => s
        s.updBeam n fun b =>
          { b with ras := { b.ras with active := b.ras.pending, pendingFresh := false, pending := none, outside := false } }
      else s
    match (s.beam n).ras.active with
    | none => s
    | some d =>
      if (s.beam n).ras.outside then s
      else if !s.regionInField n d then
        (s.regionOutside n d).updBeam n fun b => { b with ras := { b.ras with outside := true, edges := [] } }
      else
        let s := s.updBeam n fun b =>
          let b := b.updCmd c.ord fun c => { c with recNo := 0, fetched := 0 }
          { b with ras := { b.ras with
            blanking := true, exposed := 0, skipped := 0, clamped := 0, repeated := 0
            bufRows := b.ras.bufRows.filter fun k => k / 65536 ≠ c.ord } }
        let s := s.planTurn n 0 d
        s.rasEdges n ((s.beam n).ras.edges.length + 1)

/-- RASTER_BLANKING of a push: its descriptor is latched and checked against the field; its first line is planned. -/
def State.blankPush (s : State) (n : Nat) (c : ExpCmd) (d : List Byte) : State :=
  if c.recNo > 0 then s
  else if !s.regionInField n d then (s.regionOutside n d).endRaster n c
  else s.planLine n c.ord 0 d

def State.rasterBlanking (s : State) (n : Nat) : State :=
  let b := s.beam n
  if b.st ≠ 3 then s
  else match b.planCmd with
  | none => s
  | some c =>
    match c.kind with
    | .rasRun =>
      let past : Bool := match b.ras.endAt with | some t => t ≤ s.laserNow n / 2 * 2 + 1 | none => true
      if c.begun && !b.ras.regionOpen && !b.ras.blanking && b.vecs.all (·.done) && past then s.blankRun n c else s
    | .rasPush d => s.blankPush n c d
    | _ => s

/-- RAS_REGION_END: every line of the region has been exposed or skipped. -/
def State.regionEnd (s : State) (n : Nat) : State :=
  let b := s.beam n
  match b.cmds.find? fun c => c.begun && (match c.kind with | .rasRun | .rasPush _ => true | _ => false) with
  | none => s
  | some c =>
    match b.descFor c.ord with
    | none => s
    | some d =>
      if !b.ras.regionOpen ∨ b.ras.exposed + b.ras.skipped < rdH d then s
      else
        let r := b.ras
        let s := s.record (s.beamSrc n) 0x1102
          (le 4 (rdTag d) ++ le 4 (s.rg P.BEAM_RAS_REGION_NO n) ++ le 2 r.exposed ++ le 2 r.skipped ++ le 2 r.clamped ++
            le 4 r.repeated)
        let s := s.updBeam n fun b => { b with ras := { b.ras with regionOpen := false, cache := [] } }
        match c.kind with
        | .rasPush _ =>
          let s := s.updBeam n fun b => { b with ras := { b.ras with exposed := 0, skipped := 0, clamped := 0, repeated := 0 } }
          s.endRaster n c
        | _ => s

/-- A region whose command has been cancelled is over: the run's active planes are returned. -/
def State.tidyRaster (s : State) (n : Nat) : State :=
  let b := s.beam n
  let run := b.cmds.any fun c => c.kind == .rasRun
  let any := b.cmds.any fun c => match c.kind with | .rasRun | .rasPush _ => true | _ => false
  -- a halt whose run has gone changes nothing any more (R143)
  let s := if run ∨ b.ras.halts = [] then s
    else (b.ras.halts.foldl (fun s h => s.decide h.k rOK s.now (le 4 (s.rg P.BEAM_RAS_REGION_NO n))) s).updBeam n fun b =>
      { b with ras := { b.ras with halts := [] } }
  let s := match b.ras.active with
    | some d => if run then s else (s.returnLoans (descLoans d)).updBeam n fun b => { b with ras := { b.ras with active := none, edges := [], outside := false, turned := none } }
    | none => s
  if any then s
  else s.updBeam n fun b => { b with ras := { b.ras with blanking := false, regionOpen := false, bufRows := [], cache := [] } }

/-! ## Commands (R141, R143, R151) -/

/-- A blanking that starts in the EXP cycle of now, or has started, is under way before a command acts (R143, R151). -/
def State.blankingDue (s : State) (n : Nat) : State :=
  ((s.finishVecs n (s.laserNow n / 2 * 2 + 1)).regionEnd n).rasterBlanking n

/-- A run is in blanking: up to the EXP cycle in which its next line begins (R151). -/
def State.inBlanking (s : State) (n : Nat) : Bool :=
  let b := s.beam n
  b.ras.blanking && !(b.vecs.any fun v => v.kind == .raster && !v.done && v.t0 / 2 ≤ s.laserNow n / 2)

def State.bodyRasterCommit (c : Ctx) (s : State) : State :=
  let n := c.beam
  let d := c.payload
  let src := s.rg P.BEAM_RAS_SRC n
  let bad := if n ≥ s.nBeams then some rBADPARAM else s.descBad d
  let bad := match bad with | some r => some r | none => if src = 0 then some rBADSTATE else none
  s.unless c bad fun s =>
    let s := s.blankingDue n
    let b := s.beam n
    let s := s.takeLoans (descLoans d)
    let next := s.rg P.BEAM_RAS_REGION_NO n + (if s.inBlanking n then 2 else 1)
    let s := match b.ras.pending with
      | some old =>
        if b.ras.pendingFresh then
          (s.returnLoans (descLoans old)).record (s.beamSrc n) 0x1105
            (le 4 next ++ le 4 (rdPower old) ++ le 4 (rdMod old) ++ le 4 b.ras.pendingSeq)
        else s
      | none => s
    let s := s.updBeam n fun b => { b with ras := { b.ras with pending := some d, pendingSeq := c.seq, pendingFresh := true } }
    s.decide c.k (if s.inBlanking n then rDEFERRED else rOK) s.now (le 4 next)

def State.bodyRasterRun (c : Ctx) (s : State) : State :=
  let n := c.beam
  let b := s.beam n
  let need := (s.rg P.BEAM_ADV n + 22) * 256
  s.unless c (firstBad
    [(n ≥ s.nBeams, rBADPARAM), (s.rg P.BEAM_RAS_SRC n = 0, rBADSTATE), (b.closed, rBADSTATE),
     (s.rg P.BEAM_RAS_SRC n = 2 && (s.xy2Of n).isSome, rBADSTATE), (!b.ras.pendingFresh, rBADSTATE),
     (s.rg P.BEAM_RAS_SYNC_DLY n < need, rBADSTATE)]) fun s =>
    s.enqueue c (u32 c.payload 0) .rasRun

def State.bodyRasterHalt (c : Ctx) (s : State) : State :=
  let n := c.beam
  let b := s.beam n
  if n ≥ s.nBeams then s.reject c rBADPARAM
  else if s.rg P.BEAM_RAS_SRC n = 0 then s.reject c rBADSTATE
  else if !(b.cmds.any fun x => x.kind == .rasRun) then s.ok c (le 4 (s.rg P.BEAM_RAS_REGION_NO n))
  else (s.blankingDue n).updBeam n fun b =>
    { b with ras := { b.ras with halts := b.ras.halts ++ [⟨false, false, 0, c.sess, c.stream, c.seq, c.ord, false, none⟩] } }

def State.bodyRasterPush (c : Ctx) (s : State) : State :=
  let n := c.beam
  let bad := if n ≥ s.nBeams then some rBADPARAM else s.descBad c.payload
  let bad := match bad with
    | some r => some r
    | none => firstBad [(s.rg P.BEAM_RAS_SRC n ≠ 0, rBADSTATE), ((s.beam n).closed, rBADSTATE)]
  s.unless c bad fun s => (s.takeLoans (descLoans c.payload)).enqueue c (rdTag c.payload) (.rasPush c.payload)

/-- A raster command queued or running (R170). -/
def State.rasterBusy (s : State) (n : Nat) : Bool :=
  (s.beam n).cmds.any fun c => match c.kind with | .rasRun | .rasPush _ => true | _ => false

end Sys2Proof.Machine
end

