-- ==== Sys2Proof/Machine/BeamTick.lean ====
section
/-!
DEFINITION. What a beam cell does on its own: fetching and planning records (R91-R107), beginning and ending commands
(R96, R133), and one micro-step of its two timelines (R90, R91, R113-R117, R126, R128, R166).
-/
namespace Sys2Proof.Machine

open Sys2Proof

/-! ## Beginning and ending commands -/

/-- The command that would begin next: every earlier one has gone (R96). -/
def Beam.nextCmd (b : Beam) : Option ExpCmd :=
  match b.cmds with
  | c :: _ => if c.begun then none else some c
  | [] => none

/-- R96, R130, R35: whether beam n may begin exposure now. -/
def State.mayBegin (s : State) (n : Nat) : Bool :=
  let b := s.beam n
  match b.nextCmd with
  | none => false
  | some c => (b.st = 2 || b.st = 3) && s.intCause n = 0 && !(b.ctl.any fun k => k.ord < c.ord)

/-- LIST_START (R133). -/
def State.listStart (s : State) (n : Nat) (c : ExpCmd) : State :=
  match c.kind with
  | .list acc off _ => s.record (s.beamSrc n) 0x1001 (le 4 c.tag ++ le 4 acc ++ le 4 off)
  | .inline _ => s.record (s.beamSrc n) 0x1001 (le 4 c.tag ++ le 4 noAcc ++ le 4 0)
  | _ => s

/-- The first interpolation step that can still be made: that of this micro-step, or of the next once this one has been. -/
def State.stepFront (s : State) (n : Nat) : Int :=
  (if s.micro = s.now then s.nextStep else ((s.now / 256 * 256 : Nat) : Int)) + (((s.rg P.BEAM_ADV n + 20) * 256 : Nat) : Int)

/-- The next bytes a command fetches are poisoned: its first vector will not reach the ring (R356). -/
def State.fetchPoison (s : State) (c : ExpCmd) : Bool :=
  match c.kind with
  | .list acc o _ => c.fetched < c.len && (s.firstPoison acc (o + c.fetched) 8).isSome
  | _ => false

/-- R35: the first vector of a command is in the ring or planned, and the lease of the path to it is granted. A command that ends with
no vector, a mark and a raster have none to wait for. -/
def State.firstReady (s : State) (n : Nat) (c : ExpCmd) : Bool :=
  let b := s.beam n
  match c.kind with
  | .list .. | .inline .. =>
    s.fetchPoison c || (match b.wsegs with | w :: _ => w.status = 3 | [] => c.planned && b.plan.cands.isEmpty)
  | _ => true

/-- R32, R35: at least 200 ns after a request the block of a beam runs. -/
def State.beamAwake (s : State) (n : Nat) : Bool :=
  match assocGet s.blks (256 + n / 4) with
  | some b => b.clk = 2 && s.now ≥ b.askedAt + 200
  | none => true

/-- The path planned for an ARMED beam begins at path time `front` (R35). -/
def Beam.startPlan (b : Beam) (front : Int) : Beam :=
  match b.readyPlan with
  | some p => { b.shiftFrom p.tEnd (max 0 (front - p.tEnd)) with readyPlan := none, front := max p.tEnd front - 256 }
  | none => { b with plan := { b.plan with tEnd := max b.plan.tEnd front, segStart := max b.plan.tEnd front } }

/-- EXPOSE_BEGIN: the next command begins; an ARMED beam enters RUN at a control-frame boundary (R35, R126), with its
path beginning at the interpolation front. -/
def State.exposeBegin (s : State) (n : Nat) : State :=
  let b := s.beam n
  match b.nextCmd with
  | none => s
  | some c =>
    if !s.mayBegin n ∨ (b.st = 2 ∧ (s.now % 2560 ≠ 0 ∨ !s.beamAwake n ∨ !s.firstReady n c)) then s
    else
      let s := if b.st = 2 then (s.updBeam n fun b => b.startPlan (s.stepFront n)).beamTo n 3 0 else s
      let s := s.updBeam n fun b => { b.updCmd c.ord (fun c => { c with begun := true }) with tagNow := c.tag }
      let s := s.setRg P.BEAM_TAG_NOW n c.tag
      s.listStart n c

/-- LIST_END: a list or an inline command has completed (R96, R133); its loan returns. -/
def State.endList (s : State) (n : Nat) : State :=
  let b := s.beam n
  match b.cmds with
  | [] => s
  | c :: _ =>
    match c.kind with
    | .list .. | .inline .. =>
      if b.cmdDone c then
        let s := s.listEnd n c
        let s := s.returnLoans c.loans
        (s.updBeam n fun b => { b with cmds := b.cmds.drop 1 }).ctl n
      else s
    | _ => s

/-- CATALOGUE_MARK_REACHED: the laser timeline reaches a mark (R96, R133). -/
def State.markReached (s : State) (n : Nat) : State :=
  let b := s.beam n
  match b.cmds with
  | [] => s
  | c :: _ =>
    if c.kind == .mark && c.begun then
      let s := s.record (s.beamSrc n) 0x1003
        (le 4 c.tag ++ le 4 (s.rg P.BEAM_VEC_DONE n) ++ le 4 (ofSigned 32 b.px) ++ le 4 (ofSigned 32 b.py))
      (s.updBeam n fun b => { b with cmds := b.cmds.drop 1 }).ctl n
    else s

/-! ## Fetch (R91) -/

/-- Bytes in the vector ring. -/
def Beam.ringFill (b : Beam) : Nat := (b.ring.map fun r => r.data.length).sum

/-- Poison in the bytes of a record of a list. -/
def State.cmdPoison (s : State) (c : ExpCmd) (off n : Nat) : Bool :=
  match c.kind with
  | .list acc o _ => (s.firstPoison acc (o + off) n).isSome
  | _ => false

/-- VECTOR_FETCH: the next record of the first command with bytes to fetch, in ARMED too (R35). Its bytes past the end of a list, or
with a length of zero, are a malformed record that the plan stage finds (R99). Poison interrupts the beam with cause 6 (R356). -/
def State.vectorFetch (s : State) (n : Nat) : State :=
  let b := s.beam n
  if b.st ≠ 2 ∧ b.st ≠ 3 then s
  else match b.cmds.find? fun c => c.fetched < c.len with
  | none => s
  | some c =>
    let r := s.cmdBytes c c.fetched (min 8 (c.len - c.fetched))
    let len := recLen r
    let short := len = 0 ∨ c.fetched + len > c.len ∨ len > 16384
    let take := if short then min 8 (c.len - c.fetched) else len
    if b.ringFill + take > 65536 then s
    else if s.cmdPoison c c.fetched take then s.interrupt n 6
    else
      let s := match c.kind with | .list acc o _ => s.readLines acc (o + c.fetched) take | _ => s
      let v : VRec := ⟨c.ord, c.recNo + (b.ring.filter fun r => r.ord = c.ord).length, c.fetched, s.cmdBytes c c.fetched take, short⟩
      s.updBeam n fun b =>
        { b.updCmd c.ord (fun c => { c with fetched := if short then c.len else c.fetched + take }) with ring := b.ring ++ [v] }

/-! ## Plan (R91-R107) -/

/-- The list ends at its END record or at a malformed one: what follows of it leaves the ring (R99). -/
def State.endOfList (s : State) (n ord cause : Nat) : State :=
  s.updBeam n fun b =>
    { b.updCmd ord (fun c => { c with planned := true, fetched := c.len, cause := cause }) with
      ring := b.ring.filter fun r => r.ord ≠ ord }

/-- A command all of whose records have been planned. -/
def State.markPlanned (s : State) (n ord : Nat) : State :=
  s.updBeam n fun b =>
    b.updCmd ord fun c => if c.fetched ≥ c.len && !(b.ring.any fun r => r.ord = ord) then { c with planned := true } else c

/-- VEC_SKIP (R100): the record's end point as X and Y (log entry 21). -/
def State.skipRec (s : State) (n : Nat) (v : VRec) (c : ExpCmd) (cause : Nat) (e : Env) (rc : RecCtx) (fx fy side : Int) : State :=
  let b := s.beam n
  let (zx, zy) := (recExtent v.data e b.plan.cx b.plan.cy b.plan.hx b.plan.hy).2
  let s := s.updBeam n fun b => (b.planSkip e rc v.data fx fy side).updCmd c.ord fun c => { c with skipped := c.skipped + 1 }
  s.record (s.beamSrc n) 0x1007
    (le 4 c.tag ++ le 4 v.idx ++ le 1 cause ++ zeros 3 ++ le 4 (ofSigned 32 (roundDiv zx fine)) ++
      le 4 (ofSigned 32 (roundDiv zy fine)))

/-- One record of the ring through the plan stage. The byte offset of a LIST_BAD counts from the first byte of the list (log entry
108). -/
def State.planOne (s : State) (n : Nat) (v : VRec) (c : ExpCmd) : State :=
  let s := s.updBeam n fun b => { b with ring := b.ring.drop 1 }
  let s := s.updBeam n fun b => b.updCmd c.ord fun c => { c with recNo := c.recNo + 1 }
  if v.bad || recBad v.data then
    let s := s.endOfList n c.ord 2
    s.record (s.beamSrc n) 0x1008 (le 4 c.tag ++ le 4 v.off ++ (v.data ++ zeros 4).take 4)
  else if recType v.data = 0xF then s.endOfList n c.ord 1
  else
    let b := s.beam n
    let set := recSet v.data
    let e := s.envOf n set
    let fl := recFlags v.data
    let (p, z) := recPowerZ v.data
    let rc : RecCtx := ⟨s.wgrid, c.ord, c.tag, v.idx, set, bit fl 0, bit fl 1, bit fl 2, if p = 0 then e.power else p, z⟩
    let (cx, cy, f) := s.fieldOf b.fcAcc
    let vids := b.vids
    let s := match recSkip v.data e b.plan.cx b.plan.cy b.plan.hx b.plan.hy (nmF cx) (nmF cy) (nmF f) with
      | some cause => s.skipRec n v c cause e rc (nmF cx) (nmF cy) (nmF f)
      | none =>
        let s := s.updBeam n fun b => b.planRec e rc v.data
        -- a record without a vector of its own completes at once
        if (s.beam n).vids = vids then s.updBeam n fun b => b.updCmd c.ord fun c => { c with exposed := c.exposed + 1 } else s
    (s.omitShort n false).markPlanned n c.ord

/-- The path of an ARMED beam is planned from a place of its own, and moved to the interpolation front when exposure begins (R35). -/
def State.planArmed (s : State) (n : Nat) : State :=
  let b := s.beam n
  if b.st ≠ 2 ∨ b.readyPlan.isSome then s
  else
    let front := s.pathFront n
    let p := { b.plan with tEnd := front, segStart := front }
    s.updBeam n fun b => { b with readyPlan := some p, plan := p, front := front }

/-- Nothing is queued behind the last vector: it ends its chain (R98). -/
def State.noneBehind (s : State) (n : Nat) : State := (s.updBeam n fun b => b.endChain s.wgrid).omitShort n true

/-- VECTOR_PLAN: the next record of the ring, or the next line of a pushed region; with nothing queued behind, the last
vector ends its chain (R98). -/
def State.vectorPlan (s : State) (n : Nat) : State :=
  let b := s.beam n
  if b.st ≠ 2 ∧ b.st ≠ 3 then s
  else match b.planCmd with
  | none => s.noneBehind n
  | some c =>
    match c.kind with
    | .rasPush d =>
      if c.recNo = 0 ∨ b.st = 2 then s
      else
        let s := if c.recNo < rdH d then s.planLine n c.ord c.recNo d else s
        s.updBeam n fun b => b.updCmd c.ord fun c => if c.recNo ≥ rdH d then { c with planned := true } else c
    | .rasRun => if c.begun then s else s.noneBehind n
    | .mark => s.updBeam n fun b => b.updCmd c.ord fun c => { c with planned := true }
    | _ =>
      let s := s.planArmed n
      match b.ring with
      | v :: _ => if v.ord = c.ord then s.planOne n v c else s
      | [] => s.markPlanned n c.ord

/-! ## The interpolation front (R91, R156, R160, R166, R167) -/

/-- Where the interpolation must stop: the start of the first segment not granted, or the last pause point fixed. -/
def Beam.limit (b : Beam) : Int :=
  match b.wsegs.find? fun w => w.status ≠ 3 with
  | some w => w.t0
  | none => b.plan.segStart

/-- A line in sync mode (R167). -/
def State.syncMode (s : State) (n : Nat) : Bool := s.rg P.BEAM_RAS_SRC n ≠ 0

/-- The focus offset of path time f: that of the vector under it, of its run-in or run-out; for a raster line the modifier plane's
(R111, R138). In a wait between two vectors it is 0 (log entry 104). -/
def State.focusAt (s : State) (n : Nat) (f : Int) : Int :=
  let b := s.beam n
  let run : Option VecInfo := match segAt b.segs f with
    | some g => if (g.shape == .accel || g.shape == .decel) && f < g.b then b.vecs.find? fun v => v.vid = g.vid else none
    | none => none
  match (b.vecs.find? fun v => v.t0 ≤ f && f < v.t1 && v.kind != .jump) with
  | some v =>
    if v.kind == .raster then
      match b.descFor v.ord with
      | some d => (s.modPixel d v.row (rdPixelAt d v.row (pixelPlace d v f))).1 * (s.rg P.BEAM_RAS_MOD_Z n : Int)
      | none => 0
    else v.z
  | none => (run.map (·.z)).getD 0

/-- The focus setpoint at path time f, `mf` being the one mapped there: on the way to park it runs in a straight line to PARK_Z
(R240, log entry 85). -/
def State.parkFocus (s : State) (n : Nat) (f mf : Int) : Int :=
  match (s.beam n).shut with
  | some h =>
    let z := toSigned 24 (s.rg P.HP_PARK_Z n)
    if h.parkT.isNone ∨ f ≤ h.parkFrom then mf
    else if f ≥ h.parkTo then z
    else roundDiv (mf * (h.parkTo - f) + z * (f - h.parkFrom)) (h.parkTo - h.parkFrom).toNat
  | none => mf

/-- Interpolate path step f: bed point, Gallery factor, head setpoint. -/
def State.interpolate (s : State) (n : Nat) (f : Int) : State :=
  let (x, y) := (s.beam n).nmAt f
  let (g, s) := s.galFactor n x y
  let (mx, my, mf) := s.mapPoint n x y (s.focusAt n f)
  let mf := s.parkFocus n f mf
  s.updBeam n fun b => { b with front := f, ahead := b.ahead ++ [⟨f, x, y, g, mx, my, mf⟩] }

/-- The front stands at the pause point `lim`: what is planned behind it moves on, and the head is sent to that point once. -/
def State.frontStand (s : State) (n : Nat) (f lim : Int) (held : Bool) : State :=
  let first : Bool := (s.beam n).front + 256 > lim && (s.beam n).front < lim
  let s := s.updBeam n fun b =>
    { b.shiftFrom lim (f + 256 - lim) with hold := if held && b.hold.isNone then some lim else b.hold }
  if first then s.interpolate n f else s.updBeam n fun b => { b with front := f }

/-- One micro-step of the interpolation front, to path step f. A line in sync mode whose segment is not granted when its first step is
due is dropped (R167). -/
def State.frontGo (s : State) (n : Nat) (f : Int) : Nat → State
  | 0 => s
  | fuel + 1 =>
    let b := s.beam n
    let lim := b.limit
    if f < lim then s.interpolate n f
    else
      match b.wsegs.find? fun w => w.status ≠ 3 with
      | some w =>
        if s.syncMode n && b.vecs.any (fun v => v.kind == .raster && !v.done && w.t0 ≤ v.t0 && v.t0 < w.t1) then
          (s.dropLine n w).frontGo n f fuel
        else s.frontStand n f lim true
      | none => s.frontStand n f lim false

/-- The front never goes back: with a shorter lookahead it waits until the laser timeline has caught up (R91). -/
def State.frontStep (s : State) (n : Nat) (t : Int) : State :=
  let f := t + (((s.rg P.BEAM_ADV n + 20) * 256 : Nat) : Int)
  if f ≤ (s.beam n).front then s else s.frontGo n f ((s.beam n).vecs.length + 1)

/-! ## Power of a step (R113, R115, R138) -/

/-- What the power of the steps so far leaves for the next: base at the last gate-open step, its vector, and the base at
the end of the marking vector before. -/
structure PowAcc where
  lastBase : Nat
  lastVid : Nat
  prevBase : Nat

/-- Gate intervals that reach into the step at t and have not been closed. -/
def Beam.liveGates (b : Beam) (t : Int) : List GateInt := b.gates.filter fun g => g.t0 < t + 256 && t < g.t1 && !g.closed

/-- Opening edges wait for SYNC_IN (R117). -/
def State.syncWaits (s : State) (n : Nat) : Bool := s.rg P.LSR_SYNC_EN n = 1 && s.rg P.LSR_MODE n ≠ 2

/-- Power of the gate-open step t of gate interval g. The p_prev of R113 is the base power of the vector before, not yet times its
Gallery factor (log entry 83). -/
def State.openPower (s : State) (n : Nat) (a : PowAcc) (g : GateInt) (t : Int) : Nat × PowAcc :=
  let b := s.beam n
  match b.vecAt g (max t g.t0) with
  | none => (0, a)
  | some v =>
    let prev := if v.vid = a.lastVid then a.prevBase else a.lastBase
    let raw := if v.kind == .raster then (s.rasterStep n v t).1 else power24 v.power
    let first := (v.t0 + 255) / 256
    let last := (v.t1 + 255) / 256 - 1
    let m := (max 1 (last - first + 1)).toNat
    let k := (clampInt 0 ((m : Int) - 1) (t / 256 - first)).toNat
    let ramped := if v.ramp then (roundDiv ((prev : Int) * m + ((raw : Int) - prev) * (k + 1)) m).toNat else raw
    let gal := ((b.ahead.find? fun q => q.t = t).map (·.g)).getD fOne
    let corr := corrAt b.laser.cPrev b.laser.cNow (t.toNat % 2560 / 256)
    (composePower raw prev v.ramp v.gff v.cl k m gal corr (s.rg P.BEAM_P_MAX n), ⟨ramped, v.vid, prev⟩)

/-- Power setpoint of step t (R115). While the gate is closed in RUN it is that of the next gate-open step. In a NOW ramp of n steps
step k has (n - 1 - k) / n of the power the timeline gives it, rounded down (R128, log entry 78). -/
def State.powerAt (s : State) (n : Nat) (a : PowAcc) (t : Int) : Nat × PowAcc :=
  let b := s.beam n
  let here := b.liveGates t
  match b.st, here, b.shut with
  | 3, g :: _, _ => s.openPower n a g t
  | 3, [], _ =>
    (match b.gates.find? fun g => g.t0 ≥ t + 256 with
    | some g => ((s.openPower n a g (g.t0 / 256 * 256)).1, a)
    | none => (0, a))
  | 4, g :: _, some h =>
    let left : Int := (h.ramp : Int) - (t - h.rampAt) / 256
    -- without a ramp what stays open runs on to the point at which the shutdown begins
    if h.ramp = 0 then s.openPower n a g t
    else if h.closed ∨ left ≤ 1 then (0, a)
    else
      let (p, a) := s.openPower n a g t
      (p * (min left h.ramp - 1).toNat / h.ramp, a)
  | _, _, _ => (0, a)

/-- R118: the mean of the ten powers of the frame that begins at t, rounded to the nearest (log entry 107). -/
def State.frameMean (s : State) (n : Nat) (t : Int) : Nat :=
  let l := (s.beam n).laser
  let sum := (List.range 10).foldl (fun (acc : Nat × PowAcc) (k : Nat) =>
    let (p, a) := s.powerAt n acc.2 (t + 256 * (k : Int))
    (acc.1 + p, a)) (0, ⟨l.lastBase, l.lastVid, l.prevBase⟩)
  roundDivNat sum.1 10

/-! ## The laser timeline -/

/-- The gates may be high: both enables high and no SAFETY fault (R122, R124). -/
def State.gateAllowed (s : State) : Bool := s.power.laserEnA && s.power.laserEnB && !s.power.safety

/-- EXP.LSR[n].PINS: the levels of a laser port's pins and of the enables; bit 7: the gate is held low. -/
def State.laserPins (s : State) (n : Nat) : Nat :=
  let l := (s.beam n).laser
  b2n (l.gate && s.twin.own) + 2 * b2n (l.modOut && s.twin.own) + 4 * b2n l.syncIn + 8 * b2n l.readyIn +
    16 * b2n l.alarmIn + 32 * b2n s.power.laserEnA + 64 * b2n s.power.laserEnB + 128 * b2n (!s.gateAllowed)

/-- R116: pulses of mode 1 up to `hi`. Each begins a whole number of ns after the one before, its period rounded (log entry 106). -/
def State.pulses (s : State) (n : Nat) (power width : Nat) (hi : TS) : Nat → State
  | 0 => s
  | fuel + 1 =>
    match (s.beam n).laser.nextPulse with
    | none => s
    | some p =>
      if p ≥ hi then s
      else
        let fmin := s.rg P.LSR_PF_FMIN n
        let fmax := s.rg P.LSR_PF_FMAX n
        -- period = 10^9 / (fmin + power (fmax - fmin) / full scale), rounded
        let period := max 1 (roundDivNat (10 ^ 9 * 16777215) (fmin * 16777215 + power * (fmax - fmin)))
        let s := s.putOwn (.modPulse n p width)
        let s := s.updBeam n fun b => { b with laser := { b.laser with nextPulse := some (p + period), pulseWidth := width } }
        s.pulses n power width hi fuel

/-- R116: the edges of MOD in mode 0 from lo up to hi, the gate being open since gateOnAt: high, or PWM whose first period starts
there, each edge at the nearest ns. -/
def State.modRun (s : State) (n : Nat) (lo hi : Int) : State :=
  let freq := s.rg P.LSR_MOD_FREQ n
  if freq = 0 then s.modTo n lo true
  else
    let duty := s.rg P.LSR_MOD_DUTY n
    let at_ : Int := (s.beam n).laser.gateOnAt
    let k0 := (lo - at_).toNat * freq / 10 ^ 9 - 1
    let steps := (hi - lo).toNat * freq / 10 ^ 9 + 3
    (List.range steps).foldl (fun s i =>
      let rise := at_ + (roundDivNat ((k0 + i) * 10 ^ 9) freq : Int)
      let fall := at_ + (roundDivNat (((k0 + i) * 4096 + duty) * 10 ^ 9) (freq * 4096) : Int)
      let s := if rise < fall && lo ≤ rise && rise < hi then s.modTo n rise true else s
      if lo ≤ fall && fall < hi then s.modTo n fall false else s) s

/-- What a port puts out on MOD while the gate is open from lo to hi (R116). -/
def State.modWhile (s : State) (n : Nat) (lo hi : Int) : State :=
  let l := (s.beam n).laser
  match s.rg P.LSR_MODE n with
  | 0 => s.modRun n lo hi
  | 1 => s.pulses n l.power l.pulseWidth hi.toNat 257
  | _ => s

/-- The gate opens at t for interval g (R117). -/
def State.openGate (s : State) (n : Nat) (g : GateInt) (t : Int) : State :=
  let s := if s.gateAllowed then s.putOwn (.gateEdge n t.toNat true) else s
  let s := s.zoneOpens n t
  s.updBeam n fun b =>
    { b with
      gates := b.gates.map fun x => if x = g then { x with t0 := max x.t0 t, opened := true } else x
      laser := { b.laser with gate := s.gateAllowed, gateOnAt := t.toNat, nextPulse := some t.toNat } }

/-- The gate closes at the end of an interval that has opened. -/
def State.closeGate (s : State) (n : Nat) (t1 : Int) : State :=
  let s := if (s.beam n).laser.gate then s.putOwn (.gateEdge n t1.toNat false) else s
  let s := (s.modTo n t1 false).zoneCloses n t1
  s.updBeam n fun b =>
    { b with
      gates := b.gates.map fun x => if x.opened && x.t1 = t1 then { x with closed := true } else x
      laser := { b.laser with gate := false, nextPulse := none, openFrame := false } }

/-- The gate has been open for interval g from lo to hi: the vectors under it note it (R131, R132). -/
def Beam.noteOpen (b : Beam) (g : GateInt) (lo hi : Int) : Beam :=
  let cuts := lo :: (b.vecs.filter fun v => v.kind != .jump && v.vid ≥ g.vid && lo < v.t0 && v.t0 < hi).map (·.t0)
  (cuts.zip (cuts.drop 1 ++ [hi])).foldl (fun b p =>
    match b.vecAt g p.1 with
    | none => b
    | some v => { b with vecs := b.vecs.map fun u =>
        if u.vid = v.vid then { u with gateOpened := true, openNs := u.openNs + (p.2 - p.1).toNat } else u }) b

/-- The gate is open for interval g from lo to hi: MOD runs, and the time is noted, for the deposit and the pyrometer too (R116, R155). -/
def State.gateRun (s : State) (n : Nat) (g : GateInt) (lo hi : Int) : State :=
  if !s.gateAllowed || hi ≤ lo then s
  else (s.modWhile n lo hi).updBeam n fun b =>
    { b.noteOpen g lo hi with
      laser := { b.laser with openNs := b.laser.openNs + (hi - lo).toNat }
      melt := { b.melt with frameOpen := true } }

/-- What [lo, hi) does with one gate interval: its opening edge, unless that waits for SYNC_IN, MOD while it is open, and its closing
edge (R104-R106, R116, R117). -/
def State.gateStep (s : State) (n : Nat) (lo hi : Int) (g : GateInt) : State :=
  if !g.opened && s.syncWaits n then s
  else
    let a := max g.t0 lo
    let s := if g.opened then s else s.openGate n g a
    let s := s.gateRun n { g with t0 := a } a (min g.t1 hi)
    if g.t1 < hi then s.closeGate n g.t1 else s

/-- Gate edges in [lo, hi), in time order. -/
def State.gateEdges (s : State) (n : Nat) (lo hi : Int) : State :=
  let s := ((s.beam n).gates.filter fun g => !g.closed && g.t0 < hi && (lo < g.t1 || g.opened)).foldl (fun s g => s.gateStep n lo hi g) s
  s.updBeam n fun b => { b with laser := { b.laser with ranTo := hi } }

/-- The deposit of the micro-step under way is accumulated, at its end or where the gate has closed in it (R155). -/
def State.depositOpen (s : State) (n : Nat) : State :=
  let b := s.beam n
  let l := b.laser
  let shut (d : Deposit) : Deposit := { d with shut := d.shut || !l.gate }
  if l.openNs = 0 ∨ (l.gate ∧ s.now < s.micro + 256) then
    s.updBeam n fun b => { b with dep := b.dep.map shut }
  else
    let ord := ((b.vecs.filter fun v => v.t0 < l.ranTo && v.kind != .jump).getLast?.map (·.ord)).getD 0
    (s.galDeposit n b.px b.py l.power l.openNs ord).updBeam n fun b =>
      { b with dep := b.dep.map shut, laser := { b.laser with openNs := 0 } }

/-- The first line of a region that is not open begins at `t0` (R143): what ends before it has ended. -/
def State.beginLine (s : State) (n : Nat) (v : VecInfo) : State :=
  match (s.beam n).descFor v.ord with
  | none => s
  | some d =>
    let s := ((s.finishVecs n v.t0).regionEnd n).startRegion n d v.ord v.t0.toNat
    s.setRg P.BEAM_RAS_LINE_NOW n v.row

/-- The laser timeline from lo up to hi: lines that begin, and edges. -/
def State.laserRun (s : State) (n : Nat) (lo hi : Int) : State :=
  let lines := (s.beam n).vecs.filter fun v => v.kind == .raster && !v.done && lo ≤ v.t0 && v.t0 < hi
  (lines.foldl (fun s v => s.beginLine n v) s).gateEdges n lo hi

/-- What a beam's laser timeline has done before now: lines and edges, and the vectors that are complete. -/
def State.laserCatchUp (s : State) (n : Nat) : State :=
  let b := s.beam n
  let hi := s.laserNow n
  let s := if (b.st = 3 ∨ b.st = 4) ∧ b.laser.ranTo < hi then (s.laserRun n b.laser.ranTo hi).finishVecs n hi else s
  s.depositOpen n

/-- R116: AOUT of a power, as 16 bits over 10 V (log entry 79). -/
def State.aoutCode (s : State) (n power : Nat) : Nat :=
  if s.rg P.LSR_MODE n = 0 then roundDivNat (power * s.rg P.LSR_AOUT_FS n * 65535) (16777215 * 10000) else 0

/-- The power setpoint of a micro-step, and AOUT with it. -/
def State.setPower (s : State) (n : Nat) (t : Int) (p : Nat) : State :=
  let code := s.aoutCode n p
  let s := if (s.beam n).laser.aout = code then s else s.put (.aout n t.toNat (if s.twin.own && !s.killed then some code else none))
  s.updBeam n fun b => { b with laser := { b.laser with power := p, aout := code } }

/-- The micro-step that begins at t is the one under way at the port. -/
def State.stepBegins (s : State) (n : Nat) (t : Int) : State :=
  s.updBeam n fun b => { b with laser := { b.laser with stepAt := t, ranTo := t } }

/-- The laser port of a beam that is not in RUN or STOPPING: setpoint 0, MOD low (R115, R122). -/
def State.portIdle (s : State) (n : Nat) (t : Int) : State := ((s.modTo n t false).setPower n t 0).stepBegins n t

/-- R120: READY_IN and ALARM_IN as this micro-step samples them. An alarm that becomes active writes a record where ALARM_ACT is 1;
else it interrupts a beam in RUN, as a READY_IN that goes inactive does. -/
def State.sampleLaser (s : State) (n : Nat) : State :=
  let was := s.alarmActive n
  let s := s.updBeam n fun b => { b with laser := { b.laser with readyS := b.laser.readyIn, alarmS := b.laser.alarmIn } }
  if s.alarmActive n && !was && s.rg P.LSR_ALARM_ACT n = 1 then s.record (s.beamSrc n) 0x100C (le 1 (s.laserPins n)) else s

/-- R166: begin and end of holds. -/
def State.holdStep (s : State) (n : Nat) (t : Int) : State :=
  let b := s.beam n
  match b.hold with
  | none => s
  | some p =>
    let next := b.wsegs.find? fun w => w.t0 ≥ p
    let granted := match next with | some w => w.status = 3 | none => true
    if !b.holdNow then
      if granted then s.endHold n
      else if t ≥ p then
        (s.bump P.BEAM_WRD_HOLDS n).updBeam n fun b => { b with holdNow := true, holdAt := p.toNat, starved := false }
      else s
    else if granted && (match next with | some w => w.t0 ≤ t | none => true) then s.endHold n
    else s

/-- WARD_STARVE: a hold has reached T_STARVE (R166). -/
def State.wardStarve (s : State) (n : Nat) : State :=
  let b := s.beam n
  let held := s.now - b.holdAt
  if !b.holdNow ∨ b.starved ∨ held < s.rg P.WRD_T_STARVE 0 * 1000 then s
  else
    let w := b.wsegs.find? fun w => w.status ≠ 3
    let s := s.bump P.BEAM_WRD_STARVES n
    let s := s.updBeam n fun b => { b with starved := true }
    s.record s.wrdSrc 0x1201
      (le 1 n ++ le 1 (s.blocker n) ++ zeros 2 ++ le 4 (held / 1000) ++ le 4 ((w.map (·.vec)).getD 0) ++
        le 4 ((w.map (·.tag)).getD 0))

/-- Drop what both timelines have left behind, but for the last `keep` ns. -/
def Beam.prune (b : Beam) (t keep : Int) : Beam :=
  let old := t - keep
  let live := (b.vecs.filter fun v => !v.done).map (·.vid)
  let last := b.segs.getLast?
  let open? := (b.gateAt t).isSome
  { b with
    segs := b.segs.filter fun g => g.b > old || live.contains g.vid || some g == last
    gates := b.gates.filter fun g => g.t1 > old || (g.opened && !g.closed)
    vecs := if open? then b.vecs else b.vecs.filter fun v => !v.done || v.t1 > old
    ahead := b.ahead.filter fun a => a.t > t }

/-- R126: with the queue empty and the path at a pause point, RUN becomes ARMED. -/
def State.queueEmpty (s : State) (n : Nat) (t : Int) : State :=
  let b := s.beam n
  if b.st = 3 && b.cmds.isEmpty && b.vecs.all (·.done) && (b.gateAt t).isNone && b.segs.all (·.b ≤ t) then
    (((s.endHold n).updBeam n fun b => { b with wsegs := [] }).beamTo n 2 0).ctl n
  else s

/-- The end of a NOW ramp (R128): the gate closes, the remainder is cancelled, and the head goes to park. -/
def State.rampStep (s : State) (n : Nat) (t : Int) : State :=
  match (s.beam n).shut with
  | none => s
  | some h =>
    if h.ramp = 0 ∨ h.closed ∨ t < h.rampAt + ((h.ramp * 256 : Nat) : Int) then s
    else
      let upto := ((s.beam n).closers.map (·.ord)).foldl max 0
      let s := s.forceGateLow n
      let s := s.cancelCmds n t (if h.cause = 0 then 3 else 4) fun c => h.cause ≠ 0 || c.ord < upto
      s.goPark n

/-- The raster pixel that the laser timeline reaches keeps the power scale and the shapes in effect at its beginning (R150). -/
def State.latchPixel (s : State) (n : Nat) (v : VecInfo) (t : Int) : State :=
  match (s.beam n).descFor v.ord with
  | none => s
  | some d =>
    let k := pixelPlace d v t
    if (s.beam n).ras.pix = some (v.vid, k) then s
    else
      let (scale, shapes) := s.pixelScale n v k (rdPeriod d)
      s.updBeam n fun b => { b with ras := { b.ras with pix := some (v.vid, k), pixScale := scale, pixShapes := shapes } }

/-- Raster lines at step t: those whose composition comes near are fixed, and the pixel reached keeps what is in effect (R148, R150). -/
def State.rasterLines (s : State) (n : Nat) (t : Int) : State :=
  let on := s.rgI P.BEAM_DLY_ON n
  let due := (s.beam n).vecs.filter fun v => v.kind == .raster && !v.resolved && v.t0 + min 0 on ≤ t + 2560
  let s := due.foldl (fun s v => s.resolveLine n v) s
  ((s.beam n).vecs.filter fun v => v.kind == .raster && !v.done && v.t0 < t + 256 && t < v.t1).foldl (fun s v => s.latchPixel n v t) s

/-- The command on the laser timeline (R96). -/
def State.noteTag (s : State) (n : Nat) (t : Int) : State :=
  match ((s.beam n).vecs.filter fun v => v.t0 ≤ t && v.ord ≠ 0).getLast? with
  | some v => (s.updBeam n fun b => { b with tagNow := v.tag }).setRg P.BEAM_TAG_NOW n v.tag
  | none => s

/-- The pulse width of mode 1 in the step at t: PF_PW, or what the shape of the raster pixel under it says (R116, R138). -/
def State.stepWidth (s : State) (n : Nat) (t : Int) : Nat :=
  let own := match ((s.beam n).vecs.filter fun v => v.t0 ≤ t + 255 && v.kind != .jump).getLast? with
    | some v => if v.kind == .raster then (s.rasterStep n v t).2.2 else 0
    | none => 0
  if own = 0 then s.rg P.LSR_PF_PW n else own

/-- The laser port at the start of the micro-step at t: the point, power and pulse width of the step, MOD low while the gate is (R122),
and the edges at t itself. Those of the rest of the step come when they are due. A frame counts as open at its first step (R172). -/
def State.portStep (s : State) (n : Nat) (t : Int) : State :=
  let b := s.beam n
  let (x, y) := b.nmAt t
  let (p, a) := s.powerAt n ⟨b.laser.lastBase, b.laser.lastVid, b.laser.prevBase⟩ t
  let s := if b.laser.gate then s else s.modTo n t false
  let s := ((s.setPower n t p).leaveCell n x y).stepBegins n t
  let width := s.stepWidth n t
  let s := s.updBeam n fun b =>
    { b with
      px := x, py := y
      laser := { b.laser with lastBase := a.lastBase, lastVid := a.lastVid, prevBase := a.prevBase, pulseWidth := width } }
  (s.laserRun n t (t + 1)).updBeam n fun b =>
    { b with laser := { b.laser with openFrame := if t % 2560 = 0 then b.laser.gate else b.laser.openFrame } }

/-- The laser timeline of one micro-step of a beam in RUN or STOPPING. -/
def State.laserStep (s : State) (n : Nat) (t : Int) : State :=
  let s := (s.rasterLines n t).portStep n t
  let s := ((s.noteTag n t).finishVecs n t).completeSegs n t
  let s := s.holdStep n t
  -- a SHADOW keeps what a takeover may have to expose again (R415)
  let keep : Int := if s.dry then ((s.rg P.TWIN_HB_TMO 0 * 1000 + 10240 : Nat) : Int) else 0
  s.updBeam n fun b =>
    { b.prune t keep with resumed := b.resumed.filter fun r => r.vid = 0 || b.vecs.any fun v => v.vid = r.vid && !v.done }

/-- The waits of R93 since the last step are counted. -/
def State.countWaits (s : State) (n : Nat) : State :=
  let s := s.bumpBy P.BEAM_RATE_WAIT n (s.beam n).plan.rateWaits
  s.updBeam n fun b => { b with plan := { b.plan with rateWaits := 0 } }

/-- The block of beam n runs its clocks: a gated block's beam cells and laser port cells stand (R33). -/
def State.beamClocked (s : State) (n : Nat) : Bool :=
  match assocGet s.blks (256 + n / 4) with
  | some b => b.clk = 2
  | none => true

/-- The first part of a micro-step of beam n at wall time t: inputs, waiting controls, leases and the interpolation front. What it reads
of the map is as before the step's deposits of any beam (R157). -/
def State.microFront (s : State) (n : Nat) (t : Int) : State :=
  let s := (if s.beamClocked n then s.sampleLaser n else s).ctl n
  match (s.beam n).st with
  | 2 => if s.mayBegin n then s.postRequests n else s
  | 3 => (((s.postRequests n).frontStep n t).postRequests n).countWaits n
  | 4 => ((s.rampStep n t).postRequests n).frontStep n t
  | _ => s

/-- The second part: the laser timeline. -/
def State.microLaser (s : State) (n : Nat) (t : Int) : State :=
  if (s.beam n).st = 3 ∨ (s.beam n).st = 4 then (s.laserStep n t).queueEmpty n t else s.portIdle n t

/-- The beam's port is in FAULT: its head port cell, or the XY2-100 port in its place. The head then counts as at park only when
it says so, or at PARK_TMO (R231). -/
def State.portFaulted (s : State) (n : Nat) : Bool :=
  (s.heads.getD n headReset).state = 4 || ((s.xy2Of n).isSome && s.rg P.HP_FAULT n = 1)

/-- BEAM_PARK_REACHED: the path has come to the park point and its DLY_JUMP has passed (R126, R128). -/
def State.parkReached (s : State) (n : Nat) : State :=
  let b := s.beam n
  match b.st, b.shut with
  | 4, some h => (match h.parkT with | some p => if p ≤ s.now ∧ !s.portFaulted n then s.reachOff n else s | none => s)
  | _, _ => s

/-- LASER_SYNC_EDGE: an opening edge that waits for SYNC_IN is placed at the pulse (R117). What is then left of its interval may be too
short to be placed (R107). -/
def State.syncEdge (s : State) (n : Nat) : State :=
  let s := s.updBeam n fun b => { b with laser := { b.laser with lastSync := s.now } }
  let b := s.beam n
  let t := s.laserNow n
  match (if b.st = 3 ∨ b.st = 4 then b.gates.find? fun g => !g.opened && !g.closed && g.t0 ≤ t && t < g.t1 else none) with
  | none => s
  | some g =>
    if !s.syncWaits n then s
    else if g.t1 - t < (s.rg P.BEAM_GATE_MIN n : Int) then
      (s.updBeam n fun b => { b with gates := b.gates.map fun x => if x = g then { x with t0 := t } else x }).omitGates n
        [{ g with t0 := t }]
    else s.openGate n g t

/-- R119: a reply to IDENT, or none in this frame (`frame` absent). It is accepted in the control frame after the attempt's. -/
def State.identReply (s : State) (n : Nat) (frame : Option Nat) : State :=
  let b := s.beam n
  match b.laser.identAt with
  | none => s
  | some a =>
    if b.st ≠ 1 ∨ s.rg P.LSR_MODE n ≠ 2 ∨ b.laser.identOk ∨ s.now < a + 2560 ∨ s.now ≥ a + 5120 then s
    else
      let good := match frame with
        | some f => bit f 30 && !bit f 31 && bit f 1 && bits f 5 2 == crc4 (bitsMsb 1 1 ++ bitsMsb 24 (bits f 29 6)) 0
        | none => false
      if good then
        let s := s.setRg P.LSR_SER_ID n (bits (frame.getD 0) 29 6)
        s.updBeam n fun b => { b with laser := { b.laser with identOk := true } }
      else s.identFail n

end Sys2Proof.Machine
end

