-- ==== Sys2Proof/Machine/Coding.lean ====
section
/-!
DEFINITION. The 8b/10b code of the head links (R212): code groups of IEEE 802.3 clause 36 with running disparity. The
spec names the clause and prints no table; the table is the standard's (PRESUMED, log entry 87).

A code group is a number of ten bits, the first bit sent (a) highest.
-/
namespace Sys2Proof.Machine

open Sys2Proof

/-- A symbol: a control code K or a data octet D. -/
structure Sym where
  k : Bool
  v : Nat
  deriving DecidableEq, Repr, Inhabited

def symD (b : Byte) : Sym := ⟨false, b.toNat⟩
def K27_7 : Sym := ⟨true, 0xFB⟩
def K29_7 : Sym := ⟨true, 0xFD⟩
def K23_7 : Sym := ⟨true, 0xF7⟩
def K28_5 : Sym := ⟨true, 0xBC⟩
def D16_2 : Sym := ⟨false, 0x50⟩

/-- The sub-blocks abcdei of D0 to D31 at negative running disparity. -/
def code6 : List Nat :=
  [0b100111, 0b011101, 0b101101, 0b110001, 0b110101, 0b101001, 0b011001, 0b111000,
   0b111001, 0b100101, 0b010101, 0b110100, 0b001101, 0b101100, 0b011100, 0b010111,
   0b011011, 0b100011, 0b010011, 0b110010, 0b001011, 0b101010, 0b011010, 0b111010,
   0b110011, 0b100110, 0b010110, 0b110110, 0b001110, 0b101110, 0b011110, 0b101011]

/-- The sub-blocks fghj of D.x.0 to D.x.7, and of K28.0 to K28.7, at negative running disparity. -/
def code4 : List Nat := [0b1011, 0b1001, 0b0101, 0b1100, 0b1101, 0b1010, 0b0110, 0b1110]
def code4K : List Nat := [0b1011, 0b0110, 0b1010, 0b1100, 0b1101, 0b0101, 0b1001, 0b0111]

/-- A sub-block of n bits as sent at a running disparity (true: positive): one that is not balanced, or is of the kind 111000
and 1100, is sent inverted at positive disparity. -/
def subAt (n w : Nat) (pos : Bool) (turns : Bool) : Nat := if pos && turns then 2 ^ n - 1 - w else w

/-- The running disparity after a sub-block. -/
def rdAfter (n w : Nat) (pos : Bool) : Bool := if 2 * popCount n w = n then pos else decide (n < 2 * popCount n w)

/-- Whether D.x.7 is sent in its other form 0111, to keep runs short. -/
def otherSeven (x : Nat) (pos : Bool) : Bool :=
  if pos then x = 11 || x = 13 || x = 14 else x = 17 || x = 18 || x = 20

/-- The code group of a symbol at a running disparity. -/
def encodeSym (pos : Bool) (s : Sym) : Nat :=
  let x := s.v % 32
  let y := s.v / 32 % 8
  let k28 := s.k && x = 28
  let w6 := if k28 then 0b001111 else code6.getD x 0
  let s6 := subAt 6 w6 pos (2 * popCount 6 w6 ≠ 6 || x = 7)
  let mid := rdAfter 6 s6 pos
  let w4 :=
    if k28 then code4K.getD y 0
    else if y = 7 && (s.k || otherSeven x mid) then 0b0111
    else code4.getD y 0
  s6 * 16 + subAt 4 w4 mid (k28 || 2 * popCount 4 w4 ≠ 4 || y = 3)

/-- The running disparity after a code group. -/
def rdOf (g : Nat) (pos : Bool) : Bool := rdAfter 4 (g % 16) (rdAfter 6 (g / 16) pos)

/-- The code groups of a run of symbols, and the running disparity that they leave. -/
def encodeSyms (pos : Bool) : List Sym → List Nat × Bool
  | [] => ([], pos)
  | s :: rest =>
    let g := encodeSym pos s
    let (gs, p) := encodeSyms (rdOf g pos) rest
    (g :: gs, p)

/-- The control codes of clause 36. -/
def ctlCodes : List Nat := [0x1C, 0x3C, 0x5C, 0x7C, 0x9C, 0xBC, 0xDC, 0xFC, 0xF7, 0xFB, 0xFD, 0xFE]

/-- The symbol of a code group at a running disparity; none where the group is not valid or belongs to the other disparity. -/
def decodeSym (pos : Bool) (g : Nat) : Option Sym :=
  let ds : List Sym := (List.range 32).flatMap fun x =>
    if encodeSym pos ⟨false, x⟩ / 16 = g / 16 then (List.range 8).map fun y => ⟨false, x + 32 * y⟩ else []
  match ds.find? fun s => encodeSym pos s = g with
  | some s => some s
  | none => (ctlCodes.map fun v => (⟨true, v⟩ : Sym)).find? fun s => encodeSym pos s = g

/-- The symbols of a run of code groups. Behind one that is not valid the running disparity is the one its ones and zeros
leave. -/
def decodeSyms (pos : Bool) : List Nat → List (Option Sym) × Bool
  | [] => ([], pos)
  | g :: rest =>
    let (ss, p) := decodeSyms (rdOf g pos) rest
    (decodeSym pos g :: ss, p)

/-- The data octet of a symbol: of a control code, or of a group that is not valid, none. -/
def Sym.data? (s : Option Sym) : Option Byte :=
  match s with
  | some ⟨false, v⟩ => some (BitVec.ofNat 8 v)
  | _ => none

end Sys2Proof.Machine
end

