-- ==== Sys2Proof/Machine/Head.lean ====
section
/-!
DEFINITION. Head ports (R209-R242), the XY2-100 ports (R243-R248) and the pyrometer measurement (R171-R173).
-/
namespace Sys2Proof.Machine

open Sys2Proof

def State.head (s : State) (n : Nat) : HeadPort := s.heads.getD n headReset
def State.updHead (s : State) (n : Nat) (f : HeadPort → HeadPort) : State := { s with heads := s.heads.modify n f }

/-- Source path of a head port cell, and of an XY2-100 port (R21). -/
def State.headSrc (s : State) (n : Nat) : Nat := s.srcPath 1 (n / 4) (0x20 + n % 4)
def State.xy2Src (s : State) (q : Nat) : Nat := s.srcPath 1 8 q

/-- READY or EXPOSE: the EXP, CNS and HLK domains run (R31). -/
def State.expRuns (s : State) : Bool := s.power.state = 3 || s.power.state = 4

/-! ## Conservator slots, as the head ports see them -/

def State.slotOf (s : State) (i : Nat) : CSlot := s.cns.slots.getD i cslotReset
def State.updSlot (s : State) (i : Nat) (f : CSlot → CSlot) : State :=
  { s with cns := { s.cns with slots := s.cns.slots.modify i f } }

/-- An SF slot's parameter: the table of class 4, or the same number in class 3 (R208). -/
def State.sfPid (s : State) (i p : Nat) : Nat := (if (s.slotOf i).kind = 1 then p - 0x01000000 else p) + i * 2 ^ 16
def State.sf (s : State) (i p : Nat) (k : Nat := 0) : Nat := s.reg (s.sfPid i p + k)
def State.setSf (s : State) (i p k v : Nat) : State := s.setReg (s.sfPid i p + k) v

/-- The slot bound to an axis of a beam, and to its melt pool (R177, R178). -/
def State.axisSlot (s : State) (n a : Nat) : Option Nat :=
  (List.range 128).find? fun i => (s.slotOf i).kind = 1 && (s.slotOf i).a = n && (s.slotOf i).b = a
def State.meltSlot (s : State) (n : Nat) : Option Nat :=
  (List.range 128).find? fun i => (s.slotOf i).kind = 2 && (s.slotOf i).a = n

/-! ## Link state (R221, R222) -/

/-- HEAD_LINK (R249), with A, D and Δ as measured last (R223); D is 0 before the first measurement. -/
def State.headLink (s : State) (n src was dest cause : Nat) : State :=
  let a := s.rg P.HP_RTT n
  let delta := (s.head n).delta
  let d : Int := if a = 0 then 0 else roundDiv ((a : Int) - 24 - delta) 2
  s.record src 0x1401
    (le 1 was ++ le 1 dest ++ le 1 cause ++ zeros 1 ++ le 2 a ++ le 2 (ofSigned 16 d) ++ le 2 (ofSigned 16 delta))

/-- A change of the port's state, with its HEAD_LINK record (R249). -/
def State.headTo (s : State) (n dest cause : Nat) : State :=
  let was := (s.head n).state
  ((s.updHead n fun h => { h with state := dest }).setRg P.HP_STATE n dest).headLink n (s.headSrc n) was dest cause

/-- The alignment is lost or begins afresh: the attempt of LINK_TMO starts now. -/
def State.unalign (s : State) (n : Nat) : State :=
  s.updHead n fun h =>
    { h with aligned := false, goodRun := 0, page0 := false, page1 := false, lastErr := false, trainAt := s.now, dHist := [],
             commas := 0, rxRd := none }

/-- Whether an axis is handed over (R235). -/
def State.handed (s : State) (n a : Nat) : Bool := bit (s.rg P.HP_HANDOVER n) a

/-- The last reported current of an axis as a fraction of I_FS. -/
def State.headCurrent (s : State) (n a : Nat) : Nat :=
  fDiv (fOfInt (toSigned 16 (s.rg (P.HP_CUR + a) n))) (fOfInt 32767)

/-- Start or end of a hand-over, with its record (R235). -/
def State.setHanded (s : State) (n a : Nat) (on : Bool) : State :=
  if s.handed n a = on then s
  else
    let old := s.rg P.HP_HANDOVER n
    let s := s.setRg P.HP_HANDOVER n (if on then old + 2 ^ a else old - 2 ^ a)
    s.record (s.headSrc n) 0x1406
      (le 1 a ++ le 1 ((s.axisSlot n a).getD 0xFF) ++ le 1 (b2n on) ++ zeros 1 ++ le 8 s.frameNo ++ le 4 (s.headCurrent n a))

def State.endHanded (s : State) (n : Nat) : State := forEach [0, 1, 2] (fun a s => s.setHanded n a false) s

/-- The port goes OFF (R222). -/
def State.headOff (s : State) (n cause : Nat) : State :=
  if (s.head n).state = 0 then s else ((s.unalign n).endHanded n).headTo n 0 cause

/-- A port that is OFF trains afresh (R222), its transmitter at negative running disparity (log entry 87). -/
def State.headTrain (s : State) (n cause : Nat) : State :=
  let s := (s.unalign n).endHanded n
  (s.updHead n fun h => { h with txRd := false }).headTo n 1 cause

/-- The HLK clock starts or stops (R222). -/
def State.headClock (s : State) (on : Bool) : State :=
  forEach (List.range s.nBeams) (fun n s =>
    if on then
      (if (s.head n).state = 0 ∧ s.rg P.HP_GEN n ≠ 0 ∧ s.xy2Of n = none then s.headTrain n 1 else s)
    else s.headOff n 5) s

/-- The identity parameters read 0: an RHL1 head has none (R242). -/
def State.noIdentity (s : State) (n : Nat) : State :=
  forEach ([P.HP_ID_VM, P.HP_ID_SERIAL, P.HP_ID_SERIAL + 1, P.HP_ID_FW, P.HP_ID_CAPS] ++ [0, 1, 2].map (P.HP_FS + ·) ++
    [0, 1, 2].map (P.HP_I_FS + ·)) (fun p s => s.setRg p n 0) s

/-- A write of GEN takes effect (R210, R222): a port that is OFF trains; any other keeps its state, unless GEN is 0. -/
def State.headGen (s : State) (n old : Nat) : State :=
  let gen := s.rg P.HP_GEN n
  let s := if gen = 2 then s.noIdentity n else s
  if gen = old ∨ s.xy2Of n ≠ none then s
  else if gen = 0 then s.headOff n 1
  else if s.expRuns ∧ (s.head n).state = 0 then s.headTrain n 1
  else s

/-! ## Axis faults (R226-R229) -/

/-- Source path of the cell whose axes a beam's faults name: the head port, or the XY2-100 port in its place. -/
def State.axisSrc (s : State) (n : Nat) : Nat := match s.xy2Of n with | some q => s.xy2Src q | none => s.headSrc n

/-- Positions of the three axes as last reported. -/
def State.headPos (s : State) (n : Nat) : List Int := [0, 1, 2].map fun a => toSigned 24 (s.rg (P.HP_POS + a) n)

/-- R228: an axis fault. `causes` has bit c for cause c; `axes` the axes it names. Causes and axes already in FAULT_CAUSE
are not recorded again, and further ones are recorded without a further escalation. -/
def State.axisFault (s : State) (n causes axes : Nat) : State :=
  let old := s.rg P.HP_FAULT_CAUSE n
  let first := s.rg P.HP_FAULT n = 0
  let both := Nat.lor old (causes + axes * 2 ^ 16)
  -- a port that is UP enters FAULT, an earlier fault of the cell uncleared or not (R222)
  let s := if causes ≠ 0 ∧ (s.head n).state = 3 then s.headTo n 4 (if bit causes 2 then 4 else 0) else s
  if causes = 0 ∨ (!first && both = old) then s
  else
    let pos := s.headPos n
    let s := s.setRg P.HP_FAULT_CAUSE n both
    let payload := le 2 causes ++ le 1 axes ++ le 1 (s.head n).typeSent ++ le 8 s.frameNo ++ pos.flatMap fun p => le 4 (ofSigned 32 p)
    if first then
      let s := (s.endHanded n).setRg P.HP_FAULT n 1
      (s.raiseFault (s.axisSrc n) 0x1402 payload clsDegraded).interrupt n 6
    else s.record (s.axisSrc n) 0x1402 payload

/-- R229: whether a write of 1 to FAULT is accepted. A beam on an XY2-100 port has no AT_TARGET to report; its last status
frame must show no cause (log entry 31). Of the causes of R227, `causes` holds those present. -/
def State.faultClearable (s : State) (n : Nat) : Bool :=
  ((s.beam n).st = 0 || (s.beam n).st = 5) &&
  (match s.xy2Of n with
   | some q => !(s.xy2.getD q xy2Reset).causeNow
   | none => (s.head n).atTarget && (s.head n).causes = 0)

/-- R229: FAULT is cleared. -/
def State.headFaultClear (s : State) (n : Nat) : State :=
  if s.rg P.HP_FAULT n = 0 then s
  else
    let s := (s.setRg P.HP_FAULT n 0).setRg P.HP_FAULT_CAUSE n 0
    let s := s.clearDegraded (s.axisSrc n)
    let h := s.head n
    let s := if h.state = 4 then
        (if h.aligned ∧ h.goodRun ≥ 64 then s.headTo n 3 6 else (s.unalign n).headTo n 1 6)
      else s
    let park := [0, 1, 2].map fun a => s.rgI (P.HP_PARK_HU + a) n
    let s := s.updHead n fun h => { h with setPrev := park, setNow := park, setNext := park }
    let (x, y) := s.parkPoint n
    s.updBeam n fun b =>
      let off := b.st = 0
      { b with
        intr := b.intr.map fun i => { i with lx := nmF x, ly := nmF y }
        ahead := []
        px := if off then x else b.px
        py := if off then y else b.py
        plan := if off then { b.plan with cx := nmF x, cy := nmF y, hx := nmF x, hy := nmF y } else b.plan }

/-! ## The pyrometer (R172, R173) -/

/-- ln of a binary32 value, correctly rounded (R183); a value not above 0 gives a NaN or an infinity. -/
def fLn (v : Nat) : Nat :=
  if fIsNaN v || fSign v then (if fNum v = 0 && fFinite v then fInf true else fNaN)
  else if !fFinite v then v
  else if fNum v = 0 then fInf true
  else lnRat (fNum v).toNat fDen

/-- R172: temperature and intensity from the samples of the two bands, if the arithmetic makes them valid. -/
def State.pyrometer (s : State) (n : Nat) (b1 b2 : List Nat) : Option (Nat × Nat) :=
  let mean (l : List Nat) (dark : Nat) : Nat := fSub (fDiv (fOfInt (l.sum : Nat)) (fOfInt 5)) (fOfInt (dark : Nat))
  let s1 := mean b1 (s.rg P.BEAM_PYR_DARK1 n)
  let s2 := mean b2 (s.rg P.BEAM_PYR_DARK2 n)
  let d := fSub (s.rg P.BEAM_PYR_B n) (fLn (fDiv s1 s2))
  let t := fDiv (s.rg P.BEAM_PYR_A n) d
  let i := fDiv (fAdd s1 s2) (fOfInt 131070)
  let least := fOfInt (s.rg P.BEAM_PYR_MIN n : Nat)
  if fFinite d && fFinite t && fLe least s1 && fLe least s2 && fLt 0 d && fLe (s.rg P.BEAM_PYR_TMIN n) t &&
    fLe t (s.rg P.BEAM_PYR_TMAX n) then some (t, i) else none

/-- The measurement of the last frame is formed from the rows that have arrived (R171-R173). -/
def State.formMelt (s : State) (n : Nat) : State :=
  let h := s.head n
  let opened := (s.beam n).laser.openPrev
  match (if opened && h.pyrOk then s.pyrometer n (h.pyr.take 5) (h.pyr.drop 5) else none) with
  | some (t, i) =>
    let s := s.updHead n fun h => { h with meltOk := true }
    (s.setRg P.BEAM_PYR_T n t).setRg P.BEAM_PYR_I n i
  | none =>
    let s := s.updHead n fun h => { h with meltOk := false }
    let s := (s.setRg P.BEAM_PYR_T n 0).setRg P.BEAM_PYR_I n 0
    if opened then s.bump P.BEAM_PYR_INVALID n else s

/-! ## Return frames (R213-R217, R223-R231, R241, R242) -/

/-- The word of a calibration entry (R453). -/
def State.calWord (s : State) (e : Nat) : Nat :=
  match assocGet s.mram.cal e with | some c => c.value | none => Config.calFactory e % 2 ^ 32

/-- A binary32 calibration value in effect; nominal where the table is not applied (R456). -/
def State.calFlt (s : State) (e nominal : Nat) : Nat := if s.mram.calBad then nominal else s.calWord e

/-- A signed calibration value in effect; nominal where the table is not applied (R456). -/
def State.calInt (s : State) (e : Nat) : Int := if s.mram.calBad then 0 else toSigned 32 (s.calWord e)

/-- The A of a frame whose SOF reaches the pins now: ns from the tick, less the calibrated skew of the port in ps (R223). -/
def State.frameA (s : State) (n : Nat) : Nat :=
  (max 0 (((s.now - s.tick : Nat) : Int) - roundDiv (s.calInt (221 + n)) 1000)).toNat

/-- HEAD_CRC (R225, R230). -/
def State.headCrc (s : State) (n kind : Nat) : State :=
  let ctr := match kind with | 1 => P.HP_CRC_UP | 2 => P.HP_CRC_DN | 3 => P.HP_MISS | _ => P.HP_BULK_ERR
  (s.bump ctr n).record (s.headSrc n) 0x1403 (le 1 kind ++ zeros 3 ++ le 8 s.frameNo)

/-- In the four frames from the boundary at which TWIN_OWN is taken, cause 1 is not raised (R226). -/
def State.takeWindow (s : State) : Bool :=
  let b := (s.rg2 P.TWIN_TAKEOVER_TS 0).toNat
  s.twin.own && b ≠ 0 && s.tick < b + 4 * 2560

/-- An errored frame (R225, R226): kind 1 section, 2 DN_ERR, 3 missing. -/
def State.headErrored (s : State) (n kind : Nat) : State :=
  let h := s.head n
  let s := s.headCrc n kind
  let second := h.lastErr && !s.takeWindow
  let s := s.updHead n fun h => { h with goodRun := 0, lastErr := true, causes := if second then Nat.lor h.causes 2 else h.causes }
  if second && (h.state = 3 || h.state = 4) then s.axisFault n 2 7 else s

/-- R217: pages 0 and 1 of the diagnostics are stored. -/
def State.headPage (s : State) (n : Nat) (page : List Byte) : State :=
  let p := page.drop 2
  match u8 page 0 with
  | 0 =>
    let s := (s.setRg P.HP_ID_VM n (u16 p 0 + u16 p 2 * 65536)).setRg P.HP_ID_SERIAL n (u32 p 4)
    let s := (s.setRg (P.HP_ID_SERIAL + 1) n (u32 p 8)).setRg P.HP_ID_FW n (u32 p 12)
    let s := s.setRg P.HP_ID_CAPS n (u16 p 16)
    let s := forEach [0, 1, 2] (fun a s => (s.setRg (P.HP_FS + a) n (u32 p (18 + 4 * a))).setRg (P.HP_I_FS + a) n (u16 p (30 + 2 * a))) s
    s.updHead n fun h => { h with page0 := true }
  | 1 =>
    let s := forEach [0, 1, 2, 3] (fun k s => s.setRg (P.HP_TEMP + k) n (u16 p (2 * k))) s
    (s.setRg P.HP_VSUP n (u16 p 8)).updHead n fun h => { h with page1 := true }
  | _ => s

/-- R227: the causes a good return frame shows, and the axes they name. -/
def State.headCauses (s : State) (n : Nat) (pos old : List Int) (status : Nat) : State × Nat × Nat :=
  let h := s.head n
  let past := [0, 1, 2].filter fun a => (pos.getD a 0).natAbs > s.rg (P.HP_POS_LIM + a) n
  let c3 := if past.isEmpty then 0 else 2 ^ 3
  let c7 := if status % 32 = 0 then 0 else 2 ^ 7
  let axes7 := if bits status 4 3 ≠ 0 then 7 else status % 8
  let s := s.updHead n fun h => { h with over192 := if s.rg P.HP_MODE n = 1 && s.rg P.HP_RTT n > 192 then h.over192 + 1 else 0 }
  let c11 := if (s.head n).over192 ≥ 16 then 2 ^ 11 else 0
  let c9 := if h.noFollow ≥ 4 && !s.takeWindow then 2 ^ 9 else 0
  -- supervision of the handed-over axes
  let per := [0, 1, 2].map fun a =>
    match (if s.handed n a then s.axisSlot n a else none) with
    | none => (0, 0, 0)
    | some i =>
      let v := (pos.getD a 0 - old.getD a 0).natAbs > s.sf i (P.AXL_VEL_LIM + 0x01000000)
      let f := (h.setNow.getD a 0 - pos.getD a 0).natAbs > s.sf i (P.AXL_FOL_WIN + 0x01000000)
      let vc := if v then h.velCnt.getD a 0 + 1 else 0
      let fc := if f then h.folCnt.getD a 0 + 1 else 0
      let lim := s.sf i (P.AXL_IRMS_LIM + 0x01000000)
      let c := (if vc ≥ s.sf i (P.AXL_VEL_N + 0x01000000) then 2 ^ 4 else 0) +
        (if fc ≥ s.sf i (P.AXL_FOL_N + 0x01000000) then 2 ^ 5 else 0) +
        (if fLt (fMul lim lim) (s.slotOf i).ms then 2 ^ 6 else 0)
      (vc, fc, c)
  let s := s.updHead n fun h => { h with velCnt := per.map (·.1), folCnt := per.map (·.2.1) }
  let c456 := per.foldl (fun acc p => Nat.lor acc p.2.2) 0
  let axes := ([0, 1, 2].map fun a =>
    if past.contains a || (per.getD a (0, 0, 0)).2.2 ≠ 0 || (c7 ≠ 0 && bit axes7 a) || c9 + c11 ≠ 0 then 2 ^ a else 0).sum
  (s, c3 + c456 + c7 + c9 + c11, axes)

/-- R236: the mean-square current of the handed-over axes, from this frame's row 1. -/
def State.meanSquare (s : State) (n : Nat) : State :=
  forEach [0, 1, 2] (fun a s =>
    match (if s.handed n a then s.axisSlot n a else none) with
    | none => s
    | some i =>
      let c := s.headCurrent n a
      let ms := (s.slotOf i).ms
      let ms := fAdd ms (fDiv (fSub (fMul c c) ms) (fOfInt (s.sf i (P.AXL_IRMS_TAU + 0x01000000) : Nat)))
      let s := s.updSlot i fun x => { x with ms := ms }
      s.setSf i (P.AXL_IRMS + 0x01000000) 0 (fSqrt ms)) s
where
  /-- The square root of a binary32 value, rounded to the nearest. -/
  fSqrt (v : Nat) : Nat :=
    if fNum v ≤ 0 then 0
    else
      -- floor of the root at scale 2^(75 + 75), far below half a unit of the result
      let r := isqrt ((fNum v).toNat * 2 ^ 150)
      fOfPos false r (2 ^ 150)

/-- R146: a crossing of the head axis between the last sample and this one starts a line. -/
def State.headCrossing (s : State) (n : Nat) (pos : List Int) (stamp : TS) : State :=
  let r := (s.beam n).ras
  let p := pos.getD (s.rg P.BEAM_RAS_XING_AXIS n) 0
  let at_ := s.rgI P.BEAM_RAS_XING_POS n
  let s := s.updBeam n fun b => { b with ras := { b.ras with xingT := stamp, xingPos := p, xingKnown := true } }
  if s.rg P.BEAM_RAS_SRC n ≠ 2 ∨ !r.xingKnown then s
  else
    let crosses := if s.rg P.BEAM_RAS_XING_DIR n = 0 then r.xingPos < at_ && at_ ≤ p else r.xingPos > at_ && at_ ≥ p
    if !crosses then s
    else
      let t : Int := (r.xingT : Int) + roundDiv ((at_ - r.xingPos) * ((stamp : Int) - r.xingT) * (if p > r.xingPos then 1 else -1)) (p - r.xingPos).natAbs
      s.rasEdge n t.toNat

/-- R223: the delay of a good frame whose A is `a`, and the stamps of its latch and of the samples it returned. `own` is the Δ of
this link and `turn` that of the followed one. A Δ of a link that the head has not locked to measures nothing (R216): there is
then no delay of this frame, and the latch has no stamp (log entry 88). -/
def State.delayMeasured (s : State) (n a : Nat) (own turn : Option Int) : State × Option TS :=
  let h := s.head n
  let d2 := own.map fun d => (a : Int) - 24 - d
  let hist := (d2.toList ++ h.dHist).take 256
  let s := s.setRg P.HP_RTT n a
  let s := if hist.isEmpty then s else s.setRg P.HP_D_ONE n (ofSigned 16 (roundDiv hist.sum (2 * hist.length)))
  let stamp := match d2, turn with
    | some d2, some f => some (roundDiv (2 * ((s.tick : Int) + a - f) - d2) 2).toNat
    | _, _ => none
  (s.updHead n fun h =>
    { h with
      aLast := a
      delta := own.getD h.delta
      dHist := hist
      latchAt := stamp.getD h.latchAt
      pyrAt := match stamp with | some t => (List.range 5).map fun j => t + 250 + 500 * j - 2560 | none => h.pyrAt }, stamp)

/-- A good return frame (R222-R229, R242): its delay, the port's state, the causes it shows, and its crossing. -/
def State.headGood (s : State) (n : Nat) (pos old : List Int) (status : Nat) (follow : Bool) (own other : Option Int) : State :=
  let h := s.head n
  let rhl2 := s.rg P.HP_GEN n = 1
  let a := s.frameA n
  let (s, stamp) := s.delayMeasured n a own (if follow then own else other)
  let s := s.updHead n fun h =>
    { h with goodRun := h.goodRun + 1, lastErr := false, aligned := h.aligned || h.commas ≥ 16,
             noFollow := if rhl2 && s.twin.own && !follow && !s.takeWindow then h.noFollow + 1 else 0 }
  let s := if h.state = 1 && (s.head n).aligned then s.headTo n 2 2 else s
  let s := if (s.head n).state = 2 ∧ (s.head n).goodRun ≥ 64 ∧ (s.head n).dHist ≠ [] ∧ (!rhl2 ∨ ((s.head n).page0 ∧ (s.head n).page1)) then
      let s := s.headTo n 3 2
      s.record (s.headSrc n) 0x1404
        (le 4 (s.rg P.HP_ID_VM n) ++ le 4 (s.rg P.HP_ID_SERIAL n) ++ le 4 (s.rg (P.HP_ID_SERIAL + 1) n) ++
          le 4 (s.rg P.HP_ID_FW n) ++ le 2 (s.rg P.HP_ID_CAPS n))
    else s
  let (s, causes, axes) := s.headCauses n pos old status
  let s := s.updHead n fun h => { h with causes := causes }
  let s := if (s.head n).state = 3 ∨ (s.head n).state = 4 then s.axisFault n causes axes else s
  match stamp with | some t => s.headCrossing n pos t | none => s

/-- What follows a good real-time section, RHL2 or RHL1: positions, currents, status, errors, alignment, causes. -/
def State.headSection (s : State) (n type : Nat) (dnErr target follow conflict : Bool) (pos : List Int) (cur : List Nat)
    (status : Nat) (pyr : List Nat) (own other : Option Int) : State :=
  let h := s.head n
  let a := s.frameA n
  let rhl2 := s.rg P.HP_GEN n = 1
  let old := s.headPos n
  -- rows
  let s := forEach [0, 1, 2] (fun k s => s.setRg (P.HP_POS + k) n (ofSigned 24 (pos.getD k 0))) s
  let s := if rhl2 then forEach [0, 1, 2] (fun k s => s.setRg (P.HP_CUR + k) n (cur.getD k 0)) s else s
  let s := s.setRg P.HP_HEAD_STAT n status
  let sentMask := if type = 2 then 7 - h.axmode % 8 else 7
  let pyrOk := rhl2 && !bit status 5 && bit (s.rg P.HP_ID_CAPS n) 1
  let s := s.updHead n fun h =>
    { h with arrived := true, rowsOk := true, rowsAt := a + 408, ownLoop := sentMask, atTarget := if dnErr then h.atTarget else target,
             posPrev := old, pyr := pyr, pyrOk := pyrOk }
  -- FOLLOW (R233)
  let was := bit (s.rg P.HP_LINKS n) 0
  let s := s.setRg P.HP_LINKS n (b2n follow + 2 * b2n s.twin.own + 4 * b2n conflict)
  let s := if rhl2 && was != follow then
      s.record (s.headSrc n) 0x1405 (le 1 (b2n (!follow)) ++ le 1 (b2n s.twin.own) ++ zeros 2 ++ le 8 s.frameNo)
    else s
  let s := if rhl2 then s.formMelt n else s
  let s := s.meanSquare n
  let s := if dnErr then s.headErrored n 2 else s.headGood n pos old (if rhl2 then status else status % 16) follow own other
  -- R231: in FAULT the head is at park when any return frame reports AT_TARGET
  if (s.head n).state = 4 && target && (s.beam n).st = 4 && ((s.beam n).shut.map (·.closed)).getD false then s.reachOff n else s

/-- Signed fields of three bytes. -/
def i24 (p : List Byte) (off : Nat) : Int := toSigned 24 (unLe (field p off 3))

/-- The Δ of a link: 0x8000 where the head has not locked to it (R216). -/
def deltaOf (v : Nat) : Option Int := if v = 0x8000 then none else some (toSigned 16 v)

/-- The octets of symbols, 0 where there is none, and whether all of them are data. -/
def octets (l : List (Option Sym)) : List Byte := l.map fun y => (Sym.data? y).getD 0
def allData (l : List (Option Sym)) : Bool := l.all fun y => (Sym.data? y).isSome

/-- The idle commas of a frame whose EOF ends before symbol `from_`, in a row up to its end, behind `before` of them. -/
def idleCommas (l : List (Option Sym)) (from_ before : Nat) : Nat :=
  (l.drop from_).foldl (fun c y => match y with
    | some y => if y = K28_5 then c + 1 else if y = D16_2 then c else 0
    | none => 0) before

/-- A frame whose real-time section fails, or with a code group that is not valid (R212, R225): its rows are invalid. -/
def State.sectionBad (s : State) (n : Nat) : State :=
  let s := s.updHead n fun h => { h with arrived := true, rowsOk := false, pyrOk := false }
  (if s.rg P.HP_GEN n = 1 then s.formMelt n else s).headErrored n 1

/-- A return frame of an RHL2 head whose symbols are `ss` and all valid (R213, R214, R216). -/
def State.returnRhl2 (s : State) (n : Nat) (ss : List (Option Sym)) : State :=
  let f := octets ss
  if !((ss.getD 0 none).any fun y => y = K27_7) || !allData ((ss.drop 1).take 45) || u16 f 44 ≠ crc16 (field f 1 43) then s.sectionBad n
  else
    let ctl := u8 f 1
    let rt := field f 4 12 ++ field f 16 2 ++ field f 18 26
    let pos := [i24 rt 0, i24 rt 3, i24 rt 6]
    let cur := [u16 rt 9, u16 rt 11, u16 rt 13]
    let pyr := (List.range 10).map fun k => u16 rt (15 + 2 * k)
    let d0 := deltaOf (u16 rt 36)
    let d1 := deltaOf (u16 rt 38)
    let (own, other) := if s.straps.roleB then (d1, d0) else (d0, d1)
    let bulk := allData ((ss.drop 46).take 220) && u32 f 262 = crc32c (field f 1 261)
    let s := if bulk then s.headPage n (field f 46 216) else s.headCrc n 4
    s.headSection n (ctl % 8) (bit ctl 4) (bit ctl 5) (bit ctl 3) (bit ctl 7) pos cur (u8 rt 35) pyr own other

/-- A return frame of an RHL1 head (R241, R242). -/
def State.returnRhl1 (s : State) (n : Nat) (ss : List (Option Sym)) : State :=
  let f := octets ss
  if !((ss.getD 0 none).any fun y => y = K27_7) || !allData ((ss.drop 1).take 14) || u16 f 13 ≠ crc16 (field f 1 12) then s.sectionBad n
  else
    let ctl := u8 f 1
    s.headSection n (ctl % 8) (bit ctl 4) (bit ctl 5) true false [i24 f 3, i24 f 6, i24 f 9] [0, 0, 0] (u8 f 12) [] (some 160) (some 160)

/-- HEAD_RETURN_FRAME: a return frame whose SOF reaches the pins now, as the code groups that follow from there, its idle pairs
with them (R212-R217, R241). Behind a frame that did not fill its 320 symbols the running disparity is read afresh from the next
SOF (log entry 87). -/
def State.returnFrame (s : State) (n : Nat) (codes : List Nat) : State :=
  let h := s.head n
  if h.state = 0 ∨ h.arrived then s
  else
    let pos := h.rxRd.getD (codes.headD 0 = encodeSym true K27_7)
    let (ss, rd) := decodeSyms pos codes
    let rhl2 := s.rg P.HP_GEN n = 1
    let s := s.updHead n fun h =>
      { h with rxRd := if codes.length = 320 then some rd else none,
               commas := idleCommas ss (if rhl2 then 268 else 17) (if ss.all (·.isSome) then h.commas else 0) }
    if !ss.all (·.isSome) then s.sectionBad n else if rhl2 then s.returnRhl2 n ss else s.returnRhl1 n ss

/-- HEAD_FRAME_MISSING: no SOF by the tick + A_last + 40 ns (R225). -/
def State.frameMissing (s : State) (n : Nat) : State :=
  let h := s.head n
  if h.state < 2 ∨ !h.aligned ∨ h.arrived ∨ !h.sent ∨ s.now < h.sentAt + h.aLast + 40 then s
  else
    let s := s.updHead n fun h => { h with arrived := true, rowsOk := false, pyrOk := false }
    let s := if s.rg P.HP_GEN n = 1 then s.formMelt n else s
    s.headErrored n 3

/-- At the end of a frame in which an RHL2 port has had no return at all, its light of the frame before has no measurement (R173). -/
def State.meltMissing (s : State) (n : Nat) : State :=
  if s.rg P.HP_GEN n ≠ 1 ∨ (s.xy2Of n).isSome ∨ (s.head n).arrived then s
  else (s.updHead n fun h => { h with pyrOk := false }).formMelt n

/-- HEAD_LINK_TIMEOUT: LINK_TMO passes in TRAIN without alignment (R222). -/
def State.linkTimeout (s : State) (n : Nat) : State :=
  let h := s.head n
  if h.state = 1 ∧ s.now ≥ h.trainAt + s.rg P.HP_LINK_TMO n * 1000000 then
    (s.updHead n fun h => { h with trainAt := s.now }).headTo n 1 3
  else s

/-- HEAD_LOCK_LOST: the receiver loses lock (R222). In UP it is an axis fault with cause 2, and the port is in FAULT,
not aligned (log entry 30). -/
def State.lockLost (s : State) (n : Nat) : State :=
  match (s.head n).state with
  | 2 => (s.unalign n).headTo n 1 4
  | 3 => (s.axisFault n 4 7).unalign n
  | 4 => s.unalign n
  | _ => s

/-- R239: the head checks of arming. -/
def State.headReady (s : State) (n : Nat) : Bool :=
  match s.xy2Of n with
  | some _ => s.rg P.HP_FAULT n = 0
  | none =>
    (s.head n).state = 3 && s.rg P.HP_FAULT n = 0 &&
    (s.rg P.HP_MODE n = 0 || [0, 1, 2].all fun a => (s.axisSlot n a).isNone || s.handed n a)

/-! ## Downstream frames (R215, R234, R241) -/

/-- R91: at the tick of frame k the setpoint of head frame k + 1 is committed: the path step mapped for it, or the last
one where the path stands. Up to the place where ADV changed the lookahead before the change holds; what is committed stays so. -/
def State.commitSet (s : State) (n : Nat) : State :=
  let b := s.beam n
  let upTo (adv : Nat) : Int := (s.tick + 2560 + adv * 256 : Nat)
  let t := max b.committed (if upTo b.advOld < b.advFrom then upTo b.advOld else upTo (s.rg P.BEAM_ADV n))
  let h := s.head n
  match (b.ahead.filter fun a => a.t ≤ t).getLast? with
  | some a =>
    let (x, s) := s.clampSet n a.mx
    let (y, s) := s.clampSet n a.my
    let (z, s) := s.clampSet n a.mf
    let s := s.updHead n fun h => { h with setPrev := h.setNow, setNow := h.setNext, setNext := [x, y, z] }
    s.updBeam n fun b => { b with committed := max b.committed a.t }
  | none => s.updHead n fun _ => { h with setPrev := h.setNow, setNow := h.setNext }

/-- The frame type of R234, its values, the AXMODE mask and whether a current repeats. -/
def State.downType (s : State) (n : Nat) : Nat × List Int × Nat × Bool :=
  let h := s.head n
  let park := [0, 1, 2].map fun a => s.rgI (P.HP_PARK_HU + a) n
  if s.fatal then (0, [0, 0, 0], 0, false)
  else match h.state with
  | 1 => (4, [0, 0, 0], 0, false)
  | 2 => (0, [0, 0, 0], 0, false)
  | 4 => if !h.aligned then (4, [0, 0, 0], 0, false) else if h.latched then (3, park, 0, false) else (0, [0, 0, 0], 0, false)
  | _ =>
    if !h.latched then (0, [0, 0, 0], 0, false)
    else if s.rg P.HP_MODE n = 0 then (1, h.setNow, 0, false)
    else
      let m := s.rg P.HP_HANDOVER n % 8
      let vals := [0, 1, 2].map fun a => if bit m a then h.cur.getD a 0 else h.setNow.getD a 0
      (2, vals, m, [0, 1, 2].any fun a => bit m a && !h.curFresh.getD a false)

/-- The 320 symbols of a downstream frame around its octets: SOF, EOF and the idle pairs (R213, R241). -/
def linkFrame (octets : List Byte) : List Sym :=
  let pairs := (317 - octets.length) / 2
  K27_7 :: octets.map symD ++ [K29_7, K23_7] ++ (List.replicate pairs [K28_5, D16_2]).flatten

/-- The head port's part of a frame tick: a frame not returned is missing, the setpoints advance, and the downstream frame
of the frame that begins is sent. -/
def State.headTick (s : State) (n : Nat) : State :=
  let s := s.commitSet n
  let s := s.updHead n fun h => { h with rowsOk := false, pyrOk := false, meltOk := false }
  let h := s.head n
  let rhl2 := s.rg P.HP_GEN n = 1
  if h.state = 0 then s.updHead n fun h => { h with arrived := false, sent := false }
  else if !rhl2 ∧ s.frameNo % 2 = 1 then s
  else
    let (type, vals, mask, stale) := s.downType n
    let s := if stale then s.bump P.HP_AXO_STALE n else s
    let body := vals.flatMap fun v => le 3 (ofSigned 24 v)
    let octets : List Byte :=
      if rhl2 then
        let rt := le 1 (type + 8 * b2n s.twin.own) ++ le 2 (s.frameNo % 65536) ++ body ++ le 1 mask ++ le 1 (b2n stale) ++ zeros 1
        let head := rt ++ le 2 (crc16 rt)
        let all := head ++ zeros 244
        all ++ le 4 (crc32c all)
      else
        let rt := le 1 type ++ le 1 (s.frameNo / 2 % 256) ++ body
        rt ++ le 2 (crc16 rt)
    let (codes, rd) := encodeSyms h.txRd (linkFrame octets)
    let s := s.updHead n fun h =>
      { h with typeSent := type, axmode := mask, arrived := false, sent := true, sentAt := s.tick, txRd := rd,
               curFresh := [false, false, false] }
    let s := s.setRg P.HP_LINKS n (s.rg P.HP_LINKS n % 8 - bits (s.rg P.HP_LINKS n) 1 1 * 2 + 2 * b2n s.twin.own)
    if s.killed then s else s.put (.headFrame n codes)

/-! ## XY2-100 ports (R243-R248) -/

/-- R246: the code of a value of axis a. -/
def xy2Code (v : Int) (inv : Bool) : Nat :=
  let c := (clampInt 0 65535 (32768 + v / 256)).toNat
  if inv then 65535 - c else c

/-- The codes on the X, Y and Z pairs: INV turns an axis round, SWAP exchanges X and Y (R246). -/
def xy2Sent (inv swap : Nat) (vs : List Int) : List Nat :=
  let codes := [0, 1, 2].map fun a => xy2Code (vs.getD a 0) (bit inv a)
  if swap = 1 then [codes.getD 1 0, codes.getD 0 0, codes.getD 2 0] else codes

/-- The 20 bits of an XY2-100 frame, first bit highest (R243). -/
def xy2Word (code : Nat) : Nat :=
  let w := 0x20000 + code * 2
  w + popCount 20 w % 2

/-- XY2_FRAME: the frame that begins now (R245, R246). In FAULT it carries PARK_HU (R247). -/
def State.xy2Frame (s : State) (q : Nat) : State :=
  let n := s.rg P.XY2_BEAM q
  if s.now % 10000 ≠ 0 ∨ n ≥ s.nBeams ∨ !s.expRuns then s
  else
    let h := s.head n
    let k := s.now / 2560 * 2560
    let v (a : Nat) : Int :=
      if s.rg P.HP_FAULT n = 1 then s.rgI (P.HP_PARK_HU + a) n
      else
        let p := h.setNow.getD a 0
        roundDiv (p * 2560 + ((s.now - k : Nat) : Int) * (h.setNext.getD a 0 - p)) 2560
    let inv := s.rg P.XY2_INV q
    let vs := [0, 1, 2].map v
    let codes := xy2Sent inv 0 vs
    let out := xy2Sent inv (s.rg P.XY2_SWAP q) vs
    let s := forEach [0, 1, 2] (fun a s => s.setRg (P.XY2_CODE + a) q (codes.getD a 0)) s
    if s.twin.own && !s.killed then s.put (.legacyFrame q 0xFFFFE (out.map xy2Word)) else s

/-- XY2_STATUS_FRAME: the 20 bits sampled in a frame, first bit highest (R247). -/
def State.xy2Status (s : State) (q w : Nat) : State :=
  let n := s.rg P.XY2_BEAM q
  let mask := s.rg P.XY2_STAT_MASK q
  if n ≥ s.nBeams ∨ mask = 0 then s
  else
    let p := s.xy2.getD q xy2Reset
    if popCount 20 w % 2 = 0 then
      let st := bits w 16 1
      let hit := Nat.land (Nat.xor (Nat.xor st (s.rg P.XY2_STAT_POL q)) 0xFFFF) mask ≠ 0
      let s := { s with xy2 := s.xy2.modify q fun _ => ⟨false, hit⟩ }
      let s := s.setRg P.XY2_STAT q st
      if hit then s.axisFault n (2 ^ 10) 7 else s
    else
      let s := { s with xy2 := s.xy2.modify q fun p => ⟨true, p.causeNow || p.lastBad⟩ }
      let s := s.bump P.XY2_STAT_ERR q
      if p.lastBad then s.axisFault n 2 7 else s

/-- A write of XY2.BEAM takes effect (R244): the head port of the named beam goes OFF, that of the beam before comes back. -/
def State.xy2Assigned (s : State) (q old : Nat) : State :=
  let n := s.rg P.XY2_BEAM q
  if n = old then s
  else
    let s := { s with xy2 := s.xy2.modify q fun _ => xy2Reset }
    let s := if n < s.nBeams then s.headOff n 1 else s
    if old < s.nBeams ∧ s.rg P.HP_GEN old ≠ 0 ∧ s.expRuns then s.headTrain old 1 else s

end Sys2Proof.Machine
end

