-- ==== Sys2Proof/Machine/Conservator.lean ====
section
/-!
DEFINITION. The Conservator engine: the SF and HY laws, modes and transfers, supervision, traces and the frame schedule
(R174-R207).
-/
namespace Sys2Proof.Machine

open Sys2Proof

def State.updCns (s : State) (f : CnsSt → CnsSt) : State := { s with cns := f s.cns }

/-- Source path of a slot, and of the engine (R207). -/
def State.slotSrc (s : State) (i : Nat) : Nat := s.srcPath 1 7 i
def State.engineSrc (s : State) : Nat := s.srcPath 1 7 0x80

/-! ## Vectors of binary32 values (R183) -/

/-- A row of a matrix times a vector: fused multiply-adds in ascending column index, from the product of column 0. -/
def fDot (row x : List Nat) : Nat :=
  match row, x with
  | r :: rs, v :: vs => (rs.zip vs).foldl (fun acc p => fFma p.1 p.2 acc) (fMul r v)
  | _, _ => 0

/-- DIM (R185): states, inputs, rows, integrator, notches, integrated row. -/
structure Dim where
  n : Nat
  m : Nat
  p : Nat
  integ : Bool
  notches : Nat
  row : Nat

def State.dim (s : State) (i : Nat) : Dim :=
  let d := s.sf i P.MPL_DIM
  ⟨bits d 2 0, bits d 4 3, bits d 6 5, bit d 7, bits d 9 8, bits d 11 10⟩

def State.sfVec (s : State) (i p len : Nat) : List Nat := (List.range len).map fun k => s.sf i p k
def State.setVec (s : State) (i p : Nat) (l : List Nat) : State :=
  (l.foldl (fun (a : State × Nat) v => (a.1.setSf i p a.2 v, a.2 + 1)) (s, 0)).1

/-- The steady state of a notch for a constant input (R188). -/
def notchSteady (c : List Nat) (v : Nat) : List Nat :=
  [fMul v (fSub fOne (c.getD 0 0)), fMul v (fSub (c.getD 2 0) (c.getD 4 0))]

/-- One step of a notch (R188): output and states. The products are fused with the sum that follows (log entry 33). -/
def notchStep (c st : List Nat) (v : Nat) : Nat × List Nat :=
  let k (j : Nat) : Nat := c.getD j 0
  let out := fFma (k 0) v (st.getD 0 0)
  (out, [fAdd (fFma (fNeg (k 3)) out (fMul (k 1) v)) (st.getD 1 0), fFma (fNeg (k 4)) out (fMul (k 2) v)])

def State.notchCoef (s : State) (i q : Nat) : List Nat := (List.range 5).map fun c => s.sf i P.MPL_NOTCH (5 * q + c)

/-- Both notches in steady state for a value. -/
def State.notchesFor (s : State) (i v : Nat) : List Nat :=
  notchSteady (s.notchCoef i 0) v ++ notchSteady (s.notchCoef i 1) v

/-! ## Records and modes -/

/-- CNS_MODE (R207); it makes Docent's source of the slot pending (R465). -/
def State.cnsModeRec (s : State) (i from_ dest cause u0 xi0 : Nat) : State :=
  (s.record (s.slotSrc i) 0x1302 (le 1 i ++ le 1 from_ ++ le 1 dest ++ le 1 cause ++ le 4 u0 ++ le 4 xi0)).docEdge (161 + i)

/-- MODE as it reads: the mode with IMPL in bit 2. -/
def CSlot.modeWord (c : CSlot) : Nat := c.mode + 4 * b2n c.impl

/-- x to X0, integrators to 0, notches as given (R184, R197). -/
def State.sfInit (s : State) (i : Nat) (notch : List Nat) : State :=
  let s := s.setVec i P.MPL_X (s.sfVec i P.MPL_X0 6)
  let s := s.setVec i P.MPL_XI [0, 0]
  s.updSlot i fun c => { c with notch := notch }

/-- A slot is implausible or numerically faulted. An axis loop goes to the beam block, which interrupts the beam, and if its axis was
handed over on to the head port with cause 8 (R201, R227, R228; log entry 86); for other loops the fault is Contained. -/
def State.slotFault (s : State) (i code seq : Nat) (handed : Bool) : State :=
  let c := s.slotOf i
  if c.kind = 1 then
    let s := s.bumpErr (s.slotSrc i)
    let s := s.bumpErr (s.beamSrc c.a)
    let s := s.escalated (s.srcPath 1 (c.a / 4) 0xFF) clsDegraded 2 (s.slotSrc i) code seq 0
    if handed then s.axisFault c.a (2 ^ 8) (2 ^ c.b) else (s.faultOn (s.slotSrc i) clsDegraded code seq).interrupt c.a 6
  else s.faultOn (s.slotSrc i) clsContained code seq

/-- Whether the axis of an axis slot is handed over (R235). -/
def State.slotHanded (s : State) (i : Nat) : Bool := (s.slotOf i).kind = 1 && s.handed (s.slotOf i).a (s.slotOf i).b

/-- What is in effect of a slot's faults ends: its return to AUTO, or its binding anew (R200, R177). -/
def State.slotClear (s : State) (i : Nat) : State := (s.faultOff (s.slotSrc i) clsContained).clearDegraded (s.slotSrc i)

/-- The mode changes by command that have waited for the slot's first output are recorded, in their order (R195, R207). -/
def State.flushModes (s : State) (i u0 xi0 : Nat) : State :=
  ((s.slotOf i).recs.foldl (fun s r => s.cnsModeRec i r.1 r.2 1 u0 xi0) s).updSlot i fun c => { c with recs := [] }

/-- An axis slot leaves AUTO: its hand-over ends (R235). -/
def State.leaveAuto (s : State) (i : Nat) : State :=
  let c := s.slotOf i
  if c.kind = 1 then s.setHanded c.a c.b false else s

/-! ## Hysteretic loops (R191-R194) -/

def State.hyPid (i p : Nat) : Nat := p + i * 2 ^ 16
def State.hy (s : State) (i p : Nat) : Nat := s.rg p i

/-- Change a hysteretic output (R192). -/
def State.hyOut (s : State) (i v : Nat) : State :=
  if s.hy i P.HYL_OUT = v then s
  else ((s.setRg P.HYL_OUT i v).bump P.HYL_SWITCHES i).updSlot i fun c => { c with hyAt := s.now }

/-- HY_SWITCH: in AUTO, a switch that the band asks for and the minimum times allow (R192). -/
def State.hySwitch (s : State) (i : Nat) : State :=
  let c := s.slotOf i
  if c.kind ≠ 3 ∨ c.mode ≠ 2 ∨ !s.expRuns then s
  else
    let v := s.hy i P.HYL_IN_NOW
    let half := fDiv (s.hy i P.HYL_HY_BAND) (fOfInt 2)
    let low := fLt v (fSub (s.hy i P.HYL_HY_REF) half)
    let high := fLt (fAdd (s.hy i P.HYL_HY_REF) half) v
    let cooling := s.hy i P.HYL_HY_DIR = 1
    let on := if cooling then high else low
    let off := if cooling then low else high
    let held := s.now - c.hyAt
    if s.hy i P.HYL_OUT = 0 then
      if on && held ≥ s.hy i P.HYL_HY_TOFF_MIN * 1000000 then s.hyOut i 1 else s
    else if off && held ≥ s.hy i P.HYL_HY_TON_MIN * 1000000 then s.hyOut i 0
    else s

/-- HY_IMPLAUSIBLE: the input's channel is faulted or too old (R193). -/
def State.hyImplausible (s : State) (i : Nat) : State :=
  let c := s.slotOf i
  let chan := s.power.hk.getD c.a ⟨[], false, false, false, false, 0⟩
  let stale := s.now - s.power.hkAt > s.hy i P.HYL_HY_STALE * 256000000
  if c.kind ≠ 3 ∨ c.mode = 0 ∨ c.impl ∨ !(chan.faulted || stale) ∨ !s.expRuns then s
  else
    let out := match s.hy i P.HYL_HY_SAFE with | 0 => 0 | 1 => 1 | _ => s.hy i P.HYL_OUT
    let old := c.mode
    let s := s.flushModes i (fOfInt (s.hy i P.HYL_OUT : Nat)) 0
    let s := s.updSlot i fun c => { c with mode := 1, impl := true, byCmd := false }
    let s := (s.setRg P.HYL_MAN_OUT i out).hyOut i out
    let s := s.bump P.HYL_IMPL_COUNT i
    let seq := s.seqOf (s.slotSrc i)
    let s := s.record (s.slotSrc i) 0x1301 (le 1 i ++ le 1 3 ++ le 1 c.a ++ le 1 0xFF ++ le 4 (s.hy i P.HYL_IN_NOW) ++ zeros 16)
    let s := s.slotFault i 0x1301 seq false
    if old = 1 then s else s.cnsModeRec i old 1 2 (fOfInt (out : Nat)) 0

/-- R184: a threshold of R192 is not a finite number: the slot enters MANUAL with its present output. The law has no step of R186;
the record names step 0 (log entry 89). -/
def State.hyNumeric (s : State) (i : Nat) : State :=
  let c := s.slotOf i
  let half := fDiv (s.hy i P.HYL_HY_BAND) (fOfInt 2)
  let ref := s.hy i P.HYL_HY_REF
  if c.kind ≠ 3 ∨ c.mode ≠ 2 ∨ !s.expRuns ∨ (fFinite (fSub ref half) && fFinite (fAdd ref half)) then s
  else
    let out := s.hy i P.HYL_OUT
    let u : Nat := fOfInt (out : Nat)
    let s := s.updSlot i fun c => { c with mode := 1, byCmd := false }
    let s := s.setRg P.HYL_MAN_OUT i out
    let seq := s.seqOf (s.slotSrc i)
    let s := s.record (s.slotSrc i) 0x1303 (le 1 i ++ zeros 3 ++ le 8 s.frameNo ++ le 4 u)
    (s.cnsModeRec i 2 1 3 u 0).slotFault i 0x1303 seq false

/-- The slot drives its GPO through the GPO word (R191). -/
def State.hyWord (s : State) (i : Nat) : State :=
  let c := s.slotOf i
  if c.kind ≠ 3 ∨ c.mode = 0 then s
  else
    let m := 2 ^ (c.b % 8)
    let w := s.rg P.IO_GPO 0
    let off := Nat.xor w (Nat.land w m)
    s.setRg P.IO_GPO 0 (if (s.hy i P.HYL_OUT % 2 = 1) != bit c.b 7 then off + m else off)

/-- One frame of a hysteretic slot, on the input read at its tick. -/
def State.hyRun (s : State) (i : Nat) : State :=
  let c := s.slotOf i
  let s := if c.mode = 1 then s.hyOut i (s.hy i P.HYL_MAN_OUT % 2) else s
  let s := s.hySwitch i
  (((s.flushModes i (fOfInt (s.hy i P.HYL_OUT : Nat)) 0).hyNumeric i).hyImplausible i).hyWord i

/-- GPO bits owned by hysteretic slots (R191). -/
def State.gpoOwned (s : State) : Nat :=
  (s.cns.slots.filter fun c => c.kind = 3 && c.mode ≠ 0).foldl (fun m c => Nat.lor m (2 ^ (c.b % 8))) 0

/-- The GPO word without the bits that hysteretic slots own. -/
def State.gpoFree (s : State) : Nat :=
  let w := s.rg P.IO_GPO 0
  Nat.xor w (Nat.land w s.gpoOwned)

/-- R194: the CNS domain stops; the hysteretic outputs go off, their off time counted from now. -/
def State.cnsStop (s : State) : State :=
  let s := forEach (List.range 128) (fun i s =>
    let c := s.slotOf i
    if c.kind = 3 ∧ c.mode ≠ 0 then (s.hyOut i 0).updSlot i fun c => { c with hyAt := s.now } else s) s
  s.setRg P.IO_GPO 0 s.gpoFree

/-- The levels driven (R463). -/
def State.gpoPins (s : State) : Nat :=
  if s.power.state = 1 ∨ s.power.state = 5 ∨ s.fatal ∨ s.power.inReset ∨ !s.power.vin ∨ !s.twin.own ∨ s.killed then 0
  else if s.expRuns then s.rg P.IO_GPO 0
  else s.gpoFree

/-! ## SF supervision (R199, R200) -/

/-- The first supervised row out of band, of the last frame. -/
def State.outOfBand (s : State) (i : Nat) : Option Nat :=
  (List.range (s.dim i).p).find? fun r =>
    bit (s.slotOf i).valid r && fLt 0 (s.sf i P.MPL_RES_BAND r) && fLt (s.sf i P.MPL_RES_BAND r) (fAbs (s.sf i P.MPL_E r))

/-- CNS_IMPLAUSIBLE: the count has reached RES_N and IMPL is clear (R200). -/
def State.implausible (s : State) (i : Nat) : State :=
  let c := s.slotOf i
  if (c.kind ≠ 1 ∧ c.kind ≠ 2) ∨ c.mode = 0 ∨ c.impl ∨ !s.expRuns ∨ s.sf i P.MPL_RES_CNT < s.sf i P.MPL_RES_N then s
  else
    let row := (s.outOfBand i).getD 0
    let good := s.sfVec i P.MPL_U_GOOD 2
    let handed := s.slotHanded i
    let s := s.flushModes i (s.sf i P.MPL_U) (s.sf i P.MPL_XI)
    let s := s.updSlot i fun c => { c with impl := true }
    let s := s.setSf i P.MPL_IMPL_COUNT 0 (s.sf i P.MPL_IMPL_COUNT + 1)
    let seq := s.seqOf (s.slotSrc i)
    let s := s.record (s.slotSrc i) 0x1301
      (le 1 i ++ le 1 c.kind ++ le 1 c.a ++ le 1 row ++ le 4 (s.sf i P.MPL_E row) ++ le 4 (s.sf i P.MPL_RES_BAND row) ++
        le 2 (s.sf i P.MPL_RES_N) ++ zeros 2 ++ le 4 (good.getD 0 0))
    let s := if c.mode = 2 then
        let s := s.updSlot i fun c => { c with mode := 1, byCmd := false, xfer := false, ramp := [none, none] }
        let s := (s.setVec i P.MPL_MAN_U good).setVec i P.MPL_U good
        (s.leaveAuto i).cnsModeRec i 2 1 2 (good.getD 0 0) (s.sf i P.MPL_XI 0)
      -- only a slot that is MANUAL by command keeps its MAN_U
      else if !c.byCmd then (s.setVec i P.MPL_MAN_U good).setVec i P.MPL_U good
      else s
    s.slotFault i 0x1301 seq handed

/-- MP_GAP_RESET: MP_GAP_FR frames held in a row set x to X0; the integrator is kept (R190). -/
def State.gapReset (s : State) (i : Nat) : State :=
  let c := s.slotOf i
  if c.kind = 2 ∧ c.mode ≠ 0 ∧ c.heldNow ∧ c.held = s.sf i P.MPL_MP_GAP_FR then
    s.setVec i P.MPL_X (s.sfVec i P.MPL_X0 6)
  else s

/-- R184: a numeric fault at a step of R186. -/
def State.numericFault (s : State) (i step : Nat) : State :=
  let c := s.slotOf i
  let last := s.sfVec i P.MPL_U 2
  let handed := s.slotHanded i
  let s := s.sfInit i (s.notchesFor i (last.getD 0 0))
  let s := s.updSlot i fun c => { c with mode := 1, byCmd := false, xfer := false, ramp := [none, none] }
  let s := s.setVec i P.MPL_MAN_U last
  let s := s.setSf i P.MPL_NUM_FAULT 0 (s.sf i P.MPL_NUM_FAULT + 1)
  let seq := s.seqOf (s.slotSrc i)
  let s := s.record (s.slotSrc i) 0x1303 (le 1 i ++ le 1 step ++ zeros 2 ++ le 8 s.frameNo ++ le 4 (last.getD 0 0))
  let s := if c.mode = 1 then s else (s.leaveAuto i).cnsModeRec i c.mode 1 3 (last.getD 0 0) 0
  s.slotFault i 0x1303 seq handed

/-! ## Inputs of a slot (R174-R176, R181, R187, R236, R237) -/

/-- What a slot works on in a frame: reference, feed-forward, rows, validity, held, late, row-1 value to use as u_prev. -/
structure SfIn where
  r : Nat
  ff : Nat
  y : List Nat
  valid : List Bool
  held : Bool
  late : Bool
  own : Option Nat
  pred2 : Option Nat

/-- Path steps of the frame that begins at t whose gate will be open: in RUN, or in a shutdown until its ramp has closed the gate
(R174, R128). -/
def State.openSteps (s : State) (n : Nat) (t : Int) : List Int :=
  let b := s.beam n
  let opens := b.st = 3 || (b.st = 4 && b.shut.any fun h => !h.closed)
  if !opens then []
  else ((List.range 10).map fun (k : Nat) => t + 256 * (k : Int)).filter fun q => b.liveGates q ≠ []

/-- The mean Gallery factor of those steps, binary32 (R174). -/
def State.gBar (s : State) (n : Nat) (t : Int) : Option Nat :=
  let gs := (s.openSteps n t).map fun q => (((s.beam n).ahead.find? fun a => a.t = q).map (·.g)).getD fOne
  match gs with
  | [] => none
  | g :: rest => some (fDiv (rest.foldl fAdd g) (fOfInt (gs.length : Nat)))

/-- The camera's row 2 in frame k (R175, R176): its value and prediction, and the record's effects. -/
def State.cameraRow (s : State) (i : Nat) (k : Int) : Option (Nat × Nat) × State :=
  let cam := s.sf i P.MPL_MP_CAM
  let c := s.slotOf i
  if !bit cam 7 ∨ (s.dim i).p < 3 then (none, s)
  else match s.cns.seen.getD (cam % 8) none with
  | none => (none, s)
  | some blob =>
    if assocGet c.camUsed (cam % 8) = some blob.ts then (none, s)
    else
      let s := s.updSlot i fun c => { c with camUsed := assocPut c.camUsed (cam % 8) blob.ts }
      if blob.area = 0 then (none, s)
      else
        let f := ((blob.ts : Int) + toSigned 32 (s.sf i P.MPL_MP_CAM_OFS)) / 2560
        let age := k - f - 1
        if 1 ≤ age ∧ age ≤ (s.sf i P.MPL_MP_CAM_AGE : Int) then
          let v := match bits cam 4 3 with
            | 0 => fOfInt (blob.area : Nat)
            | 1 => blob.peak
            | _ => fOfInt (blob.spat : Nat)
          match c.hist.find? fun h => (h.1 : Int) = f + 1 with
          | some h => (some (v, h.2), s)
          | none => (none, s)
        else
          let s := s.setSf i P.MPL_MP_CAM_STALE 0 (s.sf i P.MPL_MP_CAM_STALE + 1)
          (none, s.record (s.slotSrc i) 0x1306 (le 1 i ++ le 1 (cam % 8) ++ zeros 2 ++ le 4 blob.fn ++ le 4 (ofSigned 32 age)))

/-- Rows of a slot in frame k, which issues after `cycles` issue cycles of earlier slots, six of them 5 ns (R180). Rows that have not
come when it issues are invalid and late, however long they stay away (R181); a beam without an RHL2 port has no light to come (R171). -/
def State.sfInputs (s : State) (i cycles : Nat) (k : Nat) (tick1 : Int) : SfIn × State :=
  let c := s.slotOf i
  let h := s.head c.a
  let came := h.rowsOk && h.rowsAt * 6 ≤ 3600 + 5 * cycles
  if c.kind = 1 then
    let sp (l : List Int) : Int := l.getD c.b 0
    let ff := fOfInt (sp h.setNext - 2 * sp h.setNow + sp h.setPrev)
    let s := s.setSf i (P.AXL_FF + 0x01000000) 0 ff
    let cur := s.headCurrent c.a c.b
    (⟨fOfInt (sp h.setNext), ff, [fOfInt ((s.headPos c.a).getD c.b 0), cur, 0], [came, came, false], false, !came,
      if h.rowsOk && bit h.ownLoop c.b then some (if came then cur else 0xFFFFFFFF) else none, none⟩, s)
  else
    let held := !(s.beam c.a).laser.openPrev
    let ok := h.meltOk && came && !held
    let ff := match s.gBar c.a tick1 with | some g => fSub fOne g | none => 0
    let (cam, s) := s.cameraRow i k
    (⟨s.sf i P.MPL_MP_REF, ff, [s.rg P.BEAM_PYR_T c.a, s.rg P.BEAM_PYR_I c.a, (cam.map (·.1)).getD 0], [ok, ok, cam.isSome], held,
      s.rg P.HP_GEN c.a = 1 && (s.xy2Of c.a).isNone && !came, none, cam.map (·.2)⟩, s)

/-! ## One frame of the SF law (R186, R190, R196, R199) -/

/-- What one evaluation of the law gives. -/
structure SfOut where
  x : List Nat
  xi : List Nat
  e : List Nat
  u : List Nat
  notch : List Nat
  bad : Nat
  ramp : List (Option Nat)
  clamped : List (Nat × Nat × Nat)
  pred2 : Nat

/-- The notches in use, notch 0 first. -/
def runNotches (coef : List (List Nat)) (st : List Nat) (v : Nat) : Nat × List Nat :=
  (coef.foldl (fun (a : Nat × List Nat × Nat) c =>
    let (out, ns) := notchStep c [st.getD (2 * a.2.2) 0, st.getD (2 * a.2.2 + 1) 0] a.1
    (out, a.2.1 ++ ns, a.2.2 + 1)) (v, [], 0)) |> fun a => (a.1, a.2.1 ++ st.drop (2 * a.2.2))

/-- The law of R186 for slot i on inputs `q`. -/
def State.sfLaw (s : State) (i : Nat) (q : SfIn) : SfOut :=
  let c := s.slotOf i
  let d := s.dim i
  let auto_ := c.mode = 2
  let x := s.sfVec i P.MPL_X d.n
  let up0 := s.sfVec i P.MPL_U d.m
  let up := match q.own with | some v => if v = 0xFFFFFFFF then up0 else [v] | none => up0
  let rowOf (p w r len : Nat) : List Nat := (List.range len).map fun j => s.sf i p (w * r + j)
  let y0 (r : Nat) : Nat := s.sf i P.MPL_Y0 r
  let pred2 := fDot (rowOf P.MPL_C 6 2 d.n) x
  -- 1 innovation
  let e := (List.range d.p).map fun r =>
    if q.held || !(q.valid.getD r false) then 0
    else
      let p := if r = 2 then q.pred2.getD pred2 else fDot (rowOf P.MPL_C 6 r d.n) x
      fSub (fSub (q.y.getD r 0) (y0 r)) p
  let bad1 := !e.all fFinite
  -- 2 correct and predict
  let xc := (List.range d.n).map fun r => fAdd (x.getD r 0) (fDot (rowOf P.MPL_L 3 r d.p) e)
  let x' := if q.held then x
    else (List.range d.n).map fun r => fAdd (fDot (rowOf P.MPL_A 6 r d.n) xc) (fDot (rowOf P.MPL_B 2 r d.m) up)
  let bad2 := !q.held && !(xc.all fFinite && x'.all fFinite)
  let rd := fSub q.r (y0 d.row)
  let kdot (j : Nat) : Nat := fDot (rowOf P.MPL_K 6 j d.n) x'
  let man := s.sfVec i P.MPL_MAN_U 2
  let xim := s.sf i P.MPL_XI_MAX
  let xi0 := s.sfVec i P.MPL_XI 2
  -- R196: presets of a bumpless transfer
  let preset (j : Nat) : Nat :=
    let v0 := fAdd (fSub (fMul (s.sf i P.MPL_N j) rd) (kdot j)) (fMul (s.sf i P.MPL_F j) q.ff)
    fDiv (fSub (man.getD j 0) v0) (s.sf i P.MPL_KI j)
  let canSet (j : Nat) : Bool := d.integ && fNum (s.sf i P.MPL_KI j) ≠ 0
  let er := fSub rd (fSub (q.y.getD d.row 0) (y0 d.row))
  let integrates := !c.xfer && auto_ && d.integ && !q.held && q.own.isNone && q.valid.getD d.row false
  let ke (j : Nat) : Nat := fMul (s.sf i P.MPL_KI j) er
  -- what step 3 computes before the clamp
  let xiRaw := (List.range 2).map fun j =>
    let old := xi0.getD j 0
    if j ≥ d.m then old
    else if c.xfer then (if canSet j then preset j else old)
    else if integrates then
      let u := up.getD j 0
      if (fNum u = fNum (s.sf i P.MPL_U_MAX j) && fLt 0 (ke j)) || (fNum u = fNum (s.sf i P.MPL_U_MIN j) && fLt (ke j) 0) then old
      else fAdd old er
    else old
  let xi := xiRaw.mapIdx fun j v => if j < d.m && (integrates || (c.xfer && canSet j)) then fClamp (fNeg xim) xim v else v
  let bad3 := !xiRaw.all fFinite || (integrates && !(fFinite er && (List.range d.m).all fun j => fFinite (ke j)))
  let ramp := (List.range 2).map fun j =>
    if c.xfer && j < d.m && !canSet j then some 0 else c.ramp.getD j none
  let clamped := if !c.xfer then [] else ((List.range d.m).filter fun j => canSet j && (fLt (preset j) (fNeg xim) || fLt xim (preset j))).map fun j =>
    (j, preset j, fClamp (fNeg xim) xim (preset j))
  -- 4 control
  let v := (List.range d.m).map fun j =>
    fAdd (fAdd (fSub (fMul (s.sf i P.MPL_N j) rd) (kdot j)) (fMul (s.sf i P.MPL_KI j) (xi.getD j 0))) (fMul (s.sf i P.MPL_F j) q.ff)
  let st := if c.xfer then s.notchesFor i (man.getD 0 0) else c.notch
  let (v0, notch) := runNotches ((List.range d.notches).map fun k => s.notchCoef i k) st (v.getD 0 0)
  let v := v0 :: v.drop 1
  let bad4 := !(v.all fFinite && notch.all fFinite)
  -- 5 output
  let xfr := s.sf i P.MPL_XFER_FR
  let uRaw := (List.range 2).map fun j =>
    if j ≥ d.m then 0
    else if !auto_ then man.getD j 0
    else match ramp.getD j none with
      | some k =>
        let from_ := (if c.xfer then man else c.rampFrom).getD j 0
        if k ≥ xfr then v.getD j 0
        else fAdd from_ (fMul (fSub (v.getD j 0) from_) (fDiv (fOfInt (k : Nat)) (fOfInt (xfr : Nat))))
      | none => v.getD j 0
  let u := uRaw.mapIdx fun j w => if auto_ && j < d.m then fClamp (s.sf i P.MPL_U_MIN j) (s.sf i P.MPL_U_MAX j) w else w
  let bad5 := !uRaw.all fFinite
  let ramp := ramp.map fun r => match r with | some k => if k ≥ xfr then none else some (k + 1) | none => none
  let bad := if bad1 then 1 else if bad2 then 2 else if bad3 then 3 else if bad4 then 4 else if bad5 then 5 else 0
  ⟨x', xi, e, u, notch, bad, ramp, clamped, pred2⟩

/-- The correction word of an output: c, saturated (R189). -/
def corrOf (u0 : Nat) : Int := clampInt (-16777215) 16777215 (roundDiv (fNum u0 * 16777215) fDen)

/-- A slot's output goes to its cell (R187, R189, R236). -/
def State.sfDeliver (s : State) (i : Nat) : State :=
  let c := s.slotOf i
  let u0 := s.sf i P.MPL_U 0
  if c.kind = 2 then s.updBeam c.a fun b => { b with laser := { b.laser with cNext := some (corrOf u0) } }
  else s.updHead c.a fun h =>
    { h with
      cur := h.cur.set c.b (clampInt (-8388607) 8388607 (roundDiv (fNum u0 * 8388607) fDen))
      curFresh := h.curFresh.set c.b true }

/-- One frame of an SF slot that is MANUAL or AUTO. -/
def State.sfRun (s : State) (i cycles k : Nat) (tick1 : Int) : State :=
  let (q, s) := s.sfInputs i cycles k tick1
  let c := s.slotOf i
  let s := if q.late then s.setSf i P.MPL_MEAS_LATE 0 (s.sf i P.MPL_MEAS_LATE + 1) else s
  let o := s.sfLaw i q
  let vmask := (List.range 3).foldl (fun m r => m + (if q.valid.getD r false && r < (s.dim i).p then 2 ^ r else 0)) 0
  let s := s.updSlot i fun c =>
    { c with y := q.y, valid := vmask, lateRow := q.late, heldNow := q.held, held := if q.held then c.held + 1 else 0,
             hist := ((k, o.pred2) :: c.hist).take 256, xfer := false, x2 := o.x ++ (s.sfVec i P.MPL_X 6).drop o.x.length,
             rampFrom := if c.xfer then s.sfVec i P.MPL_MAN_U 2 else c.rampFrom }
  let s := o.clamped.foldl (fun s p =>
    s.record (s.slotSrc i) 0x1305 (le 1 i ++ le 1 p.1 ++ zeros 2 ++ le 4 p.2.1 ++ le 4 p.2.2)) s
  let s := s.flushModes i (o.u.getD 0 0) (o.xi.getD 0 0)
  if o.bad ≠ 0 then (s.numericFault i o.bad).sfDeliver i
  else
    let s := s.setVec i P.MPL_X o.x
    let s := (s.setVec i P.MPL_XI o.xi).setVec i P.MPL_E (o.e ++ List.replicate (3 - o.e.length) 0)
    let s := s.updSlot i fun c => { c with notch := o.notch, ramp := o.ramp }
    let s := s.setVec i P.MPL_U o.u
    -- R199
    let sup := !q.held && (List.range (s.dim i).p).any fun r => bit vmask r && fLt 0 (s.sf i P.MPL_RES_BAND r)
    let oob := !q.held && (s.outOfBand i).isSome
    let s := if oob then s.setSf i P.MPL_RES_CNT 0 (min 65535 (s.sf i P.MPL_RES_CNT + 1))
      else if sup then (s.setSf i P.MPL_RES_CNT 0 0).setVec i P.MPL_U_GOOD o.u
      else s
    let s := if c.mode = 1 && c.byCmd then s.setVec i P.MPL_U_GOOD o.u else s
    let s := if oob then s.implausible i else s
    (s.gapReset i).sfDeliver i

/-! ## Traces (R206) -/

/-- CNS_TRACE_END: the trace has all its entries (R206). cause 1: its slot was freed. -/
def State.traceEnd (s : State) (freed : Bool) : State :=
  match s.cns.trace with
  | none => s
  | some t =>
    if !freed && t.written < t.frames then s
    else
      let s := s.updCns fun c => { c with trace := none }
      let s := s.setRg P.CNS_TRACE_SLOT 0 0xFF
      let s := s.returnLoan t.acc
      s.record s.engineSrc 0x1307 (le 1 t.slot ++ le 1 (b2n freed) ++ zeros 2 ++ le 4 t.written ++ le 4 t.acc)

/-- The entry of frame k (R206): x as step 2 left it. A slot that is OFF has no rows and delivers 0. -/
def State.traceEntry (s : State) (i k : Nat) : List Byte :=
  let c := s.slotOf i
  let words (l : List Nat) : List Byte := l.flatMap (le 4)
  if c.kind = 3 then
    le 8 k ++ words [s.hy i P.HYL_IN_NOW, 0, 0] ++ zeros 24 ++ words [fOfInt (s.hy i P.HYL_OUT : Nat), 0] ++ zeros 8 ++
      le 1 1 ++ le 1 c.modeWord ++ zeros 2
  else
    le 8 k ++ words ((c.y ++ [0, 0, 0]).take 3) ++ words c.x2 ++ words (s.sfVec i P.MPL_U 2) ++ words (s.sfVec i P.MPL_XI 2) ++
      le 1 (c.valid % 8 + 8 * b2n c.heldNow + 16 * b2n c.lateRow) ++ le 1 c.modeWord ++ le 2 (s.sf i P.MPL_RES_CNT)

/-- The trace's part of frame k, whose tick was `tick`. -/
def State.traceFrame (s : State) (k : Nat) (tick : TS) : State :=
  match s.cns.trace with
  | none => s
  | some t =>
    if tick < t.from_ then s
    else
      let s := if t.written = 0 then s.decide ⟨t.sess, t.stream, t.seq⟩ rOK tick [] else s
      let s := s.storeData t.acc (64 * t.written) (s.traceEntry t.slot k)
      let s := s.updCns fun c => { c with trace := some { t with written := t.written + 1 } }
      s.traceEnd false

/-! ## A frame of the engine (R180-R182) -/

/-- The sums of MELT_SUM (R397) for the frame that has ended. -/
def State.meltFrame (s : State) (n : Nat) (tick1 : Int) : State :=
  let b := s.beam n
  let g := s.gBar n tick1
  let ok := (s.head n).meltOk
  s.updBeam n fun b' =>
    { b' with melt := { b.melt with
        openFrames := b.melt.openFrames + b2n b.melt.frameOpen
        frameOpen := false
        validFrames := b.melt.validFrames + b2n ok
        sumT := b.melt.sumT + (if ok then fNum (s.rg P.BEAM_PYR_T n) else 0)
        sumI := b.melt.sumI + (if ok then fNum (s.rg P.BEAM_PYR_I n) else 0)
        sumC := b.melt.sumC + (if ok then b.laser.cPrev else 0)
        sumG := b.melt.sumG + (match b.melt.gNow with | some g => fNum g | none => 0)
        openG := b.melt.openG + b2n b.melt.gNow.isSome
        gNow := g } }

/-- MELT_SUM of the run that ends at this tick (R397). -/
def State.meltSum (s : State) (n : Nat) : State :=
  let m := (s.beam n).melt
  let mean (v : Int) (k d : Nat) : Nat := if k = 0 then 0 else fOfRat v (k * d)
  let clear (s : State) : State := s.updBeam n fun b =>
    { b with melt := { b.melt with openFrames := 0, validFrames := 0, sumT := 0, sumI := 0, sumC := 0, sumG := 0, openG := 0 } }
  if m.openFrames = 0 then clear s
  else
    clear (s.summary (s.beamSrc n) 0x100E
      (le 4 (s.now / 2560 - 1) ++ le 2 (min 65535 m.openFrames) ++ le 2 (min 65535 m.validFrames) ++ le 4 (mean m.sumT m.validFrames fDen) ++
        le 4 (mean m.sumI m.validFrames fDen) ++ le 4 (mean m.sumC m.validFrames 16777215) ++ le 4 (mean m.sumG m.openG fDen)) s.now)

/-- MELT_SUM of every beam, at a tick that ends a run. -/
def State.meltSums (s : State) : State :=
  let n := s.rg P.CAT_SUM_FR 0
  if n = 0 ∨ s.now % 2560 ≠ 0 ∨ (s.now / 2560) % n ≠ 0 then s
  else forEach (List.range s.nBeams) (fun n s => s.meltSum n) s

/-- The engine's work of frame k, done by its end: slots in table order, overruns, the trace (R180-R182). A frame's
results are taken at the tick that ends it. -/
def State.cnsFrame (s : State) (k : Nat) (tick0 : TS) : State :=
  let tick1 : Int := ((tick0 + 2560 : Nat) : Int)
  let s := forEach (List.range s.nBeams) (fun n s =>
    s.updBeam n fun b =>
      let c := match s.meltSlot n with
        | some i => if (s.slotOf i).mode = 0 then some 0 else none
        | none => some 0
      { b with laser := { b.laser with cNext := c } }) s
  let late := s.cns.late.filter fun i => (s.slotOf i).kind ≠ 0 && (s.slotOf i).mode ≠ 0
  let run := s.cns.order.foldl (fun (a : State × Nat) i =>
    let c := a.1.slotOf i
    if c.kind = 0 ∨ c.mode = 0 then a
    else
      let sf := c.kind ≠ 3
      let s := if late.contains i then a.1 else if sf then a.1.sfRun i a.2 k tick1 else a.1.hyRun i
      (s, a.2 + (if sf then 12 else 2))) (s, 0)
  let s := run.1.setRg P.CNS_LOAD 0 run.2
  let s := if late.isEmpty then s
    else (s.bump P.CNS_OVERRUN 0).record s.engineSrc 0x1304 (le 8 k ++ le 1 late.length ++ le 1 (late.headD 0))
  let s := s.updCns fun c => { c with late := [] }
  s.traceFrame k tick0

/-- What the engine reads at the tick of a frame: the newest blob records, and for its hysteretic slots the machine I/O page (R175,
R180, R191). -/
def State.engineReads (s : State) : State :=
  let s := s.updCns fun c => { c with seen := c.blobs }
  forEach (List.range 128) (fun i s =>
    let c := s.slotOf i
    if c.kind = 3 ∧ c.mode ≠ 0 then s.setRg P.HYL_IN_NOW i (s.rg P.HK_VALUE c.a) else s) s

/-- At the tick, each laser port takes the correction of the frame that begins; one that has not come is not used
(R114, R182). -/
def State.takeCorr (s : State) (n : Nat) : State :=
  let l := (s.beam n).laser
  match l.cNext with
  | some c => s.updBeam n fun b => { b with laser := { b.laser with cPrev := l.cNow, cNow := c } }
  | none =>
    let s := s.updBeam n fun b => { b with laser := { b.laser with cPrev := l.cNow } }
    (s.bump P.BEAM_CORR_LATE n).record (s.beamSrc n) 0x100A (le 8 s.frameNo)

/-! ## Mode changes at a boundary (R195-R198, R235) -/

/-- The record of a change by command waits for the first output of the new mode, behind those that wait already; a slot that goes OFF
has no further output (R195, R207). -/
def State.modeNoted (s : State) (i from_ dest u0 xi0 : Nat) : State :=
  if dest = from_ then s
  else
    let s := s.updSlot i fun c => { c with recs := c.recs ++ [(from_, dest)] }
    if dest = 0 then s.flushModes i u0 xi0 else s

/-- A CNS_MODE takes effect. -/
def State.applyMode (s : State) (i mode : Nat) (hold : Bool) (u0 u1 : Nat) : State :=
  let c := s.slotOf i
  let old := c.mode
  if c.kind = 0 then s
  else if c.kind = 3 then
    let s := if mode = 1 then s.setRg P.HYL_MAN_OUT i (if hold then s.hy i P.HYL_OUT else u0 % 2) else s
    let s := if mode = 2 then s.slotClear i else s
    let s := s.updSlot i fun c => { c with mode := mode, impl := if mode = 2 then false else c.impl, byCmd := mode = 1 }
    s.modeNoted i old mode (fOfInt (s.hy i P.HYL_OUT : Nat)) 0
  else
    let s := match mode with
      | 0 =>
        let s := s.updSlot i fun c =>
          { c with xfer := false, ramp := [none, none], y := [0, 0, 0], valid := 0, heldNow := false, lateRow := false }
        (s.leaveAuto i).setVec i P.MPL_U [0, 0]
      | 1 =>
        let man := if hold && old = 2 then s.sfVec i P.MPL_U 2 else if hold && old = 1 then s.sfVec i P.MPL_MAN_U 2 else [u0, u1]
        let s := (s.leaveAuto i).setVec i P.MPL_MAN_U man
        let s := if old = 0 then s.sfInit i (s.notchesFor i (man.getD 0 0)) else s
        s.updSlot i fun c => { c with byCmd := true, xfer := false, ramp := [none, none] }
      | _ =>
        if old = 2 then s
        else
          let s := s.slotClear i
          let s := if old = 0 then s.sfInit i [0, 0, 0, 0] else s
          let s := s.setSf i P.MPL_RES_CNT 0 0
          let s := s.updSlot i fun c => { c with impl := false, byCmd := false, xfer := old = 1, ramp := [none, none] }
          -- R235: an axis slot entering AUTO hands its axis over
          if c.kind = 1 ∧ (s.head c.a).state = 3 ∧ s.rg P.HP_MODE c.a = 1 ∧ s.rg P.HP_FAULT c.a = 0 then
            let cur := s.headCurrent c.a c.b
            let s := if old = 1 then (s.setSf i P.MPL_MAN_U 0 cur).setSf i P.MPL_U 0 cur else s
            let s := s.updHead c.a fun h =>
              { h with
                cur := h.cur.set c.b (roundDiv (fNum cur * 8388607) fDen)
                curFresh := h.curFresh.set c.b true
                velCnt := h.velCnt.set c.b 0
                folCnt := h.folCnt.set c.b 0 }
            s.setHanded c.a c.b true
          else s
    let s := s.updSlot i fun c => { c with mode := mode }
    s.modeNoted i old mode 0 (s.sf i P.MPL_XI 0)

/-- A boundary command of the Conservator takes effect at a tick (R26, R195). -/
def State.applyCnsWrite (s : State) (w : PendingWrite) : State :=
  let k : Ticket := ⟨w.sess, w.stream, w.seq⟩
  if w.op = 0x1301 then
    let i := u8 w.payload 0
    let s := s.applyMode i (u8 w.payload 1) (bit (u8 w.payload 2) 0) (u32 w.payload 4) (u32 w.payload 8)
    s.decide k rOK s.now (le 1 (s.slotOf i).mode ++ zeros 3)
  else
    let s := s.updCns fun c => { c with order := w.payload.map (·.toNat) }
    (s.bump P.CNS_ORDER_GEN 0).decide k rOK s.now []

/-! ## Commands (R178, R204-R206) -/

/-- The next control-frame boundary a data-plane write takes effect at: one that arrives in the last micro-step of a frame
takes the one after (R26). -/
def State.boundary (s : State) : TS := s.tickAfter (b2n s.lastStep)

/-- Queue a boundary command. -/
def State.atBoundary (s : State) (c : Ctx) (writes : List (Nat × Nat)) : State :=
  { s with writes := s.writes ++ [⟨s.boundary, c.sess, c.stream, c.seq, c.op, writes, c.payload⟩] }

/-- R205: a slot named on a beam stream must be bound to that beam. -/
def State.slotStreamBad (s : State) (c : Ctx) (i : Nat) : Bool :=
  i > 127 || (1 ≤ c.stream && c.stream ≤ 24 && !(((s.slotOf i).kind = 1 || (s.slotOf i).kind = 2) && (s.slotOf i).a + 1 = c.stream))

/-- Parameters of a slot back to their reset values (R177). -/
def State.resetSlotParams (s : State) (i : Nat) : State :=
  { s with params := s.params.filter fun p =>
      !(pidRegion p.1 = 1 && (pidClass p.1 = 3 || pidClass p.1 = 4 || pidClass p.1 = 5) && pidInst p.1 = i) }

def State.bodyCnsBind (c : Ctx) (s : State) : State :=
  let i := u8 c.payload 0
  let kind := u8 c.payload 1
  let a := u8 c.payload 2
  let b := u8 c.payload 3
  let others (p : CSlot → Bool) : Bool := (List.range 128).any fun j => j ≠ i && p (s.slotOf j)
  s.unless c (firstBad
    [(i > 127 || kind > 3, rBADPARAM),
     ((s.slotOf i).mode ≠ 0, rBADSTATE),
     (kind = 1 && (a ≥ s.nBeams || b > 2 || others fun x => x.kind = 1 && x.a = a && x.b = b), rBADPARAM),
     (kind = 2 && (a ≥ s.nBeams || b ≠ 0 || others fun x => x.kind = 2 && x.a = a), rBADPARAM),
     (kind = 3 && (a > 63 || bits b 6 3 ≠ 0 || others fun x => x.kind = 3 && x.b % 8 = b % 8), rBADPARAM),
     (kind = 1 && s.rg P.HP_MODE a ≠ 1, rBADSTATE)]) fun s =>
    let s := match s.cns.trace with | some t => if t.slot = i then s.traceEnd true else s | none => s
    let s := s.slotClear i
    let s := s.resetSlotParams i
    let s := s.updSlot i fun _ => { cslotReset with kind := kind, a := a, b := b, hyAt := s.now }
    (s.cnsModeRec i 0 0 4 0 0).ok c

/-- CNS_MODE. Manual values that would be used must be finite, as a binary32 parameter must (R76, R184; log entry 90). -/
def State.bodyCnsMode (c : Ctx) (s : State) : State :=
  let i := u8 c.payload 0
  let mode := u8 c.payload 1
  let x := s.slotOf i
  s.unless c (firstBad
    [(s.slotStreamBad c i || x.kind = 0 || mode > 2, rBADPARAM),
     (x.kind ≠ 3 && mode = 1 && !bit (u8 c.payload 2) 0 && !(fFinite (u32 c.payload 4) && fFinite (u32 c.payload 8)), rBADPARAM),
     (x.kind = 1 && mode = 0 && (s.beam x.a).st ≠ 0, rBADSTATE)]) fun s => s.atBoundary c []

def State.bodyCnsOrder (c : Ctx) (s : State) : State :=
  let table := c.payload.map (·.toNat)
  s.unless c (if (List.range 128).all fun i => table.contains i then none else some rBADPARAM) fun s => s.atBoundary c []

def State.bodyCnsStatus (c : Ctx) (s : State) : State :=
  let i := u8 c.payload 0
  let x := s.slotOf i
  s.unless c (if s.slotStreamBad c i then some rBADPARAM else none) fun s =>
    let head := le 1 x.kind ++ le 1 x.modeWord ++ le 1 x.a ++ le 1 x.b
    if x.kind = 3 then
      s.ok c (head ++ zeros 2 ++ le 2 (s.hy i P.HYL_IMPL_COUNT) ++ le 4 (fOfInt (s.hy i P.HYL_OUT : Nat)) ++ zeros 12)
    else if x.kind = 0 then s.ok c (head ++ zeros 20)
    else
      s.ok c (head ++ le 2 (s.sf i P.MPL_RES_CNT) ++ le 2 (s.sf i P.MPL_IMPL_COUNT) ++
        (s.sfVec i P.MPL_U 2 ++ s.sfVec i P.MPL_U_GOOD 2).flatMap (le 4))

def State.bodyCnsTrace (c : Ctx) (s : State) : State :=
  let i := u8 c.payload 0
  let acc := u32 c.payload 4
  let frames := u32 c.payload 8
  let size := ((s.acc? acc).map (·.size)).getD 0
  let bad := firstBad
    [(s.slotStreamBad c i || (s.slotOf i).kind = 0 || frames = 0 || frames > 1000000 || accPool acc ≠ 6, rBADPARAM)]
  let bad := match bad with | some r => some r | none => s.loanCheck acc
  let bad := match bad with
    | some r => some r
    | none => firstBad [(size < 64 * frames, rBADPARAM), (s.cns.trace.isSome, rBADSTATE)]
  s.unless c bad fun s =>
    let s := s.takeLoan acc
    let s := s.setRg P.CNS_TRACE_SLOT 0 i
    s.updCns fun x => { x with trace := some ⟨i, acc, frames, 0, c.sess, c.stream, c.seq, s.boundary⟩ }

end Sys2Proof.Machine
end

