-- ==== Sys2Proof/Machine/Sha.lean ====
section
/-!
DEFINITION. SHA-256 and HMAC-SHA-256 (R69, R433, R450), as FIPS 180-4 and RFC 2104 define them.
-/
namespace Sys2Proof.Machine

open Sys2Proof

abbrev W32 := BitVec 32

/-- The primes below 312, which are the first 64: each has a prime factor below 18 only if it is that factor. -/
def firstPrimes : List Nat :=
  (List.range 312).filter fun n => 2 ≤ n && (List.range 16).all fun d => n ≤ d + 2 || n % (d + 2) ≠ 0

/-- The greatest r whose cube does not exceed v, found from bit b down, starting from r. -/
def cubeRoot (v : Nat) : Nat → Nat → Nat
  | 0, r => r
  | b + 1, r => cubeRoot v b (if (r + 2 ^ b) ^ 3 ≤ v then r + 2 ^ b else r)

/-- The words of FIPS 180-4, 4.2.2: the first 32 bits of the fractions of the cube roots of the first 64 primes. -/
def shaK : List W32 := firstPrimes.map fun p => BitVec.ofNat 32 (cubeRoot (p * 2 ^ 96) 36 0)

/-- The first hash value of FIPS 180-4, 5.3.3: the same of the square roots of the first eight. -/
def shaInit : List W32 := (firstPrimes.take 8).map fun p => BitVec.ofNat 32 (isqrt (p * 2 ^ 64))

def ror (x : W32) (n : Nat) : W32 := x.rotateRight n

/-- The message schedule: sixteen words extended to sixty-four; the list runs from the newest word to the oldest. -/
def shaExtend : Nat → List W32 → List W32
  | 0, w => w
  | n + 1, w =>
    let a := w.getD 1 0
    let b := w.getD 14 0
    let s1 := ror a 17 ^^^ ror a 19 ^^^ (a >>> 10)
    let s0 := ror b 7 ^^^ ror b 18 ^^^ (b >>> 3)
    shaExtend n ((s1 + w.getD 6 0 + s0 + w.getD 15 0) :: w)

/-- One round on the eight working words. -/
def shaRound (h : List W32) (kw : W32) : List W32 :=
  match h with
  | [a, b, c, d, e, f, g, hh] =>
    let t1 := hh + (ror e 6 ^^^ ror e 11 ^^^ ror e 25) + ((e &&& f) ^^^ (~~~e &&& g)) + kw
    let t2 := (ror a 2 ^^^ ror a 13 ^^^ ror a 22) + ((a &&& b) ^^^ (a &&& c) ^^^ (b &&& c))
    [t1 + t2, a, b, c, d + t1, e, f, g]
  | _ => h

/-- Big-endian words of a block. -/
def beWords : List Byte → List W32
  | a :: b :: c :: d :: r => (a ++ b ++ c ++ d : BitVec 32) :: beWords r
  | _ => []

def shaBlock (h : List W32) (block : List Byte) : List W32 :=
  let w := (shaExtend 48 (beWords block).reverse).reverse
  let h' := (shaK.zip w).foldl (fun h kw => shaRound h (kw.1 + kw.2)) h
  (h.zip h').map fun p => p.1 + p.2

/-- Blocks of 64 bytes. -/
def shaBlocks : Nat → List Byte → List W32 → List W32
  | 0, _, h => h
  | n + 1, m, h => shaBlocks n (m.drop 64) (shaBlock h (m.take 64))

/-- SHA-256. -/
def sha256 (m : List Byte) : List Byte :=
  let pad := (119 - m.length % 64) % 64
  let m' := m ++ [0x80] ++ zeros pad ++ be 8 (m.length * 8)
  (shaBlocks (m'.length / 64) m' shaInit).flatMap fun w => be 4 w.toNat

/-- HMAC-SHA-256 with a key of at most 64 bytes. -/
def hmac256 (key m : List Byte) : List Byte :=
  let k := key ++ zeros (64 - key.length)
  sha256 (k.map (· ^^^ 0x5C) ++ sha256 (k.map (· ^^^ 0x36) ++ m))

end Sys2Proof.Machine
end

