-- ==== Sys2Proof/Machine/Inflate.lean ====
section
/-!
DEFINITION. DEFLATE decompression with zlib and gzip framing, as R361 and R363 take it from the published formats, and
the check values of the framings.
-/
namespace Sys2Proof.Machine

open Sys2Proof

/-- The Adler-32 sums of bytes. -/
def adler32 (bs : List Byte) : Nat :=
  let (a, b) := bs.foldl (fun (a, b) x => let a' := (a + x.toNat) % 65521; (a', (b + a') % 65521)) (1, 0)
  b * 65536 + a

/-- A reader of bits, the least significant bit of each byte first: bytes left, bits of the first one already read. -/
structure BitSrc where
  rest : List Byte
  used : Nat
  deriving DecidableEq, Repr

/-- Why a decompression fails, by its code in R363. -/
abbrev ZCause := Nat

def BitSrc.bit? (s : BitSrc) : Option (Nat × BitSrc) :=
  match s.rest with
  | [] => none
  | b :: r =>
    let v := b2n (b.toNat.testBit s.used)
    some (v, if s.used = 7 then ⟨r, 0⟩ else ⟨b :: r, s.used + 1⟩)

/-- n bits, the first one least significant. -/
def BitSrc.bits? : Nat → BitSrc → Option (Nat × BitSrc)
  | 0, s => some (0, s)
  | n + 1, s =>
    match s.bit? with
    | none => none
    | some (b, s) => match BitSrc.bits? n s with
      | none => none
      | some (v, s) => some (b + 2 * v, s)

/-- Drop the bits left of a byte begun. -/
def BitSrc.align (s : BitSrc) : BitSrc := if s.used = 0 then s else ⟨s.rest.drop 1, 0⟩

/-- Code lengths of an alphabet give a prefix code: (length, code, symbol), by length and then symbol. -/
def huffCodes (lens : List Nat) : List (Nat × Nat × Nat) :=
  let go := (List.range 15).foldl (fun (acc : List (Nat × Nat × Nat) × Nat) (i : Nat) =>
    let l := i + 1
    let code := acc.2 * 2
    let syms := (List.range lens.length).filter fun s => lens.getD s 0 = l
    let out := (List.range syms.length).map fun k => (l, code + k, syms.getD k 0)
    (acc.1 ++ out, code + syms.length)) ([], 0)
  go.1

/-- A set of code lengths that gives more codes than its lengths allow is invalid. -/
def huffOver (lens : List Nat) : Bool :=
  ((lens.filter (· ≠ 0)).map fun l => 2 ^ (15 - l)).sum > 2 ^ 15

/-- Read one symbol: none where the input ends or where no code fits. -/
def huffRead (codes : List (Nat × Nat × Nat)) : Nat → Nat → Nat → BitSrc → Except ZCause (Nat × BitSrc)
  | 0, _, _, _ => .error 4
  | fuel + 1, len, code, s =>
    match s.bit? with
    | none => .error 6
    | some (b, s) =>
      let code := code * 2 + b
      match codes.find? fun e => e.1 = len + 1 && e.2.1 = code with
      | some e => .ok (e.2.2, s)
      | none => huffRead codes fuel (len + 1) code s

def readSym (codes : List (Nat × Nat × Nat)) (s : BitSrc) : Except ZCause (Nat × BitSrc) := huffRead codes 15 0 0 s

/-- Base value and extra bits of a length symbol and of a distance symbol. -/
def lengthBase (sym : Nat) : Nat × Nat :=
  if sym < 265 then (sym - 254, 0)
  else if sym = 285 then (258, 0)
  else
    let e := (sym - 261) / 4
    ((4 + (sym - 261) % 4) * 2 ^ e + 3, e)

def distBase (sym : Nat) : Nat × Nat :=
  if sym < 4 then (sym + 1, 0)
  else
    let e := sym / 2 - 1
    ((2 + sym % 2) * 2 ^ e + 1, e)

/-- Output so far, newest byte first, with its length. -/
structure Produced where
  rev : List Byte
  n : Nat
  deriving DecidableEq, Repr

def Produced.push (o : Produced) (b : Byte) : Produced := ⟨b :: o.rev, o.n + 1⟩

/-- Copy `len` bytes from `dist` back. -/
def Produced.copy : Nat → Nat → Produced → Produced
  | 0, _, o => o
  | n + 1, dist, o => Produced.copy n dist (o.push (o.rev.getD (dist - 1) 0))

/-- How a stream ended: complete, with the bits after it; failed; or out of room. -/
inductive ZEnd where
  | done (s : BitSrc)
  | failed (cause : ZCause)
  | full
  deriving DecidableEq, Repr

/-- Symbols of a block until its end. -/
def inflateSyms (lit dist : List (Nat × Nat × Nat)) (cap : Nat) : Nat → BitSrc → Produced → ZEnd × Produced
  | 0, _, o => (.failed 6, o)
  | fuel + 1, s, o =>
    match readSym lit s with
    | .error c => (.failed c, o)
    | .ok (sym, s) =>
      if sym < 256 then
        if o.n ≥ cap then (.full, o) else inflateSyms lit dist cap fuel s (o.push (BitVec.ofNat 8 sym))
      else if sym = 256 then (.done s, o)
      else if sym > 285 then (.failed 4, o)
      else
        let (lb, le_) := lengthBase sym
        match BitSrc.bits? le_ s with
        | none => (.failed 6, o)
        | some (x, s) =>
          match readSym dist s with
          | .error c => (.failed c, o)
          | .ok (ds, s) =>
            if ds > 29 then (.failed 4, o)
            else
              let (db, de) := distBase ds
              match BitSrc.bits? de s with
              | none => (.failed 6, o)
              | some (y, s) =>
                let len := lb + x
                let d := db + y
                if d > o.n ∨ d > 32768 then (.failed 5, o)
                else if o.n + len > cap then (.full, Produced.copy (cap - o.n) d o)
                else inflateSyms lit dist cap fuel s (Produced.copy len d o)

/-- Lengths of the fixed codes. -/
def fixedLit : List Nat := List.replicate 144 8 ++ List.replicate 112 9 ++ List.replicate 24 7 ++ List.replicate 8 8
def fixedDist : List Nat := List.replicate 30 5

/-- Code lengths of a dynamic block, by the code-length code. -/
def readLens (codes : List (Nat × Nat × Nat)) : Nat → Nat → BitSrc → List Nat → Except ZCause (List Nat × BitSrc)
  | 0, _, _, _ => .error 4
  | fuel + 1, want, s, out =>
    if out.length = want then .ok (out, s)
    else if out.length > want then .error 4
    else match readSym codes s with
      | .error c => .error c
      | .ok (sym, s) =>
        if sym < 16 then readLens codes fuel want s (out ++ [sym])
        else
          let (bitsN, base) := if sym = 16 then (2, 3) else if sym = 17 then (3, 3) else (7, 11)
          match BitSrc.bits? bitsN s with
          | none => .error 6
          | some (x, s) =>
            if sym = 16 then
              match out.getLast? with
              | none => .error 4
              | some l => readLens codes fuel want s (out ++ List.replicate (base + x) l)
            else readLens codes fuel want s (out ++ List.replicate (base + x) 0)

/-- Order of the code-length code's lengths. -/
def lensOrder : List Nat := [16, 17, 18, 0, 8, 7, 9, 6, 10, 5, 11, 4, 12, 3, 13, 2, 14, 1, 15]

/-- n fields of w bits. -/
def readFields (w : Nat) : Nat → BitSrc → Option (List Nat × BitSrc)
  | 0, s => some ([], s)
  | n + 1, s => match BitSrc.bits? w s with
    | none => none
    | some (v, s) => match readFields w n s with
      | none => none
      | some (l, s) => some (v :: l, s)

/-- The codes of a dynamic block. -/
def dynCodes (s : BitSrc) : Except ZCause (List Nat × List Nat × BitSrc) :=
  match readFields 5 2 s with
  | none => .error 6
  | some (hd, s) =>
    let hlit := hd.getD 0 0 + 257
    let hdist := hd.getD 1 0 + 1
    match BitSrc.bits? 4 s with
    | none => .error 6
    | some (hc, s) =>
      match readFields 3 (hc + 4) s with
      | none => .error 6
      | some (cl, s) =>
        let lens := (List.range 19).map fun k => cl.getD ((lensOrder.idxOf? k).getD 19) 0
        if huffOver lens then .error 4
        else match readLens (huffCodes lens) 400 (hlit + hdist) s [] with
          | .error c => .error c
          | .ok (l, s) =>
            if hlit > 286 ∨ huffOver (l.take hlit) ∨ huffOver (l.drop hlit) ∨ l.getD 256 0 = 0 then .error 4
            else .ok (l.take hlit, l.drop hlit, s)

/-- Blocks of a stream until the final one. -/
def inflateBlocks (cap : Nat) : Nat → BitSrc → Produced → ZEnd × Produced
  | 0, _, o => (.failed 6, o)
  | fuel + 1, s, o =>
    match BitSrc.bits? 3 s with
    | none => (.failed 6, o)
    | some (h, s) =>
      let last := h % 2 = 1
      let r : ZEnd × Produced :=
        match h / 2 with
        | 0 =>
          let s := s.align
          let len := unLe (s.rest.take 2)
          let nlen := unLe ((s.rest.drop 2).take 2)
          if s.rest.length < 4 then (.failed 6, o)
          else if len + nlen ≠ 65535 then (.failed 4, o)
          else
            let body := (s.rest.drop 4).take len
            let fit := body.take (cap - o.n)
            let o' := fit.foldl Produced.push o
            if fit.length < body.length then (.full, o')
            else if body.length < len then (.failed 6, o')
            else (.done ⟨s.rest.drop (4 + len), 0⟩, o')
        | 1 => inflateSyms (huffCodes fixedLit) (huffCodes fixedDist) cap (8 * s.rest.length + 1) s o
        | 2 => match dynCodes s with
          | .error c => (.failed c, o)
          | .ok (l, d, s) => inflateSyms (huffCodes l) (huffCodes d) cap (8 * s.rest.length + 1) s o
        | _ => (.failed 4, o)
      match r with
      | (.done s, o) => if last then (.done s, o) else inflateBlocks cap fuel s o
      | x => x

/-- A decompression's result: result cause (0 complete, 8 no space), bytes produced, bytes consumed. -/
structure Inflated where
  cause : Nat
  out : List Byte
  used : Nat
  deriving DecidableEq, Repr

/-- Bytes of a zero-terminated field, the zero included; none where the input ends first. -/
def zeroField (bs : List Byte) : Option Nat :=
  match bs.findIdx? (· == 0) with
  | some i => some (i + 1)
  | none => none

/-- Length of a gzip header, or the cause of a bad one. -/
def gzipHeader (bs : List Byte) : Except ZCause Nat :=
  if bs.length < 10 then .error 6
  else
    let g (i : Nat) : Nat := (bs.getD i 0).toNat
    let flg := g 3
    if g 0 ≠ 0x1F ∨ g 1 ≠ 0x8B ∨ g 2 ≠ 8 ∨ flg ≥ 32 then .error 3
    else
      let n := 10
      let extra : Option Nat := if flg.testBit 2 then (if bs.length < n + 2 then none else some (n + 2 + unLe ((bs.drop n).take 2))) else some n
      let name (on : Bool) (n : Option Nat) : Option Nat := match n with
        | none => none
        | some n => if on then (match zeroField (bs.drop n) with | some k => some (n + k) | none => none) else some n
      match name (flg.testBit 4) (name (flg.testBit 3) extra) with
      | none => .error 6
      | some n =>
        if flg.testBit 1 then
          if bs.length < n + 2 then .error 6
          else if unLe ((bs.drop n).take 2) = crc32 (bs.take n) % 65536 then .ok (n + 2) else .error 3
        else if bs.length < n then .error 6 else .ok n

/-- R363: decompress input of a framing (0 zlib, 1 gzip, 2 detect) into at most `cap` bytes. -/
def inflate (framing cap : Nat) (input : List Byte) : Inflated :=
  let isGz := framing = 1 || (framing = 2 && (input.getD 0 0).toNat = 0x1F && (input.getD 1 0).toNat = 0x8B)
  let head : Except ZCause Nat :=
    if isGz then gzipHeader input
    else if input.length < 2 then .error 6
    else
      let a := (input.getD 0 0).toNat
      let b := (input.getD 1 0).toNat
      if a % 16 ≠ 8 ∨ a / 16 > 7 ∨ (a * 256 + b) % 31 ≠ 0 then .error 3
      else if b.testBit 5 then .error 7 else .ok 2
  match head with
  | .error c => ⟨c, [], 0⟩
  | .ok n =>
    let body := input.drop n
    match inflateBlocks cap (8 * body.length + 1) ⟨body, 0⟩ ⟨[], 0⟩ with
    | (.failed c, o) => ⟨c, o.rev.reverse, input.length⟩
    | (.full, o) => ⟨8, o.rev.reverse, input.length⟩
    | (.done s, o) =>
      let out := o.rev.reverse
      let tail := s.align.rest
      let at_ := input.length - tail.length
      if isGz then
        if tail.length < 8 then ⟨6, out, input.length⟩
        else if unLe (tail.take 4) ≠ crc32 out then ⟨1, out, at_ + 8⟩
        else if unLe ((tail.drop 4).take 4) ≠ out.length % 2 ^ 32 then ⟨2, out, at_ + 8⟩
        else ⟨0, out, at_ + 8⟩
      else if tail.length < 4 then ⟨6, out, input.length⟩
      else if unBe (tail.take 4) ≠ adler32 out then ⟨1, out, at_ + 4⟩
      else ⟨0, out, at_ + 4⟩

end Sys2Proof.Machine
end

