-- ==== Sys2Proof/Machine/Deflate.lean ====
section
/-!
DEFINITION. The compressor (R361): DEFLATE of an input with fixed codes, or with one dynamic block for each 65,536 bytes, and its
framing. Which matches it finds, where it ends a fixed block and which codes it builds the manual leaves open (log entry 9): each such
choice is a free value that is taken where the format allows it, so that the stream is always one of the input.
-/
namespace Sys2Proof.Machine

open Sys2Proof

/-- A literal, or a copy of a length from a distance. -/
inductive ZTok where
  | lit (b : Nat)
  | copy (len dist : Nat)
  deriving DecidableEq, Repr

/-- A copy that the format, the window and the bytes allow at a position, before `stop`. -/
def copyOk (input : List Byte) (pos stop len dist : Nat) : Bool :=
  3 ≤ len && len ≤ 258 && 1 ≤ dist && dist ≤ min pos 32768 && pos + len ≤ stop &&
  (List.range len).all fun i => input.getD (pos + i) 0 == input.getD (pos + i - dist) 0

/-- The tokens of the input from a position up to `stop`. -/
def zTokens (input : List Byte) (stop : Nat) : Nat → Nat → List ZTok
  | 0, _ => []
  | fuel + 1, pos =>
    if pos ≥ stop then []
    else
      let (len, dist) := Config.deflateMatch input pos
      if copyOk input pos stop len dist then .copy len dist :: zTokens input stop fuel (pos + len)
      else .lit (input.getD pos 0).toNat :: zTokens input stop fuel (pos + 1)

/-- Bits of a number, the least significant first. -/
def lowFirst (n v : Nat) : List Bool := (List.range n).map fun i => v.testBit i

/-- The bits of a symbol, the most significant bit of its code first. -/
def symBits (codes : List (Nat × Nat × Nat)) (sym : Nat) : List Bool :=
  match codes.find? fun e => e.2.2 = sym with
  | some e => (List.range e.1).map fun i => e.2.1.testBit (e.1 - 1 - i)
  | none => []

/-- The symbol of a length, and of a distance: the last one whose base does not exceed it. -/
def lengthSym (len : Nat) : Nat :=
  if len = 258 then 285
  else (((List.range' 257 28).filter fun s => (lengthBase s).1 ≤ len).getLast?).getD 257
def distSym (dist : Nat) : Nat := (((List.range 30).filter fun s => (distBase s).1 ≤ dist).getLast?).getD 0

/-- Bits of a token. -/
def ZTok.bits (lit dist : List (Nat × Nat × Nat)) : ZTok → List Bool
  | .lit b => symBits lit b
  | .copy l d =>
    let (lb, le_) := lengthBase (lengthSym l)
    let (db, de) := distBase (distSym d)
    symBits lit (lengthSym l) ++ lowFirst le_ (l - lb) ++ symBits dist (distSym d) ++ lowFirst de (d - db)

/-- Symbols of a token in the two alphabets. -/
def ZTok.syms : ZTok → Nat × List Nat
  | .lit b => (b, [])
  | .copy l d => (lengthSym l, [distSym d])

/-- Code lengths up to a limit that give a complete code, with one for each symbol that is used. -/
def lensOk (limit : Nat) (lens used : List Nat) : Bool :=
  lens.all (· ≤ limit) && ((lens.filter (· ≠ 0)).map fun l => 2 ^ (15 - l)).sum = 2 ^ 15 && used.all fun s => lens.getD s 0 ≠ 0

/-- Code lengths of a block's two alphabets: the compressor's own where they serve, else a code that has every symbol. -/
def blockLens (input : List Byte) (block : Nat) (toks : List ZTok) : List Nat × List Nat :=
  let (l, d) := Config.deflateLens input block
  let usedL := 256 :: toks.map fun t => t.syms.1
  let usedD := toks.flatMap fun t => t.syms.2
  let l := if 257 ≤ l.length ∧ l.length ≤ 286 ∧ lensOk 15 l usedL then l else List.replicate 226 8 ++ List.replicate 60 9
  let d := if 1 ≤ d.length ∧ d.length ≤ 30 ∧ lensOk 15 d usedD then d else List.replicate 2 4 ++ List.replicate 28 5
  (l, d)

/-- What a run code stands for, after the lengths before it: a length itself, the last one 3 to 6 times, or zeros. -/
def runOf (before : List Nat) (r : Nat × Nat) : Option (List Nat) :=
  match r.1 with
  | 16 => if r.2 < 4 then before.getLast?.map fun l => List.replicate (3 + r.2) l else none
  | 17 => if r.2 < 8 then some (List.replicate (3 + r.2) 0) else none
  | 18 => if r.2 < 128 then some (List.replicate (11 + r.2) 0) else none
  | l => if l < 16 then some [l] else none

/-- The lengths that run codes stand for. -/
def runsOf (rs : List (Nat × Nat)) : Option (List Nat) :=
  rs.foldl (fun acc r => acc.bind fun b => (runOf b r).map fun x => b ++ x) (some [])

/-- The header of a dynamic block: its counts, the code-length code and the run codes. -/
def dynHead (lens dists : List Nat) : List Bool :=
  let all := lens ++ dists
  let rs := Config.deflateRuns all
  let rs := if runsOf rs = some all then rs else all.map fun l => (l, 0)
  let cl := Config.deflateClens rs
  let cl := if cl.length = 19 ∧ lensOk 7 cl (rs.map (·.1)) then cl else List.replicate 13 4 ++ List.replicate 6 5
  let codes := huffCodes cl
  lowFirst 5 (lens.length - 257) ++ lowFirst 5 (dists.length - 1) ++ lowFirst 4 15 ++
    (lensOrder.flatMap fun k => lowFirst 3 (cl.getD k 0)) ++
    rs.flatMap fun r => symBits codes r.1 ++ lowFirst (match r.1 with | 16 => 2 | 17 => 3 | 18 => 7 | _ => 0) r.2

/-- A block of the input from `lo` to `hi`. -/
def zBlock (dyn last : Bool) (input : List Byte) (k lo hi : Nat) : List Bool :=
  let toks := zTokens input hi (hi - lo) lo
  let lens := if dyn then blockLens input k toks else (fixedLit, fixedDist)
  let lit := huffCodes lens.1
  let dist := huffCodes lens.2
  lowFirst 1 (b2n last) ++ lowFirst 2 (if dyn then 2 else 1) ++ (if dyn then dynHead lens.1 lens.2 else []) ++
    (toks.flatMap fun t => t.bits lit dist) ++ symBits lit 256

/-- Positions at which a block ends: after each 65,536 bytes with dynamic tables, else where the compressor chooses. -/
def blockEnds (dyn : Bool) (input : List Byte) : List Nat :=
  let n := input.length
  ((List.range n).filter fun i => i ≠ 0 && (if dyn then i % 65536 = 0 else Config.deflateBreak input i)) ++ [n]

/-- Bits as bytes, the first bit of each byte least significant; the last byte is filled with zeros. -/
def packBits : Nat → List Bool → List Byte
  | 0, _ => []
  | _, [] => []
  | fuel + 1, bs => BitVec.ofNat 8 (((bs.take 8).zipIdx.map fun x => if x.1 then 2 ^ x.2 else 0).sum) :: packBits fuel (bs.drop 8)

/-- The body of the stream (R361). -/
def deflateBody (dyn : Bool) (input : List Byte) : List Byte :=
  let ends := blockEnds dyn input
  let blocks := (ends.zipIdx.flatMap fun (hi, k) =>
    zBlock dyn (k + 1 = ends.length) input k (if k = 0 then 0 else ends.getD (k - 1) 0) hi)
  packBits blocks.length blocks

/-- The compressor's output for an input (R361), framing and all, and its check value. -/
def deflateOut (gz dyn : Bool) (input : List Byte) : List Byte × Nat :=
  let body := deflateBody dyn input
  if gz then
    let c := crc32 input
    ([0x1F, 0x8B, 8, 0, 0, 0, 0, 0, 0, 255] ++ body ++ le 4 c ++ le 4 input.length, c)
  else
    let c := adler32 input
    ([0x78, 0x9C] ++ body ++ be 4 c, c)

end Sys2Proof.Machine
end

