-- ==== Sys2Proof/Machine/Zip.lean ====
section
/-!
DEFINITION. The compression block (R361-R365, R367, R368): queues, running a job to its end, and what the end does for a
host job, a pipeline's frame and a catalogue segment.
-/
namespace Sys2Proof.Machine

open Sys2Proof

def zipEngReset : ZipEng := ⟨[], [], none, false⟩
def State.zip (s : State) (e : Nat) : ZipEng := s.store.zips.getD e zipEngReset
def State.updZip (s : State) (e : Nat) (f : ZipEng → ZipEng) : State :=
  s.updStore fun st => { st with zips := st.zips.modify e f }
def State.zipSrc (s : State) (e : Nat) : Nat := s.srcPath 4 4 e

/-- The compressor whose host queue is shorter, 0 on a tie (R364). -/
def State.shorterZip (s : State) : Nat := if (s.zip 1).jobs.length < (s.zip 0).jobs.length then 1 else 0

/-- The compressor whose pipeline queue is shorter, 0 on a tie (R365; log entry 116). -/
def State.shorterPipe (s : State) : Nat := if (s.zip 1).pipe.length < (s.zip 0).pipe.length then 1 else 0

/-- An idle engine takes its next job: a host job and a pipeline job in turn where both wait (R365). -/
def State.zipNext (s : State) (e : Nat) : State :=
  let z := s.zip e
  if z.running.isSome then s
  else
    let start (j : ZipJob) : ZipJob := { j with began := some s.now }
    match z.jobs, z.pipe with
    | [], [] => s
    | j :: r, [] => s.updZip e fun z => { z with jobs := r, running := some (start j) }
    | [], j :: r => s.updZip e fun z => { z with pipe := r, running := some (start j) }
    | j :: r, q :: t =>
      if z.pipeTurn then s.updZip e fun z => { z with pipe := t, running := some (start q), pipeTurn := false }
      else s.updZip e fun z => { z with jobs := r, running := some (start j), pipeTurn := true }

/-- A pipeline's or a segment's job for a compressor (R309, R365, R396): false where its queue is full. -/
def State.zipPipe (s : State) (j : ZipJob) : Bool × State :=
  let e := match s.rg P.REGION_ZIP_PIPE 0 with | 1 => 0 | 2 => 1 | _ => s.shorterPipe
  if (s.zip e).pipe.length ≥ 8 then (false, s)
  else (true, (s.updZip e fun z => { z with pipe := z.pipe ++ [j] }).zipNext e)

/-- What a job comes to: result, cause, the bytes that stay in its outputs, input consumed, check value, and the bytes it wrote. -/
structure ZipOut where
  res : Nat
  cause : Nat
  out : List Byte
  used : Nat
  check : Nat
  wrote : Nat
  deriving DecidableEq, Repr

/-- Room in the outputs of a job. -/
def State.zipRoom (s : State) (j : ZipJob) : Nat :=
  ((s.acc? j.output).map (·.size)).getD 0 + (if j.chain = noAcc then 0 else ((s.acc? j.chain).map (·.size)).getD 0)

/-- R362, R363: the outcome of a job on its input. How far a compression had come when it stopped short is open: `v` is the free value it
is formed from (log entry 117). A decompression that meets poison has written what the input before it gives. -/
def State.zipRun (s : State) (j : ZipJob) (v : Nat) : ZipOut :=
  let room := s.zipRoom j
  let poison := s.firstPoison j.input j.off j.len
  let n := match poison with | some x => x - j.off | none => j.len
  let input := s.memBytes j.input j.off n
  if j.kind = 1 then
    let r := inflate j.framing room input
    if poison.isSome then ⟨rFAULT, 0, r.out, n, 0, r.out.length⟩
    else
      ⟨if r.cause = 0 then rOK else if r.cause = 8 then rNOSPACE else rCHECKFAIL, if r.cause = 8 then 0 else r.cause, r.out, r.used, 0,
        r.out.length⟩
  else if poison.isSome then ⟨rFAULT, 0, [], n, 0, v % (min room j.len + 1)⟩
  else
    let (out, check) := deflateOut (j.framing = 1) j.dyn input
    if out.length < j.len ∧ out.length ≤ room then ⟨rOK, 0, out, j.len, check, out.length⟩
    else if out.length ≥ j.len ∧ j.len ≤ room then ⟨rNOTSHRUNK, 0, [], v % (j.len + 1), 0, 0⟩
    else ⟨rNOSPACE, 0, [], v % (j.len + 1), 0, room⟩

/-- An output takes a state; the bytes a job did not define are undefined. -/
def State.zipSettle (s : State) (acc st : Nat) : State :=
  if acc = noAcc then s else s.updAcc acc fun a => { a with state := if a.state = 1 then st else a.state }

/-- Data from offset 0 of a job's output and then of its chain. -/
def State.zipWrite (s : State) (j : ZipJob) (out : List Byte) : State :=
  let n := ((s.acc? j.output).map (·.size)).getD 0
  let s := s.storeData j.output 0 (out.take n)
  if out.length ≤ n ∨ j.chain = noAcc then s else s.storeData j.chain 0 (out.drop n)

/-- The outputs of a compression that ended other than OK: their contents are undefined; those that were filled hold no poison (R356,
R362). -/
def State.zipLose (s : State) (j : ZipJob) (full : Bool) : State :=
  let lose (s : State) (acc : Nat) : State :=
    let n := ((s.acc? acc).map (·.size)).getD 0
    if acc = noAcc then s else if full then (s.memDrop acc 0 n).clearPoison acc 0 n else s.memDrop acc 0 n
  lose (lose s j.output) j.chain

/-- ZIP_JOB (R368), for jobs that fail. -/
def State.zipRecord (s : State) (e : Nat) (j : ZipJob) (r : ZipOut) : State :=
  if r.res = rFAULT ∨ r.res = rCHECKFAIL ∨ r.res = rNOSPACE ∨ r.res = rCANCELLED then
    let kind := if j.kind ≥ 2 then 2 else j.kind
    (s.bump P.ZIP_FAILS e).record (s.zipSrc e) 0x4008
      (le 1 kind ++ le 1 r.res ++ le 1 r.cause ++ zeros 1 ++ le 4 j.input ++ le 4 j.output ++ le 4 r.wrote ++ le 4 r.used ++ zeros 4)
  else s

/-- The frame of a pipeline job: its compressed accession, or status bit 8 or 9 (R309). -/
def State.zipFrame (s : State) (ref res : Nat) : State :=
  let p := ref / 2 ^ 32
  let fn := ref % 2 ^ 32
  let bit := if res = rOK then 0 else if res = rNOTSHRUNK then 2 ^ 8 else 2 ^ 9
  { s with pipes := s.pipes.modify p fun q =>
      { q with done := q.done.map fun d =>
          if d.fn = fn then
            { d with
              zip := false
              status := d.status + bit
              comp := if res = rOK then d.accs.comp else noAcc }
          else d } }

/-- The segment of a catalogue job: compressed, or raw as it was (R396). -/
def State.zipSegment (s : State) (number res bytes : Nat) : State :=
  match s.log.segs.find? fun g => g.number = number with
  | none => s
  | some g =>
    match g.job with
    | none => s
    | some acc =>
      let upd (s : State) (f : CatSeg → CatSeg) : State :=
        { s with log := { s.log with segs := s.log.segs.map fun q => if q.number = number then f q else q } }
      if res = rOK then (upd s fun q => { q with acc := acc, compressed := some bytes, job := none }).releaseAcc g.acc
      else (upd s fun q => { q with job := none }).releaseAcc acc

/-- A job ends with an outcome (R362-R364): outputs, loans, counts, record and reply. -/
def State.zipFinish (s : State) (e : Nat) (j : ZipJob) (r : ZipOut) : State :=
  let s := if r.res = rOK ∨ j.kind = 1 then s.zipWrite j r.out else s.zipLose j (r.res = rNOSPACE)
  let st := if j.kind = 1 ∧ r.res ≠ rOK then 2 else 0
  let s := (s.zipSettle j.output st).zipSettle j.chain st
  let s := s.returnLoan j.input
  let n0 := ((s.acc? j.output).map (·.size)).getD 0
  let a := min r.out.length n0
  let b := r.out.length - a
  let s := s.bump P.ZIP_JOBS e
  let s := s.setRg2 P.ZIP_BYTES_IN e (s.rg2 P.ZIP_BYTES_IN e + (r.used : Nat))
  let s := s.setRg2 P.ZIP_BYTES_OUT e (s.rg2 P.ZIP_BYTES_OUT e + (r.wrote : Nat))
  let s := s.zipRecord e j r
  let k : Ticket := ⟨j.sess, j.stream, j.seq⟩
  match j.kind with
  | 0 => s.decide k r.res s.now (le 4 a ++ le 4 b ++ le 4 r.check)
  | 1 => s.decide k r.res s.now (le 4 a ++ le 4 b ++ le 4 r.used ++ le 1 r.cause ++ zeros 3)
  | 2 => s.zipFrame j.ref r.res
  | _ => s.zipSegment j.ref r.res r.out.length

/-- ZIP_JOB_END: the engine's job ends, and the next one begins. -/
def State.zipEnd (s : State) (e : Nat) : State :=
  match (s.zip e).running with
  | none => s
  | some j =>
    let (v, d) := s.draw
    let r := s.zipRun j v
    let s := (if r.res = rOK ∨ j.kind = 1 then s else d).readLines j.input j.off j.len
    ((s.updZip e fun z => { z with running := none }).zipFinish e j r).zipNext e

/-- A job that is cancelled: one that runs has come to an open place, and a decompression keeps what it has written (R363, R365; log entry
117). One that waits has done nothing. -/
def State.zipCut (s : State) (j : ZipJob) : ZipOut × State :=
  if j.began.isNone then (⟨rCANCELLED, 0, [], 0, 0, 0⟩, s)
  else
    let (v, s) := s.draw
    let all := s.zipRun j v
    let n := if j.kind = 1 then v % (all.out.length + 1) else v % (min (s.zipRoom j) j.len + 1)
    (⟨rCANCELLED, 0, all.out.take (if j.kind = 1 then n else 0), v / 2 ^ 32 % (j.len + 1), 0, n⟩, s)

/-- A job ends CANCELLED. -/
def State.zipCancel (s : State) (e : Nat) (j : ZipJob) : State :=
  let (r, s) := s.zipCut j
  s.zipFinish e j r

/-- The STO clocks stop: every job ends CANCELLED (R365). -/
def State.zipCancelAll (s : State) : State :=
  forEach [0, 1, 2] (fun e s =>
    let z := s.zip e
    let js := z.running.toList ++ z.jobs ++ z.pipe
    let s := s.updZip e fun z => { z with running := none, jobs := [], pipe := [] }
    js.foldl (fun s j => s.zipCancel e j) s) s

/-! ## Commands (R364, R367) -/

/-- Whether the queue that a compression command goes to is full: the command waits (R364). -/
def State.zipFull (s : State) (op : Nat) (p : List Byte) : Bool :=
  let e := if op = 0x4001 then 2 else match u8 p 0 with | 1 => 0 | 2 => 1 | _ => s.shorterZip
  (s.zip e).jobs.length ≥ 16

/-- An accession may be an output: it lies in a pool the host may write. -/
def outputPool (acc : Nat) : Bool := accPool acc ≠ 4 && accPool acc ≠ 7

/-- The checks of ZIP_COMPRESS and ZIP_DECOMPRESS: R340 first, BAD_PARAM before BAD_STATE, then the content (R340, R364, R366). -/
def State.zipBad (s : State) (content : Bool) (input off len output chain : Nat) : Option Nat :=
  let cs := [s.loanCheck input, s.loanCheck output, if chain = noAcc then none else s.loanCheck chain]
  let size := ((s.acc? input).map (·.size)).getD 0
  firstBad
    [(cs.contains (some rBADPARAM), rBADPARAM), (cs.contains (some rBADSTATE), rBADSTATE),
     (content || off + len > size || output = input || chain = input || chain = output || !outputPool output ||
       (chain ≠ noAcc && !outputPool chain), rBADPARAM)]

/-- Accept a job: its loan is taken, its outputs are set to WRITING, and it joins the engine's queue. -/
def State.zipAccept (s : State) (e : Nat) (j : ZipJob) : State :=
  let s := s.takeLoan j.input
  let s := s.updAcc j.output fun a => { a with state := 1 }
  let s := if j.chain = noAcc then s else s.updAcc j.chain fun a => { a with state := 1 }
  (s.updZip e fun z => { z with jobs := z.jobs ++ [j] }).zipNext e

def State.bodyZipCompress (c : Ctx) (s : State) : State :=
  let p := c.payload
  let eng := u8 p 0
  let bad := s.zipBad (eng > 2 || u8 p 1 > 1 || u8 p 2 > 1) (u32 p 4) (u32 p 8) (u32 p 12) (u32 p 16) (u32 p 20)
  s.unless c bad fun s =>
    let e := match eng with | 1 => 0 | 2 => 1 | _ => s.shorterZip
    s.zipAccept e ⟨0, c.sess, c.stream, c.seq, u8 p 1, u8 p 2 = 1, u32 p 4, u32 p 8, u32 p 12, u32 p 16, u32 p 20, 0, none⟩

def State.bodyZipDecompress (c : Ctx) (s : State) : State :=
  let p := c.payload
  let bad := s.zipBad (u8 p 0 > 2) (u32 p 4) (u32 p 8) (u32 p 12) (u32 p 16) (u32 p 20)
  s.unless c bad fun s =>
    s.zipAccept 2 ⟨1, c.sess, c.stream, c.seq, u8 p 0, false, u32 p 4, u32 p 8, u32 p 12, u32 p 16, u32 p 20, 0, none⟩

end Sys2Proof.Machine
end

