-- ==== Sys2Proof/Machine/Time.lean ====
section
/-!
DEFINITION. The time base and its servo (R370-R379), PPS (R384), frames launched at a set time (R388-R390), and the catalogue's
segments (R394-R398), with their commands (R391).
-/
namespace Sys2Proof.Machine

open Sys2Proof

def State.updTime (s : State) (f : TimeSt → TimeSt) : State := { s with time := f s.time }

/-- Source paths of the time base, the PTP engine and the time block (R392). -/
def State.timeSrc (s : State) : Nat := s.srcPath 0 2 0
def State.ptpSrc (s : State) : Nat := s.srcPath 0 2 1
def State.catSrc (s : State) : Nat := s.srcPath 0 2 0xFF

/-! ## The servo (R375-R379) -/

/-- The source in force: the twin link in SHADOW (R386), else SRC. -/
def State.servoSrc (s : State) : Nat := if s.twin.state = 3 then 4 else s.rg P.TIME_SRC 0

/-- A binary32 fraction in parts per 10^9, and in units of 2^-48. -/
def fPpb (y : Nat) : Int := roundDiv (fNum y * 1000000000) fDen
def fFreq (y : Nat) : Int := roundDiv (fNum y * ((2 ^ 48 : Nat) : Int)) fDen

/-- An integer held to 32 bits, signed. -/
def sat32 (v : Int) : Int := clampInt (-2147483648) 2147483647 v

/-- A change of servo state, with its record (R377). Entry into LOCKED makes the time valid (R374). -/
def State.servoTo (s : State) (st : Nat) : State :=
  if s.time.st = st then s
  else
    let from_ := s.time.st
    let s := s.updTime fun t => { t with st := st, lockRun := 0, valid := t.valid || st = 2 }
    s.record s.timeSrc 0x5002
      (le 1 from_ ++ le 1 st ++ le 1 s.servoSrc ++ zeros 1 ++ le 4 (ofSigned 32 (sat32 s.time.lastOfs)) ++
        le 4 (ofSigned 32 (fPpb s.time.y)) ++ zeros 12)

/-- The frequency correction y in force (R376). -/
def State.setFreq (s : State) (y : Nat) : State := (s.updTime fun t => { t with y := y }).setRg2 P.TIME_FREQ_ADJ 0 (fFreq y)

/-- A limit in ppb as a binary32 fraction. -/
def fOfPpb (n : Nat) : Nat := fDiv (fOfInt (n : Nat)) (fOfInt 1000000000)

/-- The largest frequency correction now (R376). -/
def State.servoFmax (s : State) : Nat :=
  fOfPpb (if s.power.state = 4 then s.rg P.TIME_FMAX_EXP 0 else s.rg P.TIME_FMAX 0)

/-- LOCK_THR of the source in force (R386). -/
def State.lockThr (s : State) : Nat := if s.servoSrc = 4 then 10 else s.rg P.TIME_LOCK_THR 0

/-- The state rules for an offset (R377). -/
def State.servoState (s : State) (theta : Int) : State :=
  let inside := theta.natAbs ≤ s.lockThr
  let s := if s.time.st = 3 then s.servoTo 1 else s
  match s.time.st with
  | 1 =>
    let n := if inside then s.time.lockRun + 1 else 0
    let s := s.updTime fun t => { t with lockRun := n }
    if n ≥ s.rg P.TIME_LOCK_N 0 then s.servoTo 2 else s
  | 2 => if theta.natAbs > s.rg P.TIME_UNLOCK_THR 0 then s.servoTo 1 else s
  | _ => s

/-- A step asked for (R378): held in EXPOSE; a pair names its tick at least eight frames ahead (R386). -/
def State.requestStep (s : State) (amount cause : Nat) (dest : Option TS) (k : Option Ticket) : State :=
  let held := s.power.state = 4
  let pair := s.twin.state = 2 && !s.twin.lost && (s.twin.partner = 3 || s.twin.partner = 4)
  let frame := if pair && !held then some (s.now / 2560 + 9) else none
  let amount := match dest, frame with
    | some v, some n => v - n * 2560
    | _, _ => amount
  let s := s.updTime fun t => { t with step := some ⟨amount, dest, frame, cause, held, k⟩ }
  let s := if held then s.setRg2 P.TIME_STEP_PEND 0 amount else s
  match frame with
  | some n => s.put (.twin 5 (le 8 amount ++ le 8 n))
  | none => s

/-- An offset θ, in ns, received at an update interval T, in ns (R376, R378, R379). -/
def State.servo (s : State) (theta : Int) (interval : Nat) : State :=
  if s.servoSrc = 0 then s
  else
    let thr : Int := s.rg P.TIME_STEP_THR 0
    let s := s.updTime fun t => { t with lastOfs := theta, lastAt := s.now }
    let s := s.setRg2 P.TIME_OFFSET 0 theta
    let heldStep := (s.time.step.map (·.held)).getD false
    -- a step of the servo's own that is held is renewed in EXPOSE only: behind it, it stays held up to its tick
    let renews := match s.time.step with
      | none => true
      | some q => q.held && q.dest.isNone && q.k.isNone && s.power.state = 4
    let s := if theta < -thr then
        let s := s.updTime fun t => { t with ahead := false }
        let s := if renews then s.requestStep (-theta).toNat 1 none none else s
        if (s.time.step.map (·.held)).getD false then s.setFreq s.time.i else s
      else
        let fmax := s.servoFmax
        let th := fOfInt theta
        let per := fOfInt (interval : Nat)
        let term (k : Nat) : Nat := fDiv (fMul k th) per
        let i := fClamp (fNeg fmax) fmax (fSub s.time.i (term (s.rg P.TIME_KI 0)))
        let y := fClamp (fNeg fmax) fmax (fSub i (term (s.rg P.TIME_KP 0)))
        if heldStep then s.setFreq s.time.i
        else
          let ahead : Bool := theta > thr
          let s := if ahead && !s.time.ahead then s.record s.timeSrc 0x5003 (le 8 (ofSigned 64 theta) ++ zeros 16) else s
          (s.updTime fun t => { t with i := i, ahead := ahead }).setFreq (if ahead then fNeg fmax else y)
    s.servoState theta

/-- SERVO_OFFSET: the oldest offset waiting is taken. -/
def State.servoOffset (s : State) : State :=
  match s.time.offers with
  | [] => s
  | (th, per) :: r => (s.updTime fun t => { t with offers := r }).servo th per

/-- An offset for the servo, when its source is the one in force. -/
def State.offer (s : State) (src : Nat) (theta : Int) (interval : Nat) : State :=
  if s.servoSrc = src then s.updTime fun t => { t with offers := t.offers ++ [(theta, interval)] } else s

/-- SERVO_HOLDOVER: no offset for HOLD_TMO (R377); y falls back to i. -/
def State.servoHoldover (s : State) : State :=
  if s.time.st = 2 ∧ s.servoSrc ≠ 0 ∧ s.now ≥ s.time.lastAt + s.rg P.TIME_HOLD_TMO 0 * 1000000 then
    (s.setFreq s.time.i).servoTo 3
  else s

/-- The servo's source has changed from `old` (R377, R386): out of FREE or into it. The integrator keeps its value. -/
def State.servoSrcSet (s : State) (old : Nat) : State :=
  let new := s.servoSrc
  let s := if old ≠ new then s.updTime fun t => { t with offers := [], lastAt := s.now } else s
  if new = 0 then s.servoTo 0
  else if old = 0 ∨ (old ≠ new ∧ (old = 4 ∨ new = 4)) then s.servoTo 1
  else s

/-- TIME attention (R55, R377, R378, R386). -/
def State.timeAttention (s : State) : Bool :=
  (s.servoSrc ≠ 0 && (s.time.st = 1 || s.time.st = 3)) || ((s.time.step.map (·.held)).getD false) ||
  (s.twin.state = 3 && s.twin.twinOfs.natAbs > 10)

/-! ## Steps (R25, R378) -/

/-- The time base steps from the tick it has reached to a later TS64. The frame that begins is lengthened so that the next
tick falls on a multiple of 2,560; it takes the number of that tick less 1 (R23, R25). Paths and profiles go on from where they are. -/
def State.stepTo (s : State) (new : TS) (cause : Nat) (held : Bool) : State :=
  let old := s.now
  let next := (new + 2560 + 2559) / 2560 * 2560
  let d : Int := ((next - 2560 : Nat) : Int) - (s.tick : Nat)
  -- the micro-step of this tick is made at the new time, unless it has been made
  let micro := if s.micro = old then new else new - 1
  let s := { s with now := new, tick := next - 2560, frameAt := new, micro := micro, frameNo := next / 2560 - 1 }
  let s := { s with
    beams := s.beams.map fun (b : Beam) => b.stepPath d
    mot := { s.mot with cells := s.mot.cells.map fun (p : PrfCell) =>
      { p with plan := p.plan.map fun (q : PPhase) => { q with t0 := q.t0 + d * 65536 } } } }
  let s := s.updTime fun t => { t with valid := true, step := none }
  let s := (s.setRg2 P.TIME_STEP_PEND 0 0).bump P.TIME_STEPS 0
  s.record s.timeSrc 0x5001 (le 8 old ++ le 8 new ++ le 1 cause ++ le 1 (b2n held) ++ zeros 6)

/-- A step whose tick has come is applied and its TIME_SET decided (R378, R391). -/
def State.stepTick (s : State) : State :=
  match s.time.step with
  | none => s
  | some q =>
    let due := match q.frame with | some n => s.now ≥ n * 2560 | none => true
    if q.held ∨ !due then s
    else if s.power.state = 4 then
      -- EXPOSE has been entered meanwhile: held under R25
      (s.updTime fun t => { t with step := some { q with held := true } }).setRg2 P.TIME_STEP_PEND 0 q.amount
    else
      let new := match q.dest with | some v => max v s.now | none => s.now + q.amount
      let tick := s.now
      let s := s.stepTo new q.cause false
      match q.k with
      | some k => s.decide k rOK tick []
      | none => s

/-- TIME_STEP_APPLY: at the first tick out of EXPOSE, a held step is recomputed from the latest offset, and applied or
dropped (R378). A step of TIME_SET keeps its value. -/
def State.stepApply (s : State) : State :=
  match s.time.step with
  | none => s
  | some q =>
    if !q.held ∨ s.power.state = 4 ∨ s.now % 2560 ≠ 0 then s
    else
      match q.dest with
      | some v =>
        let tick := s.now
        let s := s.stepTo (max v s.now) q.cause true
        (match q.k with | some k => s.decide k rOK tick [] | none => s)
      | none =>
        if s.time.lastOfs < -(s.rg P.TIME_STEP_THR 0 : Int) then
          let amount := (-s.time.lastOfs).toNat
          if s.twin.state = 2 && !s.twin.lost && (s.twin.partner = 3 || s.twin.partner = 4) then s.requestStep amount q.cause none q.k
          else s.stepTo (s.now + amount) q.cause true
        else (s.updTime fun t => { t with step := none }).setRg2 P.TIME_STEP_PEND 0 0

/-! ## PPS (R384) -/

/-- PPS_IN_EDGE. -/
def State.ppsIn (s : State) (k : Nat) (rising : Bool) : State :=
  let s := s.docLevel (289 + k) rising
  if rising = bit (s.rg P.TIME_PPS_IN_EDGE 0) k then s
  else
    let s := s.setRg2 (P.TIME_PPS_IN_TS + 2 * k) 0 (s.now : Nat)
    s.offer (2 + k) ((s.now : Int) - ((s.now + 500000000) / 1000000000 * 1000000000 : Nat)) 1000000000

/-- PPS_OUT: the output is active from now for PPS_W, at each second or each multiple of PPS_PERIOD. -/
def State.ppsOut (s : State) (k : Nat) : State :=
  let on : Bool := match s.rg (P.TIME_PPS_OUT_MODE + k) 0 with
    | 1 => s.now % 1000000000 = 0
    | 2 => s.now % s.rg P.TIME_PPS_PERIOD 0 = 0
    | _ => false
  if on then s.put (.pps k s.now (s.rg P.TIME_PPS_W 0)) else s

/-! ## Launches (R388-R390) -/

def State.launchesOf (s : State) (p : Nat) : List Launch := s.time.launches.getD p []

def State.updLaunches (s : State) (p : Nat) (f : List Launch → List Launch) : State :=
  s.updTime fun t => { t with launches := t.launches.modify p f }

/-- In launch-time order; a later one of equal time follows. -/
def insertLaunch (x : Launch) : List Launch → List Launch
  | [] => [x]
  | y :: r => if x.due < y.due then x :: y :: r else y :: insertLaunch x r

/-- Time on the line of a frame of n bytes, with preamble, FCS and gap, in ns, at speed s of the latency table. -/
def lineTime (speed n : Nat) : Nat :=
  let bits := (n + 24) * 8
  match speed with
  | 0 => ceilDiv bits 10
  | 3 => bits * 10
  | 4 => bits * 100
  | _ => bits

/-- The LAUNCH record of a launch and its Docent source (R389, R465). -/
def State.launchRecord (s : State) (p result : Nat) (l : Launch) (egress : TS) : State :=
  (s.record s.ptpSrc 0x5005 (le 1 p ++ le 1 result ++ zeros 2 ++ le 4 l.tag ++ le 8 l.due ++ le 8 egress)).docEdge (291 + p)

/-- A frame of so many bytes cannot start on a port now: a launch is on the line, or the frame would still be on it at a pending
launch time (R388). A launch is pending until it is late beyond LATE_MAX (R389), in the module that sends launches (R390). -/
def State.macBusy (s : State) (p len : Nat) : Bool :=
  s.now < s.time.lineFree.getD p 0 || (s.twin.own && (s.launchesOf p).any fun l =>
    l.due < s.now + lineTime (s.host.ethSpeed.getD p 0) len && s.now ≤ l.due + s.rg P.TIME_LATE_MAX 0)

/-- A frame gives way: to a launch, or behind one that does. -/
def State.macHeld (s : State) (p len : Nat) : Bool := (s.time.mac.any fun f => f.port = p) || s.macBusy p len

/-- A frame starts on the line. -/
def State.macStart (s : State) (f : MacFrame) : State :=
  s.put (match f.out with | .ethernet p _ m => .ethernet p s.now m | o => o)

/-- A frame that leaves nothing to do starts, or gives way. -/
def State.macPlain (s : State) (p : Nat) (out : Output) (len : Nat) : State :=
  if s.macHeld p len then s.updTime fun t => { t with mac := t.mac ++ [⟨p, out, len, .plain⟩] } else s.macStart ⟨p, out, len, .plain⟩

/-- LAUNCH_SEND: the first launch of a port is sent, at its time or late within LATE_MAX. -/
def State.launchSend (s : State) (p : Nat) : State :=
  match s.launchesOf p with
  | [] => s
  | l :: r =>
    if s.now < l.due ∨ !s.twin.own ∨ !s.host.ethUp.getD p false ∨ s.now < s.time.lineFree.getD p 0 ∨
        s.now > l.due + s.rg P.TIME_LATE_MAX 0 then s
    else
      let s := s.updLaunches p fun _ => r
      let s := s.updTime fun t =>
        { t with lineFree := t.lineFree.set p (s.now + lineTime (s.host.ethSpeed.getD p 0) l.data.length) }
      (s.put (.ethernet p s.now l.data)).launchRecord p 0 l s.now

/-- LAUNCH_DROP: launch + LATE_MAX has passed. -/
def State.launchDrop (s : State) (p : Nat) : State :=
  match s.launchesOf p with
  | [] => s
  | l :: r =>
    if !s.twin.own ∨ s.now ≤ l.due + s.rg P.TIME_LATE_MAX 0 then s
    else
      let s := (s.updLaunches p fun _ => r).bump P.TIME_LAUNCH_LATE 0
      s.launchRecord p (if s.host.ethUp.getD p false then 1 else 2) l 0

/-- At takeover, launches that are late beyond LATE_MAX are dropped (R390). -/
def State.launchTakeover (s : State) : State :=
  forEach [0, 1, 2] (fun p s =>
    let dead := (s.launchesOf p).filter fun l => s.now > l.due + s.rg P.TIME_LATE_MAX 0
    let s := s.updLaunches p fun ls => ls.filter fun l => s.now ≤ l.due + s.rg P.TIME_LATE_MAX 0
    dead.foldl (fun s l => s.launchRecord p 4 l 0) s) s

/-! ## The catalogue (R394-R398) -/

/-- A record as its 64 bytes (R425). -/
def Rec.bytes (r : Rec) : List Byte := r.body ++ le 4 (crc32c r.body)

/-- Least and greatest TS64 of a segment's entries. -/
def CatSeg.least (g : CatSeg) : TS := ((g.entries.map (·.first)).min?).getD 0
def CatSeg.greatest (g : CatSeg) : TS := ((g.entries.map (·.first)).max?).getD 0

/-- Bytes of a segment: header and entries (R395). -/
def State.segBytes (s : State) (g : CatSeg) : List Byte :=
  le 2 0x0043 ++ le 1 (b2n s.straps.roleB) ++ zeros 1 ++ le 4 g.number ++ le 4 g.entries.length ++ le 4 g.lostBefore ++
  le 8 g.least ++ le 8 g.greatest ++ zeros 32 ++ g.entries.flatMap Rec.bytes

/-- Bytes CAT_LIST gives a segment. -/
def CatSeg.size (g : CatSeg) : Nat := g.compressed.getD (64 * (g.entries.length + 1))

/-- Seal the open segment and start its compression (R396): its number, if it had an entry. -/
def State.catSealNow (s : State) : Option Nat × State :=
  match s.log.openSeg with
  | none => (none, s)
  | some g =>
    let data := s.segBytes g
    let s := (s.memWrite g.acc 0 data).updAcc g.acc fun a => { a with state := 0 }
    let size := ((s.acc? g.acc).map (·.size)).getD 0
    let (job, s) :=
      if s.noSpaceFor 4 size then (none, s)
      else
        let (acc, s) := s.allocAcc 4 size
        let s := (s.takeLoan g.acc).updAcc acc fun a => { a with state := 1 }
        let (queued, s) := s.zipPipe ⟨3, 0, 0, 0, 1, true, g.acc, 0, data.length, acc, noAcc, g.number, none⟩
        if queued then (some acc, s) else (none, (s.releaseAcc acc).returnLoan g.acc)
    let g := { g with sealedAt := some s.now, job := job }
    let s := { s with log := { s.log with openSeg := none, segs := s.log.segs ++ [g] } }
    let s := if s.twin.own then s.put (.twin 6 (le 4 g.number ++ le 8 g.greatest)) else s
    (some g.number, s)

def State.catSeal (s : State) : State := s.catSealNow.2

/-- A full segment is sealed; entries staged beyond it go to the next one (R396). -/
def State.catFull (s : State) : State :=
  match s.log.openSeg with
  | none => s
  | some g =>
    if g.entries.length < s.segRoom then s
    else
      let rest := g.entries.drop s.segRoom
      let s := { s with log := { s.log with openSeg := some { g with entries := g.entries.take s.segRoom } } }
      rest.foldl State.catStage s.catSeal

/-- Full segments are sealed, and the end of an episode of loss is reported (R396, R398). -/
def State.catPump (s : State) : State :=
  let s := s.catFull
  let l := s.log
  if l.lostEpisode > 0 ∧ l.openSeg.isSome then
    let s := { s with log := { l with lostEpisode := 0 } }
    s.record s.catSrc 0x5006 (le 4 l.lostEpisode ++ zeros 4 ++ le 8 l.lostFrom ++ le 8 l.lostTo)
  else s

/-- CAT_SEAL_TIMEOUT: SEAL_MS has passed since the open segment's first entry (R396). -/
def State.catSealTimeout (s : State) : State :=
  match s.log.openSeg with
  | some g => if s.now ≥ g.firstAt + s.rg P.CAT_SEAL_MS 0 * 1000000 then s.catSeal else s
  | none => s

/-- Segments that CAT_LIST names: sealed, their compression ended, not released. -/
def State.catListed (s : State) : List CatSeg := s.log.segs.filter fun g => g.sealedAt.isSome && g.job.isNone && !g.released

/-! ## Commands (R391) -/

def State.timeFlags (s : State) : Nat :=
  b2n s.time.valid + 2 * b2n ((s.time.step.map (·.held)).getD false) + 4 * b2n s.time.ahead + 8 * b2n (s.servoSrc = 4)

def State.bodyTimeGet (c : Ctx) (s : State) : State :=
  s.ok c (le 8 s.now ++ le 1 s.time.st ++ le 1 s.timeFlags ++ zeros 2 ++ le 4 (ofSigned 32 (sat32 s.time.lastOfs)))

def State.bodyTimeSet (c : Ctx) (s : State) : State :=
  let d := tsDiff (u64 c.payload 0) s.now
  s.unless c (firstBad
      [(s.rg P.TIME_SRC 0 ≠ 0 || s.power.state = 4 || (s.twin.state = 3 && !c.twin), rBADSTATE), (d < 0, rBADPARAM)]) fun s =>
    -- in a SHADOW the step itself comes from the ACTIVE (R386)
    if s.twin.state = 3 then s.ok c
    else s.requestStep d.toNat 2 (some (s.now + d.toNat)) (some c.k)

/-- The queue of the port a TIME_LAUNCH names is full: the command waits in its slot (R388). -/
def State.launchFull (s : State) (p : List Byte) : Bool := (s.launchesOf (u8 p 0)).length ≥ 64

def State.bodyTimeLaunch (c : Ctx) (s : State) : State :=
  let p := c.payload
  let port := u8 p 0
  let len := u16 p 2
  let d := tsDiff (u64 p 8) c.stamp
  let due := c.stamp + d.toNat
  let top := if s.rg P.ETH_JUMBO port = 1 then 9014 else 1514
  s.unless c (firstBad
      [(p.length < 16 || port > 2 || len < 60 || len > top || p.length ≠ 16 + len ||
        d < 5000 || d > 60000000000, rBADPARAM)]) fun s =>
    (s.updLaunches port (insertLaunch ⟨u32 p 4, due, p.drop 16, c.stream, c.seq, c.ord⟩)).queued c

def State.bodyLaunchFlush (c : Ctx) (s : State) : State :=
  let port := u8 c.payload 0
  s.unless c (firstBad [(port > 2, rBADPARAM)]) fun s =>
    let ls := s.launchesOf port
    let s := s.updLaunches port fun _ => []
    (ls.foldl (fun s l => s.launchRecord port 3 l 0) s).ok c (le 4 ls.length)

def State.bodyCatSeal (c : Ctx) (s : State) : State :=
  let (n, s) := s.catSealNow
  s.ok c (le 4 (n.getD 0xFFFFFFFF))

def State.bodyCatList (c : Ctx) (s : State) : State :=
  let first := u32 c.payload 0
  let n := u32 c.payload 4
  s.unless c (firstBad [(n = 0 || n > 64, rBADPARAM)]) fun s =>
    let gs := (s.catListed.filter fun g => g.number ≥ first).take n
    s.ok c (le 4 gs.length ++ gs.flatMap fun g =>
      le 4 g.number ++ le 4 g.acc ++ le 4 g.size ++ le 1 (b2n g.compressed.isSome) ++ zeros 3 ++ le 8 g.least ++ le 8 g.greatest)

def State.bodyCatRelease (c : Ctx) (s : State) : State :=
  let n := u32 c.payload 0
  match s.catListed.find? fun g => g.number = n with
  | none => s.reject c rBADPARAM
  | some g =>
    let s := { s with log := { s.log with segs := s.log.segs.filter fun q => q.number ≠ n } }
    match s.acc? g.acc with
    | none => s.ok c
    | some a =>
      if a.state = 3 then s.decide c.k rDEFERRED s.now []
      else if a.loans = 0 then (s.releaseAcc g.acc).ok c
      else (s.updAcc g.acc fun a => { a with state := 3, freedAt := s.now, loansAtFree := a.loans }).decide c.k rDEFERRED s.now []

/-! ## The clock monitor (R491) -/

/-- REF_LOSS: every PLL goes to TWIN_REF. Where it gives no valid clock, the error passes up level by level to the chip handler, which
decides Fatal (R17). -/
def State.refLoss (s : State) (backup : Bool) : State :=
  if s.time.twinRef then s
  else
    let seq := s.seqOf s.timeSrc
    let s := s.updTime fun t => { t with twinRef := backup }
    let s := s.record s.timeSrc 0x000B (le 1 (b2n backup) ++ le 1 1 ++ zeros 22)
    if backup then s else s.blockEscalate s.timeSrc 0x000B seq clsFatal

end Sys2Proof.Machine
end

