-- ==== Sys2Proof/Machine/Log.lean ====
section
/-!
DEFINITION. The Provenance log's commands (R430, R433), the key slots (R432), tags and nonces (R69, R419, R433), and the fault
commands (R421, R434).
-/
namespace Sys2Proof.Machine

open Sys2Proof

/-- Source path of the MRAM controller (R435, R478). -/
def State.mramSrc (s : State) : Nat := s.srcPath 0 6 0

def State.updMram (s : State) (f : MramSt → MramSt) : State := { s with mram := f s.mram }
def State.updLog (s : State) (f : LogSt → LogSt) : State := { s with log := f s.log }

/-! ## Nonces and tags -/

/-- The 16 bytes of a nonce. -/
def nonceBytes (id : Nat) : List Byte := (List.range 16).map (Config.nonceByte id)

/-- Give out a nonce; the one before it, for the same use, is no longer the last. -/
def State.giveNonce (s : State) (forLog : Bool) (ep : Endpoint) (sess : Nat) : List Byte × State :=
  let id := s.host.nonceCount
  let same (n : Nonce) : Bool := n.forLog = forLog && (if forLog then n.sess = sess else n.ep = ep)
  (nonceBytes id, s.updHost fun h =>
    { h with nonceCount := id + 1, nonces := (h.nonces.filter fun n => !same n) ++ [⟨forLog, ep, sess, id, s.now⟩] })

/-- A nonce serves one attempt: it is used up, and counts while at most 10 s old (R69, R433). -/
def State.takeNonce (s : State) (forLog : Bool) (ep : Endpoint) (sess : Nat) : Option (List Byte) × State :=
  let same (n : Nonce) : Bool := n.forLog = forLog && (if forLog then n.sess = sess else n.ep = ep)
  let got := s.host.nonces.find? same
  let s' := s.updHost fun h => { h with nonces := h.nonces.filter fun n => !same n }
  match got with
  | some n => (if s.now ≤ n.issued + 10000000000 then some (nonceBytes n.id) else none, s')
  | none => (none, s')

/-- NONCE_EXPIRE: unused nonces of an endpoint that are more than 10 s old are gone. -/
def State.nonceExpire (s : State) (ep : Endpoint) : State :=
  s.updHost fun h => { h with nonces := h.nonces.filter fun n => n.ep ≠ ep || s.now ≤ n.issued + 10000000000 }

/-- IPv4 address of an endpoint, or 0 (R435, R478). -/
def Endpoint.ip : Endpoint → Nat
  | .udp ip _ _ _ => ip
  | _ => 0

/-- A tag made with a key slot of at least a level over a nonce and a suffix (R69). -/
def State.tagOk (s : State) (slot level : Nat) (nonce : Option (List Byte)) (suffix tag : List Byte) : Bool :=
  match s.mram.keys[slot]?, nonce with
  | some k, some n => k.level ≥ level && (hmac256 k.key (n ++ suffix)).take 16 == tag
  | _, _ => false

/-- AUTH_FAIL (R435). -/
def State.authFail (s : State) (slot use : Nat) (ep : Endpoint) : State :=
  s.record s.mramSrc 0x7005 (le 1 slot ++ le 1 use ++ zeros 2 ++ le 4 ep.ip ++ zeros 16)

/-! ## The log (R430, R433) -/

/-- Erase the log (R433). -/
def State.logErase (s : State) (slot : Nat) : Nat × State :=
  let n := s.log.recs.length
  let head := s.log.head
  let s := s.updLog fun l => { l with recs := [], head := 0, mark := 0, clears := (l.clears + 1) % 2 ^ 32, sinceClear := 0 }
  (n, s.record s.mramSrc 0x7003 (le 1 slot ++ zeros 3 ++ le 4 n ++ le 4 head ++ zeros 12))

def State.bodyLogRead (c : Ctx) (s : State) : State :=
  let first := u32 c.payload 0
  let n := u32 c.payload 4
  s.unless c (firstBad [(n = 0 || n > 255, rBADPARAM)]) fun s =>
    let oldest := (s.log.recs.head?.map (·.index)).getD s.log.head
    let past := first < oldest
    let start := if past then oldest else first
    let rs := (s.log.recs.filter fun r => r.index ≥ start).take n
    s.decide c.k (if past then rPARTIAL else rOK) s.now (le 4 start ++ le 4 rs.length ++ rs.flatMap Rec.bytes)

def State.bodyLogMark (c : Ctx) (s : State) : State :=
  let i := u32 c.payload 0
  s.unless c (firstBad [(i > s.log.head, rBADPARAM)]) fun s => (s.updLog fun l => { l with mark := i }).ok c

def State.bodyLogChallenge (c : Ctx) (s : State) : State :=
  let (n, s) := s.giveNonce true (s.session c.sess).ep c.sess
  s.ok c n

def State.bodyLogClear (c : Ctx) (s : State) : State :=
  let slot := u8 c.payload 0
  let ep := (s.session c.sess).ep
  let (nonce, s) := s.takeNonce true ep c.sess
  s.unless c (firstBad [(slot > 7, rBADPARAM)]) fun s =>
    if s.tagOk slot 2 nonce [0x4C, BitVec.ofNat 8 slot] (field c.payload 4 16) then
      let (n, s) := s.logErase slot
      let s := if s.twin.state = 2 then s.put (.twin 7 (le 1 slot)) else s
      s.ok c (le 4 n)
    else (s.authFail slot 2 ep).reject c rNOAUTH

/-- LOG attention (R55, R430). -/
def State.logAttention (s : State) : Bool := s.log.head > s.log.mark

/-- LOG_MIRROR: a record or merge update of the twin (R431). A launch it tells of is no longer pending here (R390). -/
def State.logMirror (s : State) (r : Rec) : State :=
  let r := { r with flags := r.flags ||| 2 }
  let held := s.log.recs.any fun q => q.src = r.src && q.seq = r.seq && q.powerups = r.powerups
  let s := if held then
      s.updLog fun l => { l with recs := l.recs.map fun q =>
        if q.src = r.src ∧ q.seq = r.seq ∧ q.powerups = r.powerups then { r with index := q.index } else q }
    else s.logPlace r
  let s := s.updTwin fun t => { t with mirrored := t.mirrored + 1 }
  if r.code = 0x5005 ∧ !s.twin.own then
    s.updLaunches (u8 r.payload 0) fun ls => ls.filter fun l => !(l.tag = u32 r.payload 4 && l.due % 2 ^ 64 = u64 r.payload 8)
  else s

/-! ## Keys (R432) -/

def State.bodyKeyWrite (c : Ctx) (s : State) : State :=
  let slot := u8 c.payload 0
  let level := u8 c.payload 1
  let writer := (s.session c.sess).slotKey
  let others := (List.range 8).any fun i => i ≠ slot && ((s.mram.keys[i]?.map (·.level)).getD 0) = 2
  s.unless c (firstBad
      [((s.session c.sess).level ≠ 2, rNOAUTH), (slot > 7 || level > 2, rBADPARAM), (level ≠ 2 && !others, rBADSTATE)]) fun s =>
    let key := if level = 0 then [] else field c.payload 4 32
    let s := s.updMram fun m => { m with keys := m.keys.set slot ⟨level, s.now, writer, key⟩ }
    (s.record s.mramSrc 0x7004 (le 1 slot ++ le 1 level ++ le 1 writer ++ zeros 21)).ok c

def State.bodyKeyInfo (c : Ctx) (s : State) : State := s.ok c (s.mram.keys.flatMap fun k => le 1 k.level)

/-! ## Faults (R421, R434) -/

def State.bodyFaultStatus (c : Ctx) (s : State) : State :=
  s.ok c (([0, 1, 2, 3, 4].flatMap fun r => le 1 (s.regionClass r)) ++ le 1 s.chipClass ++ zeros 2)

/-- A block of a region still finds the error that stopped it: in STO, a failed rank (R360, R421, R507). -/
def State.stopCauseStays (s : State) (region : Nat) : Bool := region = 4 && s.store.ranks.any fun r => r.state = 3

def State.bodyFaultClear (c : Ctx) (s : State) : State :=
  let region := u8 c.payload 0
  let handler := s.srcPath region 0xF 0xFF
  let on := s.faults.any fun f => f.src = handler && f.cls = clsStop
  s.unless c (firstBad [(region = 0 || region > 4, rBADPARAM), (s.stopCauseStays region, rBADSTATE)]) fun s =>
    let s := if on then
        let s := (s.faultOff handler clsStop).record handler 0x7002 (le 1 region ++ le 1 clsStop ++ le 2 0xFFFF)
        if region = 4 then s.updStore fun st => { st with stopped := false } else s
      else s
    s.ok c (le 1 (s.regionClass region) ++ zeros 3)

end Sys2Proof.Machine
end

