-- ==== Sys2Proof/Machine/Feedback.lean ====
section
/-!
DEFINITION. Feedback ports (R252-R267, R269, R270): decoding, speed, index, latches, port faults and the position page.
-/
namespace Sys2Proof.Machine

open Sys2Proof

def State.updMot (s : State) (f : MotSt → MotSt) : State := { s with mot := f s.mot }
def State.port (s : State) (n : Nat) : FbkPort := s.mot.ports.getD n fbkReset
def State.updPort (s : State) (n : Nat) (f : FbkPort → FbkPort) : State :=
  s.updMot fun m => { m with ports := m.ports.modify n f }
def State.fbkSrc (s : State) (n : Nat) : Nat := s.srcPath 2 (n / 4) (n % 4)
def State.fbkType (s : State) (n : Nat) : Nat := s.rg P.FBK_TYPE n

/-- A 48-bit parameter over two words (R291), and a count held to 48 bits (R254). -/
def State.rg48 (s : State) (p i : Nat) : Int := toSigned 48 (s.rg p i + 2 ^ 32 * s.rg (p + 1) i)
def wrap48 (x : Int) : Int := toSigned 48 (ofSigned 48 x)

/-- MOT.FBK[n].FLAGS (R291). -/
def FbkPort.flags (p : FbkPort) : Nat :=
  b2n p.valid + 2 * b2n p.uncertain + 4 * b2n p.fault + 8 * b2n p.hallBad + 16 * b2n p.ampBad + 32 * b2n p.absCrc +
  64 * b2n p.still

/-! ## Faults of a port (R288) -/

/-- FBK_FAULT (R290). -/
def State.fbkRecord (s : State) (n cause events : Nat) : State :=
  s.record (s.fbkSrc n) 0x2001
    (le 1 n ++ le 1 cause ++ zeros 2 ++ le 8 (ofSigned 64 (s.port n).raw) ++ le 4 events ++ zeros 8)

/-- A port fault: Contained, with its flag and record; a port that is faulted already stays as it is. -/
def State.portFault (s : State) (n cause events : Nat) : State :=
  if (s.port n).fault then s
  else
    let seq := s.seqOf (s.fbkSrc n)
    let s := s.updPort n fun p => { p with fault := true, cause := cause }
    ((s.setRg P.FBK_FAULT n 1).fbkRecord n cause events).faultOn (s.fbkSrc n) clsContained 0x2001 seq

/-- Whether the cause of a port's fault is still there. -/
def State.portCauseStays (s : State) (n : Nat) : Bool :=
  let p := s.port n
  let live := p.ills.filter fun x => s.now < x.1 + 1000000
  match p.cause with
  | 1 => live.length > s.rg P.FBK_ILL_MAX n
  | 2 => p.ampBad
  | 3 => p.hallBad || live.length > s.rg P.FBK_ILL_MAX n
  | 4 => p.absCrc
  | 5 => p.neRun > 0
  | _ => false

/-- A write of 1 to MOT.FBK[n].FAULT is rejected with BAD_STATE while the cause is there. -/
def State.portFaultClear (s : State) (n : Nat) : State :=
  if s.portCauseStays n then s
  else
    let s := s.updPort n fun p => { p with fault := false, cause := 0 }
    (s.setRg P.FBK_FAULT n 0).faultOff (s.fbkSrc n) clsContained

/-! ## Counting and speed (R254-R256) -/

/-- RAW and POS change by a signed number of counts, at stamp t (R256). -/
def State.countEdge (s : State) (n : Nat) (d : Int) (t : TS) : State :=
  if d = 0 then s
  else
    let p := s.port n
    let c := wrap48 (p.raw + d)
    let dir := d > 0
    let reversal := match p.dLast with | some q => q != dir | none => false
    let s := if reversal || p.ref.isNone then s.setRg P.FBK_SPEED n 0 else s
    s.updPort n fun p =>
      { p with
        raw := c
        pos := wrap48 (p.pos + d)
        valid := p.valid && !reversal && p.ref.isSome
        ref := if reversal then none else if p.ref.isNone then some (c, t) else p.ref
        dLast := some dir
        last := (c, t)
        still := false }

/-- A transition that the code forbids, at stamp t (R255). -/
def State.illegal (s : State) (n : Nat) (t : TS) : State :=
  let s := (s.bump P.FBK_ILL_CNT n).setRg P.FBK_SPEED n 0
  let s := s.updPort n fun p =>
    { p with
      uncertain := true, ref := none, valid := false
      ills := (p.ills.filter fun x => t < x.1 + 1000000) ++ [(t, false)] }
  let ills := (s.port n).ills
  let bad := (ills.filter (·.2)).length
  let lim := s.rg P.FBK_ILL_MAX n
  if bad > lim then s.portFault n 3 bad
  else if ills.length > lim then s.portFault n 1 ills.length
  else s

/-- The sign DIR gives a count (R254). -/
def State.fbkSign (s : State) (n : Nat) : Int := if s.rg P.FBK_DIR n = 1 then -1 else 1

/-- Place of the levels of A and B in the quadrature sequence in which A leads B. -/
def quadPlace (a b : Bool) : Nat := match a, b with
  | false, false => 0
  | true, false => 1
  | true, true => 2
  | false, true => 3

/-- Accepted levels of A and B, at their entry stamp (R254, R255). -/
def State.fbkEdge (s : State) (n : Nat) (a b : Bool) (t : TS) : State :=
  let p := s.port n
  let step := (quadPlace a b + 4 - quadPlace p.a p.b) % 4
  let s := s.updPort n fun p => { p with a := a, b := b }
  if s.fbkType n ≠ 1 ∨ !s.expRuns then s
  else match step with
    | 1 => s.countEdge n (s.fbkSign n) t
    | 3 => s.countEdge n (-s.fbkSign n) t
    | 2 => s.illegal n t
    | _ => s

/-- Place of a Hall state in the forward sequence (R263). -/
def hallPlace (code : Nat) : Nat := match code with
  | 1 => 0
  | 3 => 1
  | 2 => 2
  | 6 => 3
  | 4 => 4
  | _ => 5

/-- The samples of an impossible Hall state before t, one every 2 ns (R253), count toward ILL_MAX; the last 256 are kept, the most that
ILL_MAX asks for (R263). -/
def State.hallSamples (s : State) (n : Nat) (t : TS) : State :=
  let p := s.port n
  let k := (t - p.hallNext + 1) / 2
  if s.fbkType n ≠ 5 ∨ !s.expRuns ∨ !(p.hall = 0 || p.hall = 7) ∨ k = 0 then s
  else
    let m := min k 256
    let new := (List.range m).map fun i => (p.hallNext + 2 * (k - m + i), true)
    let ills := (p.ills.filter fun x => t < x.1 + 1000000) ++ new
    let ills := ills.drop (ills.length - 256)
    let s := s.updPort n fun p => { p with hallBad := true, ills := ills, hallNext := p.hallNext + 2 * k }
    let bad := (ills.filter (·.2)).length
    if bad > s.rg P.FBK_ILL_MAX n then s.portFault n 3 bad else s

/-- A change of the Hall inputs: U is bit 2 of the code, W bit 0 (R263). -/
def State.fbkHall (s : State) (n code : Nat) (t : TS) : State :=
  let code := code % 8
  let s := s.hallSamples n t
  let p := s.port n
  let s := s.updPort n fun p => { p with hall := code, hallNext := t }
  if s.fbkType n ≠ 5 ∨ !s.expRuns then s
  else if code = 0 ∨ code = 7 then s.hallSamples n (t + 1)
  else
    let s := s.updPort n fun p => { p with hallBad := false, hallLast := code }
    if p.hallLast = 0 then s
    else
      let order : Int := if s.rg P.FBK_HALL_ORDER n = 1 then -1 else 1
      match (hallPlace code + 6 - hallPlace p.hallLast) % 6 with
      | 0 => s
      | 1 => s.countEdge n (order * s.fbkSign n) t
      | 5 => s.countEdge n (-(order * s.fbkSign n)) t
      | _ => s.illegal n t

/-! ## Latches (R267) -/

/-- Capture into a latch the port's values, with their stamps. What latch 2 captures is the index that a homing takes (R279). -/
def State.capture (s : State) (n k : Nat) (pos raw : Int) (posTs trigTs : TS) : State :=
  let p := s.port n
  let speed := s.rg P.FBK_SPEED n
  let s := s.updPort n fun q => { q with latches := q.latches.modify k fun l =>
    { captured := true, past := l.captured, pos := pos, raw := raw, speed := speed, valid := p.valid,
      uncertain := p.uncertain, posTs := posTs, trigTs := trigTs } }
  let s := if k = 2 then s.updPort n fun q => { q with idxRaw := raw, idxHit := true } else s
  s.docEdge (141 + n)

/-- A trigger at a latch. A type 2 port completes it at its next sample. -/
def State.latchTrigger (s : State) (n k : Nat) (t : TS) : State :=
  if !s.expRuns then s
  else
    let p := s.port n
    match s.fbkType n with
    | 2 => s.updPort n fun q => { q with trig := q.trig ++ [(k, t, q.pos)] }
    | 3 | 4 => s.capture n k p.pos p.raw p.absTs t
    | _ => s.capture n k p.pos p.raw t t

/-- An edge of a trigger source reaches the latches whose LATCH_SRC names it. Source 1 is the port's own FBKn_TRIG. -/
def State.latchOn (s : State) (n src : Nat) (rising : Bool) (t : TS) : State :=
  forEach [0, 1] (fun k s =>
    let w := s.rg (P.FBK_LATCH_SRC + k) n
    let edge := bits w 7 6
    if bits w 5 0 = src && (edge = 2 || (edge = 0 && rising) || (edge = 1 && !rising)) then s.latchTrigger n k t else s) s

def State.latchSource (s : State) (src : Nat) (rising : Bool) (t : TS) : State :=
  forEach (List.range 8) (fun n s => s.latchOn n src rising t) s

/-! ## Index (R257-R260) -/

/-- An index reset. -/
def State.indexReset (s : State) (n : Nat) (t : TS) : State :=
  let old := (s.port n).pos
  let mode := s.rg P.FBK_IDX_MODE n
  let s := s.updPort n fun p => { p with pos := s.rg48 P.FBK_IDX_VAL n, uncertain := false, armed := false }
  s.record (s.fbkSrc n) 0x2002 (le 1 n ++ le 1 mode ++ zeros 2 ++ le 8 (ofSigned 64 old) ++ le 8 t ++ zeros 4)

/-- A change of Z or of the reference mark, at stamp t. -/
def State.fbkIndex (s : State) (n : Nat) (level : Bool) (t : TS) : State :=
  let p := s.port n
  let s := s.updPort n fun p => { p with z := level }
  let type := s.fbkType n
  let gate := s.rg P.FBK_IDX_GATE n
  let active := level != bit gate 2
  let open_ := type = 2 || ((!bit gate 0 || p.a) && (!bit gate 1 || p.b))
  if (type ≠ 1 ∧ type ≠ 2) ∨ !s.expRuns ∨ !active ∨ !open_ ∨ p.z = level then s
  else
    let s := (s.latchTrigger n 2 t).bump P.FBK_IDX_CNT n
    let mode := s.rg P.FBK_IDX_MODE n
    if mode = 1 ∨ (mode = 2 ∧ p.armed) then s.indexReset n t else s.updPort n fun p => { p with armed := p.armed && mode = 2 }

/-! ## Sin/cos (R261, R262) -/

/-- Sine and cosine of k / 8192 of a turn, times 2^96. -/
def halfStepSinCos (k : Nat) : Int × Int := trigGo 72 0 ((k * twoPi96 / 8192 : Nat) : Int) ((2 ^ 96 : Nat) : Int) 0 0

/-- Sine and cosine of k / 4096 of a turn, times 2^96. -/
def stepSinCos (k : Nat) : Int × Int := halfStepSinCos (2 * k)

/-- The greatest step m such that a direction of the first quadrant has reached m - 1/2 steps. -/
def phaseSearch (x y : Int) : Nat → Nat → Nat
  | 0, lo => lo
  | b + 1, lo =>
    let m := lo + 2 ^ b
    let (sn, cs) := halfStepSinCos (2 * m - 1)
    if m ≤ 1024 ∧ cs * y - sn * x ≥ 0 then phaseSearch x y b m else phaseSearch x y b lo

/-- The phase step of a sample: atan2(sin, cos) in 4,096 steps of a turn, to the nearest step (R509). -/
def phaseStep (sn cs : Int) : Nat :=
  let (q, x, y) : Nat × Int × Int :=
    if cs > 0 ∧ sn ≥ 0 then (0, cs, sn)
    else if cs ≤ 0 ∧ sn > 0 then (1, sn, -cs)
    else if cs < 0 ∧ sn ≤ 0 then (2, -cs, -sn)
    else (3, -sn, cs)
  (q * 1024 + phaseSearch x y 11 0) % 4096

/-- A sample of sin and cos, in mV, at stamp t. -/
def State.fbkSample (s : State) (n : Nat) (sn cs : Int) (t : TS) : State :=
  if s.fbkType n ≠ 2 ∨ !s.expRuns then s
  else
    let p := s.port n
    let amp := roundSqrt ((sn * sn + cs * cs).natAbs)
    let bad := amp < s.rg P.FBK_AMP_LO n || amp > s.rg P.FBK_AMP_HI n
    let s := s.setRg P.FBK_AMP_VAL n (min amp 4095)
    let (free, s) := if sn = 0 ∧ cs = 0 then s.draw else (0, s)
    let ph := if sn = 0 ∧ cs = 0 then free % 4096 else phaseStep sn cs
    let d := toSigned 12 (ofSigned 12 ((ph : Int) - ((p.phase.getD 0 : Nat) : Int)))
    let s := s.updPort n fun q => { q with phase := some ph, ampBad := bad, ampRun := if bad then q.ampRun + 1 else 0 }
    let s := match p.phase with
      | none => s.countEdge n (s.fbkSign n * (ph : Int)) t
      | some _ => if d.natAbs > 1024 then s.illegal n t else s.countEdge n (s.fbkSign n * d) t
    -- triggers since the sample before are placed between the two; POS goes with RAW from where it stood at the trigger, so that an
    -- index reset in between does not enter the interpolation (R257, R267)
    let q := s.port n
    let s := forEach q.trig (fun (kt : Nat × TS × Int) (s : State) =>
      let dt := t - p.sampT
      let way : Int := wrap48 (q.raw - p.sampRaw)
      let part : Int := if dt = 0 ∨ p.phase.isNone then way else roundDiv (way * ((min kt.2.1 t - p.sampT : Nat) : Int)) dt
      s.capture n kt.1 (wrap48 (kt.2.2 + part)) (wrap48 (p.sampRaw + part)) kt.2.1 kt.2.1) s
    let s := s.updPort n fun q => { q with trig := [], sampT := t, sampRaw := q.raw }
    if (s.port n).ampRun ≥ s.rg P.FBK_AMP_N n then s.portFault n 2 (s.port n).ampRun else s

/-! ## BiSS-C and SSI (R264, R265, R270) -/

/-- The number that bits spell, most significant first. -/
def bitsNat (l : List Bool) : Nat := l.foldl (fun a b => 2 * a + b2n b) 0

/-- Gray code to binary, most significant bit first. -/
def grayGo : List Bool → Bool → List Bool
  | [], _ => []
  | b :: r, c => (b != c) :: grayGo r (b != c)

/-- CRC-6 of BiSS-C over data, nE and nW (log entry 36). -/
def crc6 (l : List Bool) : Nat := l.foldl (crcBit 6 0x03) 0

/-- What a read brought: nothing good; or a value, with nE and nW as they arrived. -/
inductive AbsRead where
  | bad
  | good (value : Nat) (nE nW : Bool)
  deriving DecidableEq, Repr

/-- Decode the bits after the start bit; none where no start bit came. -/
def decodeAbs (biss gray : Bool) (n : Nat) (bs : Option (List Bool)) : AbsRead :=
  match bs with
  | none => .bad
  | some l =>
    if biss then
      let d := (l.drop 1).take n
      let tail := (l.drop (1 + n)).take 2
      let crc := l.drop (3 + n)
      if l.length ≠ n + 9 ∨ bitsNat crc ≠ 63 - crc6 (d ++ tail) then .bad
      else .good (bitsNat d) (tail.getD 0 false) (tail.getD 1 false)
    else if l.length ≠ n then .bad
    else .good (bitsNat (if gray then grayGo l false else l)) true true

/-- A read has ended whose first MA edge had a stamp (R264): a port whose turn it was decodes it. -/
def State.absRead (s : State) (n : Nat) (stamp : TS) (bs : Option (List Bool)) : State :=
  let type := s.fbkType n
  let p := s.port n
  -- the owner's own reads begin 100 ns after a tick whose turn it is; another module takes the owner's reads as they come (R270)
  let early : Bool := match p.absAt with | some q => s.twin.ownAt ≤ q && stamp < q + s.rg P.FBK_ABS_RD_FR n * 2560 | none => false
  if (type ≠ 3 ∧ type ≠ 4) ∨ !s.expRuns then s
  else if s.twin.own && s.twin.ownAt ≤ stamp && (stamp % 2560 ≠ 100 || early) then s
  else
    let s := s.updPort n fun q => { q with absAt := some stamp }
    let nb := s.rg P.FBK_ABS_BITS n
    let lim := s.rg P.FBK_ABS_ERR_N n
    -- a read cut by a change of TWIN_OWN is invalid and is not counted
    if s.twin.ownAt > stamp then s.updPort n fun q => { q with absCrc := true }
    else match decodeAbs (type = 3) (s.rg P.FBK_ABS_CODE n = 1) nb bs with
      | .bad =>
        let s := s.updPort n fun q => { q with absCrc := true, absBad := q.absBad + 1, neRun := 0 }
        if (s.port n).absBad ≥ lim then s.portFault n 4 (s.port n).absBad else s
      | .good _ false nW =>
        let s := s.updPort n fun q => { q with absCrc := true, absBad := q.absBad + 1, neRun := q.neRun + 1 }
        let s := if nW then s else s.fbkRecord n 6 1
        if (s.port n).neRun ≥ lim then s.portFault n 5 (s.port n).neRun
        else if (s.port n).absBad ≥ lim then s.portFault n 4 (s.port n).absBad else s
      | .good v true nW =>
        let d : Int :=
          if nb ≥ 48 then wrap48 (toSigned 48 v - s.fbkSign n * p.raw)
          else toSigned nb (ofSigned nb ((v : Int) - ((p.absPrev.getD 0 : Nat) : Int)))
        let s := s.updPort n fun q =>
          { q with absCrc := false, absBad := 0, neRun := 0, absPrev := some v, absTs := stamp }
        let s := s.countEdge n (s.fbkSign n * d) stamp
        if nW then s else s.fbkRecord n 6 1

/-! ## TYPE and the tick (R252, R256, R266) -/

/-- The effect of a write to TYPE. -/
def State.fbkTypeWrite (s : State) (n type : Nat) : State :=
  let s := (s.setRg P.FBK_TYPE n type).setRg P.FBK_SPEED n 0
  s.updPort n fun p =>
    { p with
      pos := 0, raw := 0, valid := false, uncertain := false, ref := none, last := (0, s.now), dLast := none, still := false
      hallLast := if p.hall = 7 then 0 else p.hall
      phase := none, trig := [], ills := [], ampRun := 0, absPrev := none, absBad := 0, neRun := 0, absAt := none, maAt := none
      hallNext := s.now, idxHit := false }

/-- No counted edge for T_STILL: standstill, found at a frame tick (R256). -/
def State.fbkStill (s : State) (n : Nat) : State :=
  if s.fbkType n = 0 ∨ s.now ≠ s.tick ∨ !s.expRuns ∨ s.now < (s.port n).last.2 + s.rg P.FBK_T_STILL n * 1000 then s
  else (s.setRg P.FBK_SPEED n 0).updPort n fun p => { p with valid := true, ref := none, still := true }

/-- The speed rule at a frame tick. -/
def State.fbkTick (s : State) (n : Nat) : State :=
  if s.fbkType n = 0 then s
  else
    let p := s.port n
    if s.now ≥ p.last.2 + s.rg P.FBK_T_STILL n * 1000 then s.fbkStill n
    else match p.ref with
      | none => s
      | some (c, t) =>
        if p.last.2 > t then
          let v := fOfRat (wrap48 (p.last.1 - c) * 1000000000) (p.last.2 - t)
          (s.setRg P.FBK_SPEED n v).updPort n fun p => { p with valid := true, ref := some p.last }
        else if p.valid ∧ s.now > t then
          let v := s.rg P.FBK_SPEED n
          let bound := fOfRat 1000000000 (s.now - t)
          if fLt bound (fAbs v) then s.setRg P.FBK_SPEED n (if fSign v then fNeg bound else bound) else s
        else s

/-- R264, R270: at a tick whose turn it is the owner begins a read of an absolute encoder. -/
def State.absTick (s : State) (n : Nat) : State :=
  let due : Bool := match (s.port n).maAt with | some q => s.now + 100 ≥ q + s.rg P.FBK_ABS_RD_FR n * 2560 | none => true
  if (s.fbkType n ≠ 3 ∧ s.fbkType n ≠ 4) ∨ !s.twin.own ∨ s.killed ∨ !due then s
  else (s.updPort n fun p => { p with maAt := some (s.now + 100) }).put (.absClock n (s.now + 100) (s.rg P.FBK_ABS_CLK n))

/-- The entry a port writes in the position page at a tick. -/
def State.pageEntry (s : State) (n : Nat) : PageEntry :=
  let p := s.port n
  let isAbs := s.fbkType n = 3 || s.fbkType n = 4
  ⟨p.pos, p.raw, s.rg P.FBK_SPEED n, p.flags, if isAbs then p.absTs else s.now,
   !p.fault && !(isAbs && (p.absCrc || p.absPrev.isNone))⟩

/-- The ports write the position page. -/
def State.pageTick (s : State) : State :=
  let page := (List.range 8).map fun n =>
    if s.fbkType n = 0 then { s.mot.page.getD n pageReset with ok := false } else s.pageEntry n
  s.updMot fun m => { m with page := page }

end Sys2Proof.Machine
end

