-- ==== Sys2Proof/Machine/Profile.lean ====
section
/-!
DEFINITION. The profiles of the motion region (R272, R274-R276): planning a move as pieces of constant jerk, evaluating
a plan in 48.16 fixed point, and the instants of the unit crossings. Plans are kept in 2^-32 units and seconds, with
time in 2^-16 ns.
-/
namespace Sys2Proof.Machine

open Sys2Proof

/-- A second in 2^-16 ns. -/
def profSec : Int := 1000000000 * 65536

/-- Units of a plan in one unit of position. -/
def profUnit : Int := 2 ^ 32

/-- Position of a piece t after its start. -/
def PPhase.posAt (p : PPhase) (t : Int) : Int :=
  let s := profSec
  p.p0 + (6 * s * s * p.v0 * t + 3 * s * p.a0 * t * t + p.j * t * t * t) / (6 * s * s * s)

/-- Speed and acceleration of a piece t after its start. -/
def PPhase.spdAt (p : PPhase) (t : Int) : Int :=
  let s := profSec
  p.v0 + (2 * s * p.a0 * t + p.j * t * t) / (2 * s * s)
def PPhase.accAt (p : PPhase) (t : Int) : Int := p.a0 + p.j * t / profSec

/-- The floor square root of a natural number read from an integer; zero for a negative one. -/
def sqrtInt (x : Int) : Int := ((isqrt x.toNat : Nat) : Int)

/-- Pieces (duration, acceleration at the start, jerk) that bring speed v0 and acceleration a0 to speed v1 without
acceleration. lim: the limit on acceleration; jerk 0: no limit on jerk (R274). -/
def rampPieces (v0 a0 v1 lim j : Int) : List (Int × Int × Int) :=
  let sec := profSec
  if j = 0 then
    let d := v1 - v0
    if d = 0 then [] else [(((d.natAbs : Int) * sec + lim - 1) / lim, if d > 0 then lim else -lim, 0)]
  else
    let vz := v0 + a0 * (a0.natAbs : Int) / (2 * j)
    let s : Int := if v1 ≥ vz then 1 else -1
    let w := s * a0
    let d := s * (v1 - v0)
    let peak := sqrtInt (j * d + w * w / 2)
    let peak := if peak > lim then lim else peak
    let t1 := ((peak - w).natAbs : Int) * sec / j
    let gain1 := (peak + w) * ((peak - w).natAbs : Int) / (2 * j)
    let rest := d - gain1 - peak * peak / (2 * j)
    let t2 := if peak ≤ 0 ∨ rest ≤ 0 then 0 else rest * sec / peak
    [(t1, s * w, if peak ≥ w then s * j else -(s * j)), (t2, s * peak, 0), (peak * sec / j, s * peak, -(s * j))]

/-- Chain pieces from a place, speed and instant: the phases, and where they end. -/
def chain : List (Int × Int × Int) → Int → Int → Int → List PPhase × Int × Int × Int
  | [], t, p, v => ([], t, p, v)
  | (dur, a, j) :: rest, t, p, v =>
    if dur ≤ 0 then chain rest t p v
    else
      let ph : PPhase := ⟨t, dur, p, v, a, j⟩
      let (l, e) := chain rest (t + dur) (ph.posAt dur) (ph.spdAt dur)
      (ph :: l, e)

/-- Way covered by pieces from a speed. -/
def chainWay (l : List (Int × Int × Int)) (v : Int) : Int := (chain l 0 0 v).2.2.1

/-- The limits of a move, in plan units: speed, acceleration, deceleration, jerk. -/
structure PLim where
  v : Int
  acc : Int
  dec : Int
  j : Int
  deriving DecidableEq, Repr

/-- A ramp between two speeds in the direction of motion: DEC slows, ACC speeds up. -/
def rampTo (l : PLim) (v a v1 : Int) : List (Int × Int × Int) :=
  rampPieces v a v1 (if v1 ≥ v then l.acc else l.dec) l.j

/-- Way to a peak speed and from there to rest. -/
def peakWay (l : PLim) (v a vp : Int) : Int :=
  chainWay (rampTo l v a vp) v + chainWay (rampTo l vp 0 0) vp

/-- The greatest peak speed whose way fits a distance. -/
def peakSearch (l : PLim) (v a d : Int) : Nat → Int → Int → Int
  | 0, lo, _ => lo
  | fuel + 1, lo, hi =>
    if hi - lo ≤ 1 then lo
    else
      let m := (lo + hi) / 2
      if peakWay l v a m ≤ d then peakSearch l v a d fuel m hi else peakSearch l v a d fuel lo m

/-- Reflect pieces about zero. -/
def mirror (s : Int) (l : List (Int × Int × Int)) : List (Int × Int × Int) := l.map fun p => (p.1, s * p.2.1, s * p.2.2)

/-- Pieces of a move to rest at a distance d from a speed and an acceleration. A motion away from the target, or one
that cannot stop by it, is braked to rest first. -/
def moveGo (l : PLim) : Nat → Int → Int → Int → List (Int × Int × Int)
  | 0, _, _, _ => []
  | fuel + 1, d, v, a =>
    let s : Int := if d > 0 then 1 else if d < 0 then -1 else if v < 0 then -1 else 1
    let w := s * v
    let b := s * a
    let stop := rampPieces w b 0 l.dec l.j
    let way := chainWay stop w
    let d' := s * d
    if w < 0 ∨ way > d' + 65536 then
      let here := mirror s stop
      here ++ moveGo l fuel (d - s * way) 0 0
    else
      let top := l.v
      if peakWay l w b top ≤ d' then
        let rest := d' - peakWay l w b top
        mirror s (rampTo l w b top ++ [(if top > 0 then rest * profSec / top else 0, 0, 0)] ++ rampTo l top 0 0)
      else
        let vp := peakSearch l w b d' 64 0 top
        let rest := d' - peakWay l w b vp
        mirror s (rampTo l w b vp ++ [(if vp > 0 ∧ rest > 0 then rest * profSec / vp else 0, 0, 0)] ++ rampTo l vp 0 0)

/-- Plan a position move from p, v, a at instant t. -/
def planMove (l : PLim) (t p v a target : Int) : List PPhase := (chain (moveGo l 4 (target - p) v a) t p v).1

/-- Plan a velocity move: to the speed l.v in a direction, then on without end. -/
def planRun (l : PLim) (t p v a dir : Int) : List PPhase :=
  let w := dir * v
  let b := dir * a
  let first := if w < 0 then rampPieces w b 0 l.dec l.j else []
  let (w', b') := if w < 0 then (0, 0) else (w, b)
  (chain (mirror dir (first ++ rampTo l w' b' l.v ++ [(2 ^ 96, 0, 0)])) t p v).1

/-- Plan a ramp to rest at a deceleration. -/
def planStop (dec j t p v a : Int) : List PPhase := (chain (rampPieces v a 0 dec j) t p v).1

/-- The piece in force at an instant; after the last one, none. -/
def phaseAt : List PPhase → Int → Option PPhase
  | [], _ => none
  | p :: r, t => if t < p.t0 + p.dur then some p else phaseAt r t

/-- The instant a plan ends, in 2^-16 ns; a plan of no pieces ends where it began. -/
def planEnd (l : List PPhase) (t : Int) : Int := l.foldl (fun _ p => p.t0 + p.dur) t

/-- Where a plan without an exact target comes to rest. -/
def planRest (l : List PPhase) (p : Int) : Int := l.foldl (fun _ q => q.posAt q.dur) p

/-- The crossings of multiples of u units while the output goes linearly from `lo` at t0 to `hi` at t1 (2^-16 units), behind the unit
`reach` (R272): stamps, and whether the motion is positive. -/
def crossTimes (u : Nat) (t0 t1 : TS) (lo hi reach : Int) : List (TS × Bool) :=
  let w : Int := (u * 65536 : Nat)
  let k := reach / (u : Int)
  let k1 := hi / w
  let way := (hi - lo).natAbs
  let at_ (ahead : Int) : TS := t0 + (if way = 0 then 0 else roundDivNat (ahead.toNat * (t1 - t0)) way)
  (List.range (k1 - k).natAbs).map fun i =>
    if k1 > k then (at_ ((k + 1 + (i : Nat)) * w - lo), true) else (at_ (lo - (k - (i : Nat)) * w), false)

end Sys2Proof.Machine
end

