-- ==== Sys2Proof/Machine/Motion.lean ====
section
/-!
DEFINITION. Profile cells, switches, stepper stages, step/direction cells and output groups (R268, R271-R290), with the
commands of group 0x20xx.
-/
namespace Sys2Proof.Machine

open Sys2Proof

def State.prf (s : State) (a : Nat) : PrfCell := s.mot.cells.getD a prfReset
def State.updPrf (s : State) (a : Nat) (f : PrfCell → PrfCell) : State :=
  s.updMot fun m => { m with cells := m.cells.modify a f }
def State.stp (s : State) (a : Nat) : StpSt := s.mot.stps.getD a stpReset
def State.updStp (s : State) (a : Nat) (f : StpSt → StpSt) : State :=
  s.updMot fun m => { m with stps := m.stps.modify a f }
def State.sd (s : State) (b : Nat) : SdSt := s.mot.sds.getD b sdReset
def State.updSd (s : State) (b : Nat) (f : SdSt → SdSt) : State :=
  s.updMot fun m => { m with sds := m.sds.modify b f }
def State.sw (s : State) (i : Nat) : SwSt := s.mot.sws.getD i swReset
def State.updSw (s : State) (i : Nat) (f : SwSt → SwSt) : State :=
  s.updMot fun m => { m with sws := m.sws.modify i f }
def State.updOut (s : State) (n : Nat) (f : OutGrp → OutGrp) : State :=
  s.updMot fun m => { m with outs := m.outs.modify n f }
def State.prfSrc (s : State) (a : Nat) : Nat := s.srcPath 2 2 a

/-- Machine-facing outputs drive only in the owner, and not while TWIN_KILL_IN is high (R29, R271, R286). -/
def State.drives (s : State) : Bool := s.twin.own && !s.killed

/-- The next control-frame boundary. -/
def State.nextFrame (s : State) : TS := s.tickAfter 0

/-- Whether a cell's bridge or SDn_EN is on. -/
def State.driveOn (s : State) (a : Nat) : Bool := if a < 6 then (s.stp a).on else (s.sd (a - 6)).on

/-- A profile cell in motion (R273). -/
def PrfCell.moving (p : PrfCell) : Bool := p.st = 2 || p.st = 3 || p.st = 4

/-- Position (2^-16 units), speed and acceleration (2^-32) of a cell's command at an instant (R272). -/
def PrfCell.evalAt (p : PrfCell) (t : TS) : Int × Int × Int :=
  let u : Int := (t : Int) * 65536
  match phaseAt p.plan u with
  | some q => (q.posAt (u - q.t0) / 65536, q.spdAt (u - q.t0), q.accAt (u - q.t0))
  | none =>
    if p.plan.isEmpty then (p.pos, 0, 0)
    else (match p.endAt with | some e => e * 65536 | none => planRest p.plan (p.pos * 65536) / 65536, 0, 0)

/-- The output between two ticks by linear interpolation, in 2^-16 units (R272). -/
def State.cmdAt (s : State) (a : Nat) (t : TS) : Int :=
  let c := s.prf a
  if t ≥ c.ht then c.hi else c.lo + (c.hi - c.lo) * ((t - c.lt : Nat) : Int) / ((c.ht - c.lt : Nat) : Int)

/-- The commanded position at a stamp, in units (R272, R277). -/
def State.prfPosAt (s : State) (a : Nat) (t : TS) : Int := s.cmdAt a t / 65536

/-- Instant a cell's plan has come to rest, in ns. -/
def PrfCell.restTime (p : PrfCell) : TS := ceilDiv (planEnd p.plan 0).toNat 65536

/-! ## Records and cancelling (R287, R290) -/

def State.prfRecord (s : State) (a event : Nat) (m : Move) (pos : Int) (t : TS) : State :=
  let s := s.recordAt (s.prfSrc a) 0x2003
    (le 1 a ++ le 1 event ++ le 1 m.mode ++ zeros 1 ++ le 4 m.tag ++ le 8 (ofSigned 64 m.target) ++ le 8 (ofSigned 64 pos)) t
  if event ≥ 2 then s.docEdge (133 + a) else s

def State.homeRecord (s : State) (a result : Nat) : State :=
  s.record (s.prfSrc a) 0x2007
    (le 1 a ++ le 1 result ++ zeros 2 ++ le 8 (ofSigned 64 (s.prf a).homeP) ++ le 8 (ofSigned 64 (s.rg48 P.PRF_HOME_VAL a)) ++ zeros 4)

/-- One move is cancelled; a homing with a result of its own. -/
def State.moveCancelled (s : State) (a result : Nat) (m : Move) : State :=
  if m.mode = 3 then s.homeRecord a result else s.prfRecord a 3 m ((s.prf a).pos / 65536) s.now

def State.cancelRun (s : State) (a result : Nat) : State :=
  match (s.prf a).run with
  | none => s
  | some m => (s.moveCancelled a result m).updPrf a fun p => { p with run := none, home := 0 }

def State.flushMoves (s : State) (a : Nat) : State :=
  let s := (s.prf a).queue.foldl (fun s m => s.moveCancelled a 2 m) s
  s.updPrf a fun p =>
    { p with queue := [], lastTarget := match p.run with | some m => if m.mode ≤ 1 then some m.target else none | none => p.lastTarget }

/-! ## Stages and pulses (R282, R285) -/

/-- A coil target: min(2800 mA, I x sqrt 2) times a cosine given times 2^96, to 1 mA (R282). -/
def coilTarget (rms : Nat) (c : Int) : Int :=
  let amp := min (2800 * 2 ^ 96) (isqrt (2 * rms * rms * 2 ^ 192))
  roundDiv ((amp : Int) * c) (2 ^ 192)

/-- The targets of both coils of a stage. -/
def State.coilTargets (s : State) (a : Nat) : Int × Int :=
  let p := s.stp a
  let rms := if p.holding then s.rg P.STP_IHOLD a else s.rg P.STP_IRUN a
  let (sn, cs) := stepSinCos (4 * p.phase)
  (coilTarget rms cs, coilTarget rms sn)

/-! ## The choppers (R283) -/

def StpSt.chop (q : StpSt) (coilB : Bool) : Chop := if coilB then q.chopB else q.chopA
def State.setChop (s : State) (a : Nat) (coilB : Bool) (c : Chop) : State :=
  s.updStp a fun q => if coilB then { q with chopB := c } else { q with chopA := c }

/-- An on phase begins at t: blanking, then until the comparator says that the target is reached, at the latest after the 50 µs of R284.
The coil's current is not in the machine: how long after blanking it takes is a free value (log entry 91). T_OFF and FD_FRAC are
those of this instant. -/
def State.chopOn (s : State) (a : Nat) (coilB : Bool) (fwd : Bool) (t : TS) : State :=
  let (x, s) := s.draw
  let blank := (s.rg P.STP_T_BLANK a + 1) * 500
  let off := s.rg P.STP_T_OFF a * 500
  let fast := off * s.rg P.STP_FD_FRAC a / 256
  (s.setChop a coilB ⟨1, t + blank + x % (50001 - blank), fast, off - fast, fwd⟩).put (.bridge a coilB t (if fwd then 1 else 2))

/-- The phase that follows when one has ended at t: fast decay with the bridge reversed, slow decay, the next cycle. -/
def State.chopNext (s : State) (a : Nat) (coilB : Bool) (fwd : Bool) (t : TS) : State :=
  let c := (s.stp a).chop coilB
  if c.phase = 1 ∧ c.fast > 0 then
    (s.setChop a coilB { c with phase := 2, till := t + c.fast }).put (.bridge a coilB t (if c.fwd then 2 else 1))
  else if c.phase ≤ 2 ∧ c.slow > 0 then (s.setChop a coilB { c with phase := 3, till := t + c.slow }).put (.bridge a coilB t 3)
  else s.chopOn a coilB fwd t

/-- The phases that begin before `stop`; one of them lasts 500 ns or more, but for a part of an off phase. -/
def State.chopGo (a : Nat) (coilB fwd : Bool) (stop : TS) : Nat → State → State
  | 0, s => s
  | k + 1, s =>
    let t := ((s.stp a).chop coilB).till
    if t ≥ stop then s else State.chopGo a coilB fwd stop k (s.chopNext a coilB fwd t)

/-- A coil's bridge over the frame that begins now. A target of 0 keeps it in slow decay. -/
def State.chopCoil (s : State) (a : Nat) (coilB : Bool) (target : Int) : State :=
  let c := (s.stp a).chop coilB
  if target = 0 then
    if c.phase = 3 ∧ c.till = 0 then s else (s.setChop a coilB { c with phase := 3, till := 0 }).put (.bridge a coilB s.now 3)
  else
    let fwd : Bool := target > 0
    let s := if c.phase = 0 ∨ c.till < s.now then s.chopOn a coilB fwd s.now else s
    State.chopGo a coilB fwd (s.now + 2560) 16 s

/-- The bridges of a stage that is switched off, or does not drive, are off. -/
def State.chopOff (s : State) (a : Nat) : State :=
  forEach [false, true] (fun b s =>
    if ((s.stp a).chop b).phase = 0 then s else (s.setChop a b chopReset).put (.bridge a b s.now 0)) s

/-- A stage's choppers at a frame tick. -/
def State.chopTick (s : State) (a : Nat) : State :=
  if a ≥ 6 then s
  else if (s.stp a).on && s.drives then
    let (x, y) := s.coilTargets a
    (s.chopCoil a false x).chopCoil a true y
  else s.chopOff a

/-- Show a stage's targets at its balls, from t on. -/
def State.putCoilsAt (s : State) (a : Nat) (t : TS) : State :=
  if a ≥ 6 then s
  else if (s.stp a).on && s.drives then s.put (.coils a t (some (s.coilTargets a)))
  else (s.put (.coils a t none)).chopOff a

def State.putCoils (s : State) (a : Nat) : State := s.putCoilsAt a s.now

/-- The phase index follows crossings, one step of 2^(8 - m) units at each (R282). -/
def State.phaseFollow (s : State) (a : Nat) (l : List (TS × Bool)) : State :=
  let u : Int := 2 ^ (8 - s.rg P.STP_MSTEP a)
  l.foldl (fun s x =>
    let d := if x.2 then u else -u
    let s := s.updStp a fun q => { q with phase := ofSigned 10 ((q.phase : Int) + d), holding := false }
    (s.updPrf a fun c => { c with reach := c.reach / u * u + d }).putCoilsAt a x.1) s

/-- The crossings of a stage's output that are still to come in the frame in progress. -/
def State.stageAhead (s : State) (a : Nat) : List (TS × Bool) :=
  let c := s.prf a
  crossTimes (2 ^ (8 - s.rg P.STP_MSTEP a)) c.lt c.ht c.lo c.hi c.reach

/-- A stage up to now: each crossing at its own ns (R272, R282). -/
def State.stageAdvance (s : State) (a : Nat) : State :=
  s.phaseFollow a ((s.stageAhead a).takeWhile fun x => x.1 ≤ s.now)

/-- What a step/direction cell puts out up to now (R285): DIR as soon as the next pulse asks for its turn, DSU before that pulse; pulses
no closer than 2 x PW; nothing before `since`. -/
def sdGo (pw dsu : Nat) (since now : TS) : Nat → SdSt → List (TS × Bool) → SdSt × List (TS × Bool)
  | 0, x, out => (x, out)
  | k + 1, x, out =>
    match x.owed with
    | [] => (x, out)
    | p :: r =>
      if p.dir != x.dir then
        let td := max (max p.placed since) (if x.lastPulse = 0 then 0 else x.lastPulse + pw)
        if td > now then (x, out) else sdGo pw dsu since now k { x with dir := p.dir, dirAt := td } out
      else
        let gap := if x.lastPulse = 0 then 0 else x.lastPulse + 2 * pw
        let setup := if x.dirAt = 0 then 0 else x.dirAt + dsu
        let tp := max (max p.due since) (max gap setup)
        if tp > now then (x, out) else sdGo pw dsu since now k { x with owed := r, lastPulse := tp } (out ++ [(tp, p.dir)])

/-- A module that waits for its takeover keeps what falls due in the gap (R271, R286). -/
def State.inGap (s : State) : Bool := !s.twin.own && s.twin.takeD.isSome

/-- A step/direction cell up to now; a module without ownership runs dry. -/
def State.sdAdvance (s : State) (b : Nat) : State :=
  let x := s.sd b
  if s.inGap then s
  else
    let (x, out) := sdGo (s.rg P.SD_PW b) (s.rg P.SD_DSU b) (if s.drives then s.twin.ownAt else 0) s.now (2 * x.owed.length) x []
    let s := s.updSd b fun _ => x
    if s.drives then
      out.foldl (fun (s : State) (e : TS × Bool) => s.put (.stepPulse b e.1 (e.2 != bit (s.rg P.SD_POL b) 1))) s
    else s

/-- The output of a cell from now to the end of the frame in progress is placed anew (R272): at a tick, and where a plan changes between
two. Pulses not due yet are placed again. -/
def State.placeFrame (s : State) (a : Nat) : State :=
  let c := s.prf a
  let t1 := s.tickAfter 0
  let lo := if s.now = s.tick then c.pos else s.cmdAt a s.now
  let hi := (c.evalAt t1).1
  let set (s : State) : State := s.updPrf a fun c => { c with lt := s.now, ht := t1, lo := lo, hi := hi }
  if a < 6 then set s
  else
    let x := s.sd (a - 6)
    let undue := x.owed.filter fun p => p.due > s.now
    let reach := undue.foldl (fun (r : Int) p => if p.dir then r - 1 else r + 1) c.reach
    let new := if x.on && !x.stopped then crossTimes 1 s.now t1 lo hi reach else []
    let s := s.updSd (a - 6) fun x =>
      { x with owed := (x.owed.filter fun p => p.due ≤ s.now) ++ new.map fun e => ⟨e.1, e.2, c.ord, s.now⟩ }
    (set s).updPrf a fun c => { c with reach := hi / 65536 }

/-- A cell's position is set (R279, R289): what its output still had to go in this frame is gone at once, and it stands at v. -/
def State.setPosition (s : State) (a : Nat) (v : Int) : State :=
  let s := if a < 6 then s.phaseFollow a ((s.stageAhead a).map fun x => (s.now, x.2)) else s
  s.updPrf a fun c => { c with pos := v * 65536, lt := s.now, ht := s.now, lo := v * 65536, hi := v * 65536, reach := v }

/-! ## Enabling, resting and faults (R281, R284, R288) -/

/-- SDb_EN as it is driven (R285). -/
def State.putEnable (s : State) (b : Nat) : State :=
  s.put (.sdEnable b s.now (if s.drives then some ((s.sd b).on != bit (s.rg P.SD_POL b) 2) else none))

def State.driveSet (s : State) (a : Nat) (on : Bool) : State :=
  if a < 6 then
    (s.updStp a fun q => { q with on := on, holding := false, openA := q.openA && !on, openB := q.openB && !on }).putCoils a
  else (s.updSd (a - 6) fun x => { x with on := on, owed := if on then x.owed else [] }).putEnable (a - 6)

/-- A Degraded fault of an axis: its record is written, every move is cancelled, and the cell enters FAULT. `freeze`:
the commanded position stays where it is. -/
def State.prfFault (s : State) (a cause code : Nat) (payload : List Byte) (freeze : Bool) : State :=
  let s := (s.cancelRun a 2).flushMoves a
  let s := s.updPrf a fun p =>
    { p with
      st := 5, cause := cause, changes := [], stopAsk := none, home := 0, lastTarget := none
      plan := if freeze then [] else p.plan
      endAt := if freeze then none else p.endAt
      pos := if freeze then s.cmdAt a s.now else p.pos
      spd := if freeze then 0 else p.spd
      restAt := s.now }
  let s := if freeze then s.placeFrame a else s
  let s := (s.setRg P.PRF_FAULT a 1).setRg P.PRF_FAULT_CAUSE a cause
  let waits := (s.prf a).stoppers
  let offs := (s.prf a).offs
  let s := waits.foldl (fun s k => s.decideNow k rOK) s
  let s := offs.foldl (fun s k => (s.driveSet a false).decide k rOK s.now (le 1 5 ++ zeros 3)) s
  let s := s.updPrf a fun p => { p with stoppers := [], offs := [] }
  (s.raiseFault (s.prfSrc a) code payload clsDegraded).docEdge (133 + a)

/-- A stall, or a faulted port of a moving cell (R281). cause: 1 deviation, 2 port fault. -/
def State.prfStalled (s : State) (a cause : Nat) : State :=
  let port := s.rg P.PRF_MAP_PORT a
  let pos := s.prfPosAt a s.now
  let pay := le 1 a ++ le 1 port ++ le 1 cause ++ zeros 1 ++ le 4 (s.rg P.PRF_DEV a) ++ le 8 (ofSigned 64 pos) ++
    le 8 (ofSigned 64 (s.port port).raw)
  let s := s.prfFault a (cause - 1) 0x2005 pay true
  if a < 6 then (s.updStp a fun q => { q with holding := true }).putCoils a
  else s.updSd (a - 6) fun x => { x with owed := [] }

/-- MOT.STP[a].STAT (R291). -/
def StpSt.stat (p : StpSt) : Nat :=
  b2n p.on + 2 * b2n p.oc + 4 * b2n p.openA + 8 * b2n p.openB + 16 * b2n p.uv + 32 * b2n p.fault + 64 * b2n p.holding

/-- A stage switches its bridges off and enters FAULT (R284). -/
def State.stageFault (s : State) (a : Nat) (under : Bool) : State :=
  if a ≥ 6 ∨ !(s.stp a).on then s
  else
    let s := s.updStp a fun q => { q with on := false, fault := true, oc := q.oc || !under, uv := q.uv || under, holding := false }
    let s := s.putCoils a
    let q := s.stp a
    s.prfFault a 2 0x2008 (le 1 a ++ le 1 q.stat ++ zeros 2 ++ le 4 s.mot.vmot ++ le 2 q.phase ++ zeros 14) true

/-- The levels at the balls of a step/direction cell: STEP, DIR, EN, FLT (R285, R291). -/
def State.sdPins (s : State) (b : Nat) : Nat :=
  let x := s.sd b
  let pol := s.rg P.SD_POL b
  let step := x.lastPulse ≠ 0 && x.lastPulse ≤ s.now && s.now < x.lastPulse + s.rg P.SD_PW b
  b2n (step != bit pol 0) + 2 * b2n (x.dir != bit pol 1) + 4 * b2n (x.on != bit pol 2) + 8 * b2n x.flt

/-- SDb_FLT going active (R285). -/
def State.sdFault (s : State) (b : Nat) : State :=
  let a := 6 + b
  let pay := le 1 a ++ le 1 (s.sdPins b) ++ zeros 22
  if s.rg P.SD_FLT_ACT b = 1 then s.record (s.prfSrc a) 0x2009 pay
  else if (s.prf a).st = 0 ∨ (s.prf a).st = 5 then s
  else
    let s := s.updSd b fun x => { x with owed := [], stopped := true }
    let (p, v, ac) := (s.prf a).evalAt s.now
    let s := s.prfFault a 3 0x2009 pay false
    (s.updPrf a fun c =>
      { c with plan := planStop ((s.rg P.PRF_QSTOP_DEC a : Int) * profUnit) 0 ((s.now : Int) * 65536) (p * 65536) v ac, endAt := none }).placeFrame a

/-- Active level of SDb_FLT. -/
def State.sdFlt (s : State) (b : Nat) : Bool := (s.sd b).flt != bit (s.rg P.SD_POL b) 3

/-- Whether a write of 1 to MOT.PRF[a].FAULT is rejected with BAD_STATE (R288): the cause is there, or the cell moves. -/
def State.prfFaultStays (s : State) (a : Nat) : Bool :=
  let p := s.prf a
  let cause := match p.cause with
    | 1 => (s.port (s.rg P.PRF_MAP_PORT a)).fault
    | 2 => s.mot.vmotLow
    | 3 => s.sdFlt (a - 6)
    | _ => false
  p.st = 5 && (cause || !p.plan.isEmpty)

def State.prfFaultClear (s : State) (a : Nat) : State :=
  if (s.prf a).st ≠ 5 ∨ s.prfFaultStays a then s
  else
    let s := s.updStp a fun q => { q with oc := false, uv := false, fault := false }
    let s := if a < 6 then s else s.updSd (a - 6) fun x => { x with stopped := false }
    let st := if s.driveOn a then 1 else 0
    let s := s.updPrf a fun p => { p with st := st, devRun := 0, cause := 0 }
    (s.setRg P.PRF_FAULT a 0).clearDegraded (s.prfSrc a)

/-- A cell has come to rest at an instant: the commands that wait for it are decided, and it enters the state it was
stopping for. -/
def State.prfRest (s : State) (a : Nat) (t : TS) : State :=
  let p := s.prf a
  let s := s.updPrf a fun p =>
    { p with st := 1, pos := (p.evalAt s.now).1, spd := 0, plan := [], endAt := none, stoppers := [], restAt := t, after := 1, limited := false }
  let s := p.stoppers.foldl (fun s k => s.decide k rOK t []) s
  let s := if p.offs.isEmpty then s
    else
      let s := (s.driveSet a false).updPrf a fun p => { p with st := 0, offs := [] }
      p.offs.foldl (fun s k => s.decide k rOK t (le 1 0 ++ zeros 3)) s
  if p.after = 5 then s.prfStalled a 2 else s

/-- Begin to bring a cell to rest; `after`: the state it then enters. -/
def State.prfBrake (s : State) (a dec jerk after : Nat) : State :=
  let (p, v, ac) := (s.prf a).evalAt s.now
  let s := s.updPrf a fun c =>
    { c with
      st := 3, after := max c.after after, endAt := none, pos := p, stopAsk := none
      plan := planStop ((dec : Int) * profUnit) ((jerk : Int) * 1000 * profUnit) ((s.now : Int) * 65536) (p * 65536) v ac }
  if (s.prf a).plan.isEmpty then s.prfRest a s.now else s.placeFrame a

/-- Quick stop of a cell that cancels everything (R281, R418, R421). -/
def State.prfQuick (s : State) (a after : Nat) : State :=
  if (s.prf a).st = 0 ∨ (s.prf a).st = 5 then s
  else
    let moving := (s.prf a).moving
    let s := (s.cancelRun a 2).flushMoves a
    if moving then s.prfBrake a (s.rg P.PRF_QSTOP_DEC a) 0 after else s

/-! ## Moves (R274-R276, R278, R279) -/

/-- Limits of a move in plan units. -/
def planLimits (spd acc dec jerk : Nat) : PLim :=
  ⟨(spd : Int) * profUnit, (acc : Int) * profUnit, (dec : Int) * profUnit, (jerk : Int) * 1000 * profUnit⟩

/-- The first move of the queue begins at this boundary (R274), or supersedes a velocity move. -/
def State.prfBegin (s : State) (a : Nat) : State :=
  let c := s.prf a
  let free := c.st = 1 || (c.st = 2 && (match c.run with | some m => m.mode = 2 | none => true))
  match c.queue with
  | [] => s
  | m :: rest =>
    if !free ∨ m.due > s.now ∨ s.now % 2560 ≠ 0 ∨ !s.expRuns then s
    else
      let (p, v, ac) := c.evalAt s.now
      let m := if m.fromEnd then { m with target := p / 65536 + m.target, fromEnd := false } else m
      let m := { m with dec := c.decLater.getD (if m.mode = 3 then c.dec else m.dec), acc := if m.mode = 3 then c.acc else m.acc }
      let s := match c.run with | some old => s.prfRecord a 2 old (p / 65536) s.now | none => s
      let t0 : Int := (s.now : Int) * 65536
      let l := planLimits (if m.mode = 3 then s.rg P.PRF_HOME_SPD a else m.spd) m.acc m.dec m.jerk
      let dir : Int := if m.mode = 3 then (if s.rg P.PRF_HOME_DIR a = 1 then 1 else -1) else if m.target ≥ 0 then 1 else -1
      let plan := if m.mode ≤ 1 then planMove l t0 (p * 65536) v ac (m.target * profUnit) else planRun l t0 (p * 65536) v ac dir
      let s := s.updPrf a fun c =>
        { c with
          st := if m.mode = 3 then 4 else 2
          home := if m.mode = 3 then 1 else 0
          homeTag := m.tag, homeP := 0
          queue := rest, run := some m, plan := plan, pos := p
          endAt := if m.mode ≤ 1 then some m.target else none
          acc := m.acc, dec := m.dec, ord := m.ord, limited := false }
      let s := ((s.updStp a fun q => { q with holding := false }).putCoils a).placeFrame a
      if m.mode = 3 then s else s.prfRecord a 1 m (p / 65536) s.now

/-- A position move, or a homing's last move, has reached its target (R274, R279). A homing sets its position at a tick. -/
def State.prfFinish (s : State) (a : Nat) : State :=
  let c := s.prf a
  match c.run, c.endAt with
  | some m, some e =>
    if !c.moving ∨ planEnd c.plan 0 > (s.now : Int) * 65536 ∨ (m.mode = 3 ∧ s.now ≠ s.tick) then s
    else
      let t := if c.plan.isEmpty then s.now else c.restTime
      if m.mode = 3 then
        let v := s.rg48 P.PRF_HOME_VAL a
        let s := s.updPrf a fun c => { c with c0 := c.c0 + (v - e), lastTarget := some v, run := none, home := 0 }
        let s := s.homeRecord a 0
        (s.prfRest a t).setPosition a v
      else
        let s := s.updPrf a fun c => { c with run := none, pos := e * 65536, plan := [] }
        (s.prfRecord a 2 m e t).prfRest a t
  | _, _ => s

/-- Whether a limit switch toward a direction is active (R278): the switch. -/
def State.limitOn (s : State) (a : Nat) (dir : Int) : Option Nat :=
  if dir = 0 then none
  else (List.range 12).find? fun i =>
    (s.sw i).level && s.rg P.SW_CELL i = a && s.rg P.SW_ROLE i = (if dir > 0 then 2 else 3)

/-- A limit stops a cell that moves toward it, once; one in STOPPING as well. -/
def State.prfLimit (s : State) (a : Nat) : State :=
  let c := s.prf a
  if !c.moving ∨ c.limited then s
  else
    let p0 := c.evalAt s.now
    let p1 := (c.evalAt (s.now + 2560)).1
    let dir : Int := if p0.2.1 ≠ 0 then p0.2.1.sign else (p1 - p0.1).sign
    match s.limitOn a dir with
    | none => s
    | some i =>
      let s := s.record (s.prfSrc a) 0x2006
        (le 1 a ++ le 1 i ++ le 1 (if dir > 0 then 1 else 0) ++ zeros 1 ++ le 8 (ofSigned 64 (s.rg48 P.SW_LATCH_POS i)) ++
          le 8 (s.rg2 P.SW_LATCH_TS i).toNat ++ zeros 4)
      ((s.cancelRun a 1).updPrf a fun c => { c with limited := true }).prfBrake a (s.rg P.PRF_QSTOP_DEC a) 0 1

/-- The home edge, the index after it, and the way to P + HOME_OFS (R279). -/
def State.prfHoming (s : State) (a : Nat) : State :=
  let c := s.prf a
  let i := s.rg P.PRF_HOME_SW a
  let edge := (s.sw i).homeEdge && s.rg P.SW_ROLE i = 1 && s.rg P.SW_CELL i = a
  let brake (s : State) : State :=
    let (p, v, ac) := (s.prf a).evalAt s.now
    s.updPrf a fun c =>
      { c with home := 3, pos := p,
               plan := planStop ((c.dec : Int) * profUnit) 0 ((s.now : Int) * 65536) (p * 65536) v ac }
  if c.st ≠ 4 then s
  else if c.home = 1 then
    if !edge then s
    else
      let s := s.updPrf a fun c => { c with homeP := s.rg48 P.SW_LATCH_POS i }
      if s.rg P.PRF_HOME_IDX a = 1 then
        let n := s.rg P.PRF_MAP_PORT a
        let s := if s.rg P.FBK_IDX_MODE n = 2 then s.updPort n fun p => { p with armed := true } else s
        s.updPrf a fun c => { c with home := 2 }
      else brake s
  else if c.home = 5 then brake s
  else if c.home = 3 ∧ planEnd c.plan 0 ≤ (s.now : Int) * 65536 then
    let p := (c.evalAt s.now).1
    let e := c.homeP + s.rgI P.PRF_HOME_OFS a
    let l := planLimits (s.rg P.PRF_HOME_SPD a) c.acc c.dec 0
    s.updPrf a fun c =>
      { c with home := 4, pos := p, endAt := some e, plan := planMove l ((s.now : Int) * 65536) (p * 65536) 0 0 (e * profUnit) }
  else s

/-- What latch 2 of a port has captured (R267) goes to the homings that wait for it: P through the mapping of R280; the cell then
brakes. -/
def State.prfIndex (s : State) (n : Nat) : State :=
  if !(s.port n).idxHit then s
  else
    let s := s.updPort n fun p => { p with idxHit := false }
    forEach (List.range 8) (fun a s =>
      if (s.prf a).home = 2 ∧ s.rg P.PRF_MAP_PORT a = n then
        let d := wrap48 ((s.port n).idxRaw - (s.prf a).r0)
        s.updPrf a fun c =>
          { c with home := 5, homeP := c.c0 + roundDiv (d * s.rgI P.PRF_MAP_NUM a) (s.rg P.PRF_MAP_DEN a) }
      else s) s

/-- A PRF_CHANGE takes effect at its boundary (R275, R276). -/
def State.prfApply (s : State) (a : Nat) (g : PrfChange) : State :=
  let c := s.prf a
  match c.run with
  | none => s.decideNow g.k rBADSTATE
  | some m =>
    if c.st ≠ 2 then s.decideNow g.k rBADSTATE
    else
      let (p, v, ac) := c.evalAt s.now
      let left := (m.target * profUnit - p * 65536).natAbs
      let fits := match g.dec with
        | none => true
        | some d => m.mode = 2 || v * v ≤ 2 * ((d : Int) * profUnit) * left
      let decNew := match g.dec with | some d => if fits then d else c.dec | none => c.dec
      let m' := { m with spd := g.spd.getD m.spd, acc := g.acc.getD m.acc, dec := decNew }
      let here : Int := (s.now : Int) * 65536
      let braking := m.mode ≤ 1 && v * ac < 0 && !(c.plan.any fun q => q.t0 + q.dur > here && q.a0 = 0 && q.j = 0)
      let l := planLimits m'.spd m'.acc decNew m.jerk
      let l := if braking && v.natAbs < l.v then { l with v := v.natAbs } else l
      let keep := braking && (g.dec.isNone || !fits)
      let plan := if keep then c.plan
        else if m.mode ≤ 1 then planMove l here (p * 65536) v ac (m.target * profUnit)
        else planRun l here (p * 65536) v ac (if m.target ≥ 0 then 1 else -1)
      let s := s.updPrf a fun c =>
        { c with run := some m', plan := plan, acc := m'.acc, dec := decNew, decLater := if fits then c.decLater else g.dec }
      let s := if fits then s
        else s.record (s.prfSrc a) 0x2004
          (le 1 a ++ zeros 3 ++ le 4 (g.dec.getD 0) ++ le 4 c.dec ++ le 8 (left / 2 ^ 32) ++ zeros 4)
      let flags := b2n g.spd.isSome + 2 * b2n g.acc.isSome + 4 * b2n (g.dec.isSome && fits) + 8 * b2n (!fits)
      s.decide g.k (if fits then rOK else rPARTIAL) s.now (le 1 flags ++ zeros 3)

/-! ## Stall detection (R280) -/

/-- DEV of a tick, from the position page and the commanded position of the tick before. -/
def State.prfDeviation (s : State) (a : Nat) : State :=
  let n := s.rg P.PRF_MAP_PORT a
  let c := s.prf a
  let e := s.mot.page.getD n pageReset
  if n > 7 ∨ !e.ok then s
  else
    let den := s.rg P.PRF_MAP_DEN a
    let num := (c.pos / 65536 - c.c0) * (den : Int) - wrap48 (e.raw - c.r0) * s.rgI P.PRF_MAP_NUM a
    let dev := clampInt (-(2 ^ 31)) (2 ^ 31 - 1) (roundDiv num den)
    let out := num.natAbs > s.rg P.PRF_DEV_WIN a * den
    (s.setRgI P.PRF_DEV a dev).updPrf a fun c => { c with devRun := if out then c.devRun + 1 else 0 }

/-- The axis has stalled when the deviation has lasted DEV_N valid ticks. -/
def State.prfStallCheck (s : State) (a : Nat) : State :=
  let c := s.prf a
  if s.rg P.PRF_MAP_PORT a > 7 ∨ c.st = 0 ∨ c.st = 5 ∨ c.devRun < s.rg P.PRF_DEV_N a then s else s.prfStalled a 1

/-! ## Switch inputs (R277) -/

/-- The level of a switch ball under its polarity, from entry stamp t: a change is latched, and accepted when it has survived the
debounce. -/
def State.switchLevel (s : State) (i : Nat) (t : TS) : State :=
  let active := (s.sw i).ball != (s.rg P.SW_POL i = 1)
  let a := s.rg P.SW_CELL i
  let n := s.rg P.PRF_MAP_PORT a
  s.updSw i fun w =>
    if active = w.level then { w with pend := none }
    else { w with pend := some (t, active, s.prfPosAt a t, if n ≤ 7 then (s.port n).raw else 0) }

/-- An edge at a switch ball, at its entry stamp. -/
def State.switchEdge (s : State) (i : Nat) (high : Bool) (t : TS) : State :=
  ((s.latchSource (18 + i) high t).updSw i fun w => { w with ball := high }).switchLevel i t

/-- Accept the edge of a switch whose debounce is over. -/
def State.switchAccept (s : State) (i : Nat) : State :=
  match (s.sw i).pend with
  | none => s
  | some (t, active, pos, enc) =>
    if s.now < t + s.rg P.SW_FILT i * 1000 ∨ !s.expRuns then s
    else
      let s := s.updSw i fun w => { w with level := active, pend := none, homeEdge := w.homeEdge || active }
      let s := s.setRg P.SW_LEVEL i (b2n active)
      let s := if active then
          let p := ofSigned 48 pos
          let e := ofSigned 48 enc
          (((s.setRg P.SW_LATCH_POS i (p % 2 ^ 32)).setRg (P.SW_LATCH_POS + 1) i (p / 2 ^ 32)).setRg P.SW_LATCH_ENC i (e % 2 ^ 32)).setRg
            (P.SW_LATCH_ENC + 1) i (e / 2 ^ 32) |>.setRg2 P.SW_LATCH_TS i (t : Nat)
        else s
      s.docLevel (149 + i) active

/-! ## Output groups (R268, R271) -/

/-- The source of an emulation: RAW from the position page, or a commanded position. -/
def State.outSource (s : State) (n : Nat) : Int :=
  let k := s.rg P.OUT_SRC n
  if k < 8 then (s.mot.page.getD k pageReset).raw else (s.prf (k - 8)).pos / 65536

/-- Levels of an output group at a count. -/
def quadLevels (c : Int) : Bool × Bool := match c % 4 with
  | 0 => (false, false)
  | 1 => (true, false)
  | 2 => (true, true)
  | _ => (false, true)

/-- Emit owed edges within a frame: spacing, last edge, runs still owed. -/
def edgeGo (gap : Nat) (till : TS) : Nat → List Int → TS → List (TS × Int) → List Int × TS × List (TS × Int)
  | 0, runs, at_, out => (runs, at_, out)
  | _, [], at_, out => ([], at_, out)
  | fuel + 1, r :: rest, at_, out =>
    if r = 0 then edgeGo gap till fuel rest at_ out
    else if at_ ≥ till then (r :: rest, at_, out)
    else edgeGo gap till fuel ((r - r.sign) :: rest) (at_ + gap) (out ++ [(at_, r.sign)])

/-- Put out the levels of an emulated group at a count. -/
def State.emuOut (s : State) (n : Nat) (c : Int) (t : TS) : State :=
  let (a, b) := quadLevels c
  s.put (.encoderOut n t a b (c % (s.rg P.OUT_EMU_RES n : Int) = (s.rg P.OUT_EMU_IDX n : Int)))

/-- An output group up to now. -/
def State.outAdvance (s : State) (n : Nat) : State :=
  let g := s.mot.outs.getD n outReset
  let due := g.placed.takeWhile fun e => e.1 ≤ s.now
  let s := if s.drives then
      (due.foldl (fun (acc : State × Int) e => (acc.1.emuOut n (acc.2 + e.2) e.1, acc.2 + e.2)) (s, g.emitted)).1
    else s
  s.updOut n fun g => { g with emitted := g.emitted + (due.map (·.2)).sum, placed := g.placed.drop due.length }

/-- An output group at a tick: the change of the last frame is spread over this one; in the gap of a takeover it is owed. -/
def State.outTick (s : State) (n : Nat) : State :=
  if s.rg P.OUT_MODE n ≠ 1 then s
  else
    let g := s.mot.outs.getD n outReset
    let want := wrap48 (s.outSource n - g.s0) * (s.rg P.OUT_EMU_RES n : Int) / (s.rg P.OUT_SRC_RES n : Int)
    let owed := g.owed ++ [want - g.want]
    let total := (owed.map Int.natAbs).sum
    let tmin := s.rg P.OUT_EMU_TMIN n
    let gap := max tmin (2560 / max total 1)
    let start := max s.now (if g.lastEdge = 0 then 0 else g.lastEdge + tmin)
    let (owed, _, edges) := if s.inGap then (owed, 0, []) else edgeGo gap (s.now + 2560) (total + owed.length + 1) owed start []
    let last := match edges.getLast? with | some e => e.1 | none => g.lastEdge
    s.updOut n fun g => { g with want := want, owed := owed.filter (· ≠ 0), lastEdge := last, placed := g.placed ++ edges }

/-- The levels of an output group as it drives them, from t on (R268). -/
def State.outLevels (s : State) (n : Nat) (t : TS) : State :=
  if !s.drives then s
  else match s.rg P.OUT_MODE n with
  | 1 => s.emuOut n (s.mot.outs.getD n outReset).emitted t
  | 2 =>
    let l := (s.port n).ins.map (·.1)
    s.put (.encoderOut n t (l.getD 0 false) (l.getD 1 false) (l.getD 2 false))
  | _ => s

/-- Pass-through: the levels at the port's balls appear at the group, clocked or not (R268). -/
def State.passThrough (s : State) (n : Nat) (t : TS) : State := if s.rg P.OUT_MODE n = 2 then s.outLevels n t else s

/-- The effect of a write to MODE of an output group. -/
def State.outModeWrite (s : State) (n v : Nat) : State :=
  let s := s.setRg P.OUT_MODE n v
  let s := if v = 1 then s.updOut n fun _ => { outReset with s0 := s.outSource n } else s.updOut n fun _ => outReset
  s.outLevels n s.now

/-- A takeover begins: what was placed behind it falls into the gap (R271). -/
def State.gapBegins (s : State) : State :=
  if s.twin.own then s
  else s.updMot fun m => { m with outs := m.outs.map fun g => { g with owed := g.placed.map (·.2) ++ g.owed, placed := [] } }

/-- The motion region's balls as a module drives them that takes TWIN_OWN (R270, R271, R286). -/
def State.motDrive (s : State) : State :=
  let s := forEach (List.range 6) (fun a s => if (s.stp a).on then s.putCoils a else s) s
  let s := forEach [0, 1] (fun b s => s.putEnable b) s
  forEach (List.range 8) (fun n s => s.outLevels n s.now) s

/-! ## The input filter (R253) -/

/-- The accepted levels of A, B, Z, U, V, W and TRIG. -/
def FbkPort.accepted (p : FbkPort) : List Bool := [p.a, p.b, p.z, bit p.hall 2, bit p.hall 1, bit p.hall 0, p.trg]

/-- The changes whose entry sample was that of stamp t are accepted: A and B first, then the index (R259). -/
def State.fbkAccept (s : State) (n : Nat) (t : TS) : State :=
  let p := s.port n
  let old := p.accepted
  let l := (p.ins.zip old).map fun (x, q) => if x.2 = t then x.1 else q
  let g (i : Nat) : Bool := l.getD i false
  let s := if g 0 != p.a || g 1 != p.b then s.fbkEdge n (g 0) (g 1) t else s
  let s := if g 2 != p.z then (s.fbkIndex n (g 2) t).prfIndex n else s
  let hall := 4 * b2n (g 3) + 2 * b2n (g 4) + b2n (g 5)
  let s := if hall ≠ p.hall then s.fbkHall n hall t else s
  if g 6 != p.trg then (s.updPort n fun q => { q with trg := g 6 }).latchOn n 1 (g 6) t else s

/-- The changes that have been stable for FILT x 4 ns are accepted, in the order in which they came. With FILT 0 a change is accepted
once its sample is over: what falls in one sample is one change (R255, R259). -/
def State.fbkSettle (n : Nat) : Nat → State → State
  | 0, s => s
  | k + 1, s =>
    let p := s.port n
    let wait := max 1 (s.rg P.FBK_FILT n * 4)
    let due := ((p.ins.zip p.accepted).filter fun (x, q) => x.1 != q && x.2 + wait ≤ s.now).map (·.1.2)
    match due with
    | [] => s
    | t :: rest => State.fbkSettle n k (s.fbkAccept n (rest.foldl min t))

/-- New levels at balls of a port, by their place in `accepted`, at an entry stamp. -/
def State.fbkInput (s : State) (n : Nat) (levels : List (Nat × Bool)) (t : TS) : State :=
  let s := s.updPort n fun p =>
    { p with ins := p.ins.mapIdx fun i x => match levels.find? (·.1 = i) with
      | some (_, v) => if v = x.1 then x else (v, t)
      | none => x }
  if levels.any (·.1 < 3) then s.passThrough n t else s

/-- A sample of sin and cos; it may complete the capture of an index (R267, R279). -/
def State.sampleInput (s : State) (n : Nat) (sn cs : Int) (t : TS) : State := (s.fbkSample n sn cs t).prfIndex n

/-- What the motion region has done by now on its own: inputs that their filters have let pass, crossings, pulses and edges that have
come due. -/
def State.motCatchUp (s : State) : State :=
  let s := forEach (List.range 8) (fun n s => (State.fbkSettle n 8 s).hallSamples n s.now) s
  let s := forEach (List.range 12) (fun i s => s.switchAccept i) s
  let s := forEach (List.range 6) (fun a s => s.stageAdvance a) s
  let s := forEach [0, 1] (fun b s => s.sdAdvance b) s
  forEach (List.range 8) (fun n s => s.outAdvance n) s

/-! ## The tick of the region -/

/-- After T_HOLD at rest, IHOLD replaces IRUN (R282). -/
def State.stpHold (s : State) (a : Nat) : State :=
  let c := s.prf a
  if a ≥ 6 ∨ !(s.stp a).on ∨ (s.stp a).holding ∨ c.moving ∨ s.now < c.restAt + s.rg P.STP_T_HOLD a * 1000000 then s
  else (s.updStp a fun q => { q with holding := true }).putCoils a

/-- A profile cell at a frame tick. -/
def State.prfTick (s : State) (a : Nat) : State :=
  let s := s.prfDeviation a
  -- the position of this tick
  let (p, v, _) := (s.prf a).evalAt s.now
  let s := s.updPrf a fun c => { c with pos := p, spd := roundDiv v (2 ^ 32) }
  let s := s.prfStallCheck a
  let n := s.rg P.PRF_MAP_PORT a
  let s := if (s.prf a).moving ∧ n ≤ 7 ∧ (s.port n).fault ∧ (s.prf a).after ≠ 5 then s.prfQuick a 5 else s
  let s := s.prfFinish a
  let s := if (s.prf a).st = 3 ∧ planEnd (s.prf a).plan 0 ≤ (s.now : Int) * 65536 then s.prfRest a (s.prf a).restTime else s
  let s := if (s.prf a).st = 5 ∧ planEnd (s.prf a).plan 0 ≤ (s.now : Int) * 65536 then
      s.updPrf a fun c => { c with plan := [], pos := (c.evalAt s.now).1, spd := 0 } else s
  let s := s.prfHoming a
  -- changes, then stops, whose boundary this is
  let due := (s.prf a).changes.filter fun g => g.due ≤ s.now
  let s := s.updPrf a fun c => { c with changes := c.changes.filter fun g => g.due > s.now }
  let s := due.foldl (fun s g => s.prfApply a g) s
  let s := match (s.prf a).stopAsk with
    | none => s
    | some (quick, t) =>
      if t > s.now then s
      else if !(s.prf a).moving then (s.updPrf a fun c => { c with stopAsk := none }).prfRest a (s.prf a).restAt
      else
        let jerk := match (s.prf a).run with | some m => m.jerk | none => 0
        let s := s.cancelRun a 2
        s.prfBrake a (if quick then s.rg P.PRF_QSTOP_DEC a else (s.prf a).dec) (if quick then 0 else jerk) 1
  let s := s.prfBegin a
  let s := s.prfLimit a
  -- the output of the frame that begins now
  ((s.stpHold a).chopTick a).placeFrame a

/-- The motion region at a frame tick. -/
def State.motTick (s : State) : State :=
  if !s.expRuns then s
  else
    let s := forEach (List.range 8) (fun n s => (s.fbkTick n).absTick n) s
    let s := forEach (List.range 8) (fun a s => s.prfTick a) s
    let s := forEach (List.range 12) (fun i s => s.updSw i fun w => { w with homeEdge := false }) s
    let s := forEach (List.range 8) (fun n s => s.outTick n) s
    s.pageTick

/-- Every move is at rest and every pulse has left the pins (R287). -/
def State.motAtRest (s : State) : Bool :=
  (s.mot.cells.all fun c => c.run.isNone && c.queue.isEmpty && c.plan.isEmpty) && (s.mot.sds.all fun x => x.owed.isEmpty) &&
  (List.range 6).all fun a => (s.stageAhead a).isEmpty

/-! ## Commands (R289) -/

/-- Checks that PRF_MOVE, PRF_HOME and PRF_SET_POS share. -/
def State.prfClosed (s : State) (a : Nat) : Bool := (s.prf a).st = 0 || (s.prf a).st = 5

/-- Whether the queue of the cell that a motion command names is full: the command waits (R274). -/
def State.prfFull (s : State) (a : Nat) : Bool := (s.prf a).queue.length ≥ 16

/-- Where the next move of a cell begins: at the target of the last one queued or running, else where the cell comes to rest (R278). -/
def PrfCell.base (x : PrfCell) : Int :=
  match (x.run.toList ++ x.queue).getLast? with
  | some m => if m.mode ≤ 1 then m.target else x.lastTarget.getD (x.pos / 65536)
  | none => (if x.plan.isEmpty then x.pos else planRest x.plan (x.pos * 65536) / 65536) / 65536

def State.bodyPrfMove (c : Ctx) (s : State) : State :=
  let p := c.payload
  let a := u8 p 0
  let mode := u8 p 1
  let target := toSigned 48 (u64 p 4)
  let spd := u32 p 12
  let acc := u32 p 16
  let dec := u32 p 20
  let x := s.prf a
  let dir : Int := if mode = 0 then (target - x.base).sign else target.sign
  s.unless c (firstBad
      [(a > 7 || mode > 2 || spd = 0 || spd > 5120000 || acc = 0 || dec = 0 || (mode = 2 && target = 0), rBADPARAM),
       (s.prfClosed a, rBADSTATE), ((s.limitOn a dir).isSome, rBADSTATE)])
    fun s =>
      let m : Move := ⟨mode, if mode = 1 then (match x.lastTarget with | some b => b + target | none => target) else target,
        mode = 1 && x.lastTarget.isNone, spd, acc, dec, u32 p 24, u32 p 28, s.nextFrame, c.seq, c.ord⟩
      let now := x.queue.isEmpty && (x.st = 1 || (x.st = 2 && (match x.run with | some r => r.mode = 2 | none => false)))
      let s := s.updPrf a fun y =>
        { y with queue := y.queue ++ [m], lastTarget := if mode = 2 ∨ m.fromEnd then none else some m.target }
      if now then s.decide c.k rOK s.nextFrame [] else s.queued c

def State.bodyPrfChange (c : Ctx) (s : State) : State :=
  let p := c.payload
  let a := u8 p 0
  let get (off : Nat) : Option Nat := if u32 p off = 2 ^ 32 - 1 then none else some (u32 p off)
  let spd := get 4
  let acc := get 8
  let dec := get 12
  let bad := a > 7 || spd = some 0 || (match spd with | some v => v > 5120000 | none => false) || acc = some 0 || dec = some 0
  let x := s.prf a
  let sameTarget := u64 p 16 = 2 ^ 64 - 1 || (match x.run with | some m => toSigned 48 (u64 p 16) = m.target | none => false)
  s.unless c (firstBad [(bad, rBADPARAM), (x.st ≠ 2 || x.run.isNone || !sameTarget, rBADSTATE)])
    fun s => s.updPrf a fun y => { y with changes := y.changes ++ [⟨c.k, s.boundary, spd, acc, dec⟩] }

def State.bodyPrfStop (c : Ctx) (s : State) : State :=
  let p := c.payload
  let a := u8 p 0
  let quick := u8 p 1 = 1
  s.unless c (firstBad [(a > 7 || u8 p 1 > 1, rBADPARAM)]) fun s =>
    let s := if bit (u8 p 2) 0 then s.flushMoves a else s
    if (s.prf a).moving then
      s.updPrf a fun y =>
        { y with
          stoppers := y.stoppers ++ [c.k]
          stopAsk := if y.st = 3 ∧ !quick then y.stopAsk
            else some (match y.stopAsk with | some (q, t) => (q || quick, t) | none => (quick, s.nextFrame)) }
    else s.ok c

def State.bodyPrfHome (c : Ctx) (s : State) : State :=
  let p := c.payload
  let a := u8 p 0
  let dir : Int := if s.rg P.PRF_HOME_DIR a = 1 then 1 else -1
  s.unless c (firstBad [(a > 7, rBADPARAM), (s.prfClosed a, rBADSTATE), ((s.limitOn a dir).isSome, rBADSTATE)]) fun s =>
    let m : Move := ⟨3, 0, false, 0, 0, 0, 0, u32 p 4, s.nextFrame, c.seq, c.ord⟩
    (s.updPrf a fun y => { y with queue := y.queue ++ [m], lastTarget := none }).queued c

def State.bodyPrfSetPos (c : Ctx) (s : State) : State :=
  let p := c.payload
  let a := u8 p 0
  s.unless c (firstBad [(a > 7, rBADPARAM), ((s.prf a).st ≠ 1 || !(s.prf a).queue.isEmpty, rBADSTATE)]) fun s =>
    let v := toSigned 48 (u64 p 4)
    let n := s.rg P.PRF_MAP_PORT a
    let s := (s.setPosition a v).updPrf a fun y => { y with c0 := v, r0 := (s.port n).raw, lastTarget := some v, devRun := 0 }
    let s := s.updPort n fun q => { q with uncertain := false }
    s.ok c

def State.bodyDrvEnable (c : Ctx) (s : State) : State :=
  let a := u8 c.payload 0
  let on := u8 c.payload 1
  let st := (s.prf a).st
  s.unless c (firstBad [(a > 7 || on > 1, rBADPARAM), (on = 1 && st = 5, rBADSTATE)]) fun s =>
    if on = 1 then
      let s := if st ≠ 0 then s
        else
          let n := s.rg P.PRF_MAP_PORT a
          let s := (s.driveSet a true).updPrf a fun y =>
            { y with st := 1, c0 := y.pos / 65536, r0 := (s.port n).raw, devRun := 0, restAt := s.now }
          if a < 6 ∧ s.mot.vmotLow then s.stageFault a true
          else if a ≥ 6 ∧ s.sdFlt (a - 6) ∧ s.rg P.SD_FLT_ACT (a - 6) = 0 then s.sdFault (a - 6)
          else s
      s.ok c (le 1 (s.prf a).st ++ zeros 3)
    else if (s.prf a).moving then
      let s := s.flushMoves a
      s.updPrf a fun y =>
        { y with offs := y.offs ++ [c.k], stopAsk := some (true, match y.stopAsk with | some (_, t) => t | none => s.nextFrame) }
    else
      let s := (s.flushMoves a).driveSet a false
      let s := s.updPrf a fun y => { y with st := if y.st = 5 then 5 else 0 }
      s.ok c (le 1 (s.prf a).st ++ zeros 3)

def State.bodyFbkArmIndex (c : Ctx) (s : State) : State :=
  let n := u8 c.payload 0
  s.unless c (firstBad [(n > 7, rBADPARAM), (s.rg P.FBK_IDX_MODE n ≠ 2, rBADSTATE)]) fun s =>
    (s.updPort n fun p => { p with armed := true }).ok c

def State.bodyFbkLatchRead (c : Ctx) (s : State) : State :=
  let n := u8 c.payload 0
  let k := u8 c.payload 1
  s.unless c (firstBad [(n > 7 || k > 2, rBADPARAM)]) fun s =>
    let l := (s.port n).latches.getD k flatchReset
    let s := s.updPort n fun p => { p with latches := p.latches.modify k fun l => { l with captured := false, past := false } }
    s.ok c (le 8 (ofSigned 64 l.pos) ++ le 8 l.posTs ++ le 8 l.trigTs ++ le 4 l.speed ++
      le 4 (b2n l.valid + 2 * b2n l.captured + 4 * b2n l.past + 8 * b2n l.uncertain))

end Sys2Proof.Machine
end

