-- ==== Sys2Proof/Machine/Ptp.lean ====
section
/-!
DEFINITION. The PTP engine (R380-R383). The manual gives what it supports, where it stamps, and what it reports; the messages,
the data sets and the state decisions are those of IEEE 1588-2019 (log entry 40).
-/
namespace Sys2Proof.Machine

open Sys2Proof

def State.ptp (s : State) (p : Nat) : PtpPort := s.time.ptp.getD p ptpReset
def State.updPtp (s : State) (p : Nat) (f : PtpPort → PtpPort) : State := s.updTime fun t => { t with ptp := t.ptp.modify p f }

/-- A port takes part: ENABLE set, named by PTP_MODE, link up, clocks running (R381). -/
def State.ptpOn (s : State) (p : Nat) : Bool :=
  s.rg P.PTP_ENABLE p = 1 && s.host.ethUp.getD p false && (2 ≤ s.power.state && s.power.state ≤ 4) &&
  (match s.rg P.TIME_PTP_MODE 0 with
   | 1 => s.rg P.TIME_OC_PORT 0 = p
   | 2 => p < 2
   | _ => false)

/-- The module's clock identity, and a port's identity as ten bytes' number. -/
def State.ptpClock (_ : State) : Nat := Config.dieSerial % 2 ^ 64
def State.ptpIdent (s : State) (p : Nat) : Nat := s.ptpClock * 65536 + (p + 1)

/-- The interval of an 8-bit signed base-2 logarithm, in ns. -/
def logInterval (v : Nat) : Nat :=
  let i := toSigned 8 v
  if i ≥ 0 then 1000000000 * 2 ^ (min i.toNat 16) else 1000000000 / 2 ^ (min (-i).toNat 16)

/-! ## Data sets -/

/-- First difference of two lists of numbers: the lower list is the better one. -/
def listLess : List Nat → List Nat → Option Bool
  | a :: as, b :: bs => if a < b then some true else if b < a then some false else listLess as bs
  | _, _ => none

/-- A data set is better than another: the same grandmaster is judged by its distance. -/
def Foreign.better (a b : Foreign) : Bool :=
  if a.rank.getLast? = b.rank.getLast? then a.steps < b.steps || (a.steps = b.steps && a.sender < b.sender)
  else (listLess a.rank b.rank).getD false

/-- The module's own data set. -/
def State.ptpOwn (s : State) : Foreign :=
  ⟨s.ptpIdent 0, [s.rg P.TIME_PRIORITY1 0, s.rg P.TIME_CLOCK_CLASS 0, 0xFE, 0xFFFF, s.rg P.TIME_PRIORITY2 0, s.ptpClock], 0, 0, 2⟩

/-- The best qualified foreign master of a port: heard twice, and within four announce intervals. -/
def State.ptpBest (s : State) (p : Nat) : Option Foreign :=
  let win := 4 * logInterval (s.rg P.PTP_LOG_ANNOUNCE p)
  ((s.ptp p).foreign.filter fun f => f.heard ≥ 2 && s.now ≤ f.heardAt + win).foldl
    (fun (a : Option Foreign) f => match a with | none => some f | some g => if f.better g then some f else some g) none

/-- The best foreign master of all ports, with its port. -/
def State.ptpEbest (s : State) : Option (Nat × Foreign) :=
  (List.range 3).foldl (fun (a : Option (Nat × Foreign)) p =>
    if !s.ptpOn p then a
    else match s.ptpBest p, a with
    | none, _ => a
    | some f, none => some (p, f)
    | some f, some (q, g) => if f.better g then some (p, f) else some (q, g)) none

/-- The data set in force: the parent's where a port follows one, else the module's own. -/
def State.ptpParent (s : State) : Foreign :=
  let slave := (List.range 3).find? fun p => (s.ptp p).state = 9 || (s.ptp p).state = 8
  match slave with
  | some p => (match s.ptpBest p with | some f => { f with steps := f.steps + 1 } | none => s.ptpOwn)
  | none => s.ptpOwn

/-- A port changes state, with its record (R381, R392). -/
def State.ptpTo (s : State) (p st : Nat) : State :=
  let old := (s.ptp p).state
  if old = st then s
  else
    let s := s.updPtp p fun q =>
      { q with state := st, since := s.now, sync := none, req := if st = 8 ∨ st = 9 then q.req else none,
               last := if st = 9 then q.last else none, measured := q.measured && (st = 9) }
    let s := s.setRg P.PTP_PORT_STATE p st
    let g := s.ptpParent
    s.record s.ptpSrc 0x5004
      (le 1 p ++ le 1 old ++ le 1 st ++ zeros 1 ++ be 8 (g.rank.getLastD 0) ++ le 2 g.steps ++ zeros 10)

/-- The state decision of a port that takes part. -/
def State.ptpDecide (s : State) (p : Nat) : State :=
  let old := (s.ptp p).state
  let own := s.ptpOwn
  let slaveOnly := s.rg P.TIME_SLAVE_ONLY 0 = 1
  let master (s : State) (wait : Bool) : State :=
    if slaveOnly then s.ptpTo p 4
    else if old = 6 then s
    else if wait then (if old = 5 then s else s.ptpTo p 5)
    else s.ptpTo p 6
  let follow (s : State) : State := if old = 9 ∨ old = 8 then s else s.ptpTo p 8
  match s.ptpEbest with
  | none => if old = 4 ∨ old = 5 ∨ old = 6 then s else master s false
  | some (q, e) =>
    if slaveOnly then (if q = p then follow s else s.ptpTo p 4)
    else if s.rg P.TIME_CLOCK_CLASS 0 < 128 then
      match s.ptpBest p with
      | some f => if own.better f then master s false else s.ptpTo p 7
      | none => master s false
    else if own.better e then master s false
    else if q = p then follow s
    else match s.ptpBest p with
      | some f => if f.rank.getLast? = e.rank.getLast? then s.ptpTo p 7 else master s true
      | none => master s true

/-- Ports come into the protocol and leave it as R381 gives. -/
def State.ptpRefresh (s : State) : State :=
  forEach [0, 1, 2] (fun p s =>
    if s.ptpOn p then (if (s.ptp p).state = 1 then s.ptpTo p 4 else s)
    else if (s.ptp p).state = 1 then s
    else (s.ptpTo p 1).updPtp p fun q => { q with foreign := [] }) s

/-! ## Messages -/

/-- Units of the correction field: 2^-16 ns. -/
def ptpUnit : Int := 65536

/-- delayAsymmetry in 2^-16 ns (R383). -/
def State.ptpAsym (s : State) (p : Nat) : Int := roundDiv (s.rgI P.PTP_ASYM p * ptpUnit) 1000

/-- Ingress and egress stamps moved to the balls (R382). -/
def State.ptpIn (s : State) (p : Nat) : Int :=
  (s.now : Int) - roundDiv (s.rg (P.PTP_ING_LAT + s.host.ethSpeed.getD p 0) p : Nat) 1000
def State.ptpOut (s : State) (p : Nat) : Int :=
  (s.now : Int) + roundDiv (s.rg (P.PTP_EGR_LAT + s.host.ethSpeed.getD p 0) p : Nat) 1000

/-- A timestamp of a message: 48 bits of seconds, 32 of ns. -/
def ptpStamp (m : List Byte) (off : Nat) : Int := ((unBe (field m off 6) * 1000000000 + unBe (field m (off + 6) 4) : Nat) : Int)
def ptpStampBytes (t : Int) : List Byte := be 6 (t.toNat / 1000000000) ++ be 4 (t.toNat % 1000000000)

/-- A header of 34 bytes: type, length, flags, correction, port, sequence, logMessageInterval. -/
def State.ptpHeader (s : State) (p type len flags : Nat) (corr : Int) (seq logInt : Nat) : List Byte :=
  be 1 type ++ be 1 0x12 ++ be 2 len ++ be 1 (s.rg P.TIME_DOMAIN 0) ++ zeros 1 ++ be 2 flags ++ be 8 (ofSigned 64 corr) ++ zeros 4 ++
  be 10 (s.ptpIdent p) ++ be 2 seq ++ be 1 (match type with | 0 => 0 | 1 => 1 | 8 => 2 | 9 => 3 | _ => 5) ++ be 1 logInt

/-- Bytes of a frame around a message: Ethernet, and IPv4 and UDP where the transport has them. -/
def State.ptpLen (s : State) (p : Nat) (m : List Byte) : Nat := m.length + (if s.rg P.PTP_TRANSPORT p = 0 then 42 else 14)

/-- A general message leaves, or gives way to a launch. -/
def State.ptpPlain (s : State) (p : Nat) (m : List Byte) : State := s.macPlain p (.ethernet p s.now m) (s.ptpLen p m)

/-- What the start of a message leaves to do, with its exact stamp (R382, R388). -/
def State.ptpStarted (s : State) (p : Nat) (e : Egress) : State :=
  match e with
  | .plain => s
  | .sync n log => s.ptpPlain p (s.ptpHeader p 8 44 0 0 n log ++ ptpStampBytes (s.ptpOut p))
  | .delay n => s.updPtp p fun q => { q with req := some (n, s.ptpOut p * ptpUnit), resp := none }
  | .resp n corr sender => s.ptpPlain p (s.ptpHeader p 10 54 0 corr n 0x7F ++ ptpStampBytes (s.ptpOut p) ++ be 10 sender)

/-- Send a message, or let it give way to a launch; a SHADOW's ports send nothing (R386). -/
def State.ptpSend (s : State) (p : Nat) (m : List Byte) (e : Egress) : State :=
  if s.twin.state = 3 then s
  else if s.macHeld p (s.ptpLen p m) then s.updTime fun t => { t with mac := t.mac ++ [⟨p, .ethernet p s.now m, s.ptpLen p m, e⟩] }
  else (s.put (.ethernet p s.now m)).ptpStarted p e

/-- The frames of a port that gave way start, in order, as far as no launch stands in their way. -/
def State.macDrain (p : Nat) : Nat → State → State
  | 0, s => s
  | n + 1, s =>
    match s.time.mac.find? (·.port = p) with
    | none => s
    | some f =>
      if s.macBusy p f.len then s
      else State.macDrain p n (((s.updTime fun t => { t with mac := t.mac.erase f }).macStart f).ptpStarted p f.egress)

/-- Frames that gave way to launches start; those of a port without a link are lost. -/
def State.macPump (s : State) : State :=
  let s := if s.time.mac.isEmpty then s
    else s.updTime fun t => { t with mac := t.mac.filter fun f => s.host.ethUp.getD f.port false }
  forEach [0, 1, 2] (fun p s => State.macDrain p s.time.mac.length s) s

/-- The next sequence number of a kind: 0 Announce, 1 Sync, 2 delay requests. -/
def State.ptpSeq (s : State) (p k : Nat) : Nat × State :=
  let n := (s.ptp p).seqs.getD k 0
  (n, s.updPtp p fun q => { q with seqs := q.seqs.set k ((n + 1) % 65536) })

def State.setDelay (s : State) (p : Nat) (d : Int) : State :=
  let s := s.updPtp p fun q => { q with delay := d, measured := true }
  let s := s.setRgI P.PTP_MEAN_DELAY p (sat32 (roundDiv d 65536))
  if (s.ptp p).state = 8 then s.ptpTo p 9 else s

/-- A Sync with its precise origin (all in 2^-16 ns): in SLAVE it gives the servo an offset (R375). -/
def State.ptpSync (s : State) (p : Nat) (t1 t2 : Int) (logInt : Nat) : State :=
  let s := s.updPtp p fun q => { q with last := some (t1, t2), sync := none }
  let q := s.ptp p
  if q.state = 9 then
    let theta := roundDiv (t2 - t1 - q.delay) 65536
    (s.bump P.PTP_RX_SYNC p).offer 1 theta (logInterval logInt)
  else if q.state = 8 ∧ q.measured then s.ptpTo p 9
  else s

/-- PTP_MESSAGE: a message received on a port, over UDP and IPv4 or over IEEE 802.3. -/
def State.ptpMessage (s : State) (p : Nat) (ip : Bool) (m : List Byte) : State :=
  let q := s.ptp p
  let wrong := m.length < 44 || unBe (field m 4 1) ≠ s.rg P.TIME_DOMAIN 0 || unBe (field m 1 1) % 16 ≠ 2 ||
    ip ≠ (s.rg P.PTP_TRANSPORT p = 0 : Bool) || m.length < unBe (field m 2 2)
  let sender := unBe (field m 20 10)
  if !s.ptpOn p ∨ wrong ∨ sender / 65536 = s.ptpClock then s
  else
    let type := unBe (field m 0 1) % 16
    let twoStep := bit (unBe (field m 6 2)) 9
    let corr := toSigned 64 (unBe (field m 8 8))
    let seq := unBe (field m 30 2)
    let logInt := unBe (field m 33 1)
    let rx : Int := s.ptpIn p * ptpUnit
    let fromParent : Bool := match s.ptpBest p with | some f => f.sender = sender | none => false
    let following : Bool := (q.state = 8 || q.state = 9) && fromParent
    let e2e : Bool := s.rg P.PTP_DELAY_MECH p = 0
    let ours : Bool := unBe (field m 44 10) = s.ptpIdent p
    match type with
    | 0 =>
      if !following then s
      else if twoStep then s.updPtp p fun q => { q with sync := some (seq, rx, corr + s.ptpAsym p) }
      else s.ptpSync p (ptpStamp m 34 * ptpUnit + corr + s.ptpAsym p) rx logInt
    | 8 =>
      match q.sync with
      | some (n, t2, c) => if following && n = seq then s.ptpSync p (ptpStamp m 34 * ptpUnit + corr + c) t2 logInt else s
      | none => s
    | 1 =>
      if q.state = 6 && e2e then
        let body := ptpStampBytes (s.ptpIn p) ++ be 10 sender
        s.ptpSend p (s.ptpHeader p 9 54 0 corr seq (s.rg P.PTP_LOG_DELAY_REQ p) ++ body) .plain
      else s
    | 9 =>
      match q.req, q.last with
      | some (n, t3), some (t1, t2) =>
        if following && e2e && n = seq && ours then
          -- t4 less its correction; the asymmetry counts in the other direction
          let t4 := ptpStamp m 34 * ptpUnit - corr
          (s.updPtp p fun q => { q with req := none }).setDelay p (((t2 - t1) + (t4 - t3)) / 2)
        else s
      | _, _ => s
    | 2 =>
      if e2e then s
      else
        s.ptpSend p (s.ptpHeader p 3 54 0x0200 0 seq 0x7F ++ ptpStampBytes (s.ptpIn p) ++ be 10 sender) (.resp seq corr sender)
    | 3 =>
      match q.req with
      | some (n, t1) =>
        if e2e || n ≠ seq || !ours then s
        else if twoStep then
          s.updPtp p fun q => { q with resp := some (ptpStamp m 34 * ptpUnit, rx, corr + s.ptpAsym p) }
        else (s.updPtp p fun q => { q with req := none }).setDelay p ((rx - t1 - corr - s.ptpAsym p) / 2)
      | none => s
    | 10 =>
      match q.req, q.resp with
      | some (n, t1), some (t2, t4, c) =>
        if e2e || n ≠ seq || !ours then s
        else
          let t3 := ptpStamp m 34 * ptpUnit
          (s.updPtp p fun q => { q with req := none, resp := none }).setDelay p (((t4 - t1) - (t3 - t2) - c - corr) / 2)
      | _, _ => s
    | 11 =>
      let steps := unBe (field m 61 2)
      if steps ≥ 255 ∨ m.length < 64 then s
      else
        let rank := [unBe (field m 47 1), unBe (field m 48 1), unBe (field m 49 1), unBe (field m 50 2), unBe (field m 52 1),
          unBe (field m 53 8)]
        let win := 4 * logInterval (s.rg P.PTP_LOG_ANNOUNCE p)
        let old := q.foreign.find? fun f => f.sender = sender
        let heard := match old with | some f => if s.now ≤ f.heardAt + win then min 2 (f.heard + 1) else 1 | none => 1
        let fs := (q.foreign.filter fun f => f.sender ≠ sender) ++ [⟨sender, rank, steps, s.now, heard⟩]
        let s := s.updPtp p fun q => { q with foreign := fs.drop (fs.length - 5) }
        let s := forEach [0, 1, 2] (fun r s => if s.ptpOn r then s.ptpDecide r else s) s
        match s.ptpBest p with
        | some f =>
          if f.sender = sender ∧ ((s.ptp p).state = 8 ∨ (s.ptp p).state = 9) then
            s.setRgI P.TIME_UTC_OFS 0 (toSigned 16 (unBe (field m 44 2)))
          else s
        | none => s
    | _ => s

/-- PTP_INTERVAL_TIMER: an interval or a receipt timer of a port expires. -/
def State.ptpTimer (s : State) (p : Nat) (timer : PtpTimer) : State :=
  let q := s.ptp p
  if !s.ptpOn p then s
  else
    match timer with
    | .receipt =>
      -- no Announce for three announce intervals
      let win := 3 * logInterval (s.rg P.PTP_LOG_ANNOUNCE p)
      let heard := (q.foreign.map (·.heardAt)).foldl max q.since
      if s.now < heard + win ∨ q.state = 6 ∨ q.state = 5 then s
      else
        let s := s.updPtp p fun q => { q with foreign := [] }
        if s.rg P.TIME_SLAVE_ONLY 0 = 1 then s.ptpTo p 4
        else if s.ptpEbest.isSome then s.ptpDecide p
        else s.ptpTo p 6
    | .qualify => if q.state = 5 then s.ptpTo p 6 else s
    | .sync =>
      if q.state ≠ 6 then s
      else
        let (n, s) := s.ptpSeq p 1
        let log := s.rg P.PTP_LOG_SYNC p
        s.ptpSend p (s.ptpHeader p 0 44 0x0200 0 n log ++ ptpStampBytes (s.now : Nat)) (.sync n log)
    | .announce =>
      if q.state ≠ 6 then s
      else
        let (n, s) := s.ptpSeq p 0
        let g := s.ptpParent
        let r := g.rank
        s.ptpSend p (s.ptpHeader p 11 64 0x0008 0 n (s.rg P.PTP_LOG_ANNOUNCE p) ++ ptpStampBytes (s.now : Nat) ++
          be 2 (s.rg P.TIME_UTC_OFS 0 % 65536) ++ zeros 1 ++ be 1 (r.getD 0 0) ++ be 1 (r.getD 1 0) ++ be 1 (r.getD 2 0) ++
          be 2 (r.getD 3 0) ++ be 1 (r.getD 4 0) ++ be 8 (r.getD 5 0) ++ be 2 g.steps ++ be 1 0xA0) .plain
    | .delay =>
      let e2e := s.rg P.PTP_DELAY_MECH p = 0
      if e2e ∧ q.state ≠ 8 ∧ q.state ≠ 9 then s
      else
        let (n, s) := s.ptpSeq p 2
        if e2e then s.ptpSend p (s.ptpHeader p 1 44 0 (-(s.ptpAsym p)) n 0x7F ++ zeros 10) (.delay n)
        else s.ptpSend p (s.ptpHeader p 2 54 0 (-(s.ptpAsym p)) n 0x7F ++ zeros 20) (.delay n)

end Sys2Proof.Machine
end

