-- ==== Sys2Proof/Machine/Store.lean ====
section
/-!
DEFINITION. The Accession Store: commands of group 0x02xx (R337-R344, R366), pinning, DMA, and the DRAM controller
(R346, R350-R360).
-/
namespace Sys2Proof.Machine

open Sys2Proof

/-! ## Checks (R342, R366) -/

/-- BAD_PARAM: the accession does not exist, or is FREEING; or the range reaches beyond it. -/
def State.storeParam (s : State) (acc off len : Nat) : Bool :=
  match s.acc? acc with
  | none => true
  | some a => a.state = 3 || off + len > a.size

/-- BAD_STATE of a write: the region has stopped (R421), or the accession is on loan, pinned, WRITING or INVALID. -/
def State.storeBusy (s : State) (acc : Nat) : Bool :=
  s.store.stopped || match s.acc? acc with
  | none => false
  | some a => a.loans > 0 || a.pinned || a.state = 1 || a.state = 2

/-- The host may not write pools 4 and 7 (R336, R342). -/
def poolClosed (acc : Nat) : Bool := accPool acc = 4 || accPool acc = 7

/-! ## Commands (R338, R341, R342, R366) -/

def State.bodyStoreAlloc (c : Ctx) (s : State) : State :=
  let pool := u8 c.payload 0
  let size := u32 c.payload 4
  s.unless c (firstBad
      [(pool > 7 || pool = 4 || pool = 7 || size = 0 || size > 2 ^ 30, rBADPARAM), (s.store.stopped, rBADSTATE),
       (s.noSpaceFor pool size, rNOSPACE)])
    fun s =>
      let (acc, s) := s.allocAcc pool size
      s.ok c (le 4 acc ++ le 4 (granulesOf size))

def State.bodyStoreFree (c : Ctx) (s : State) : State :=
  let acc := u32 c.payload 0
  match s.acc? acc with
  | none => s.reject c rBADPARAM
  | some a =>
    if accPool acc = 7 then s.reject c rBADPARAM
    else if a.state = 3 then s.decide c.k rDEFERRED s.now (le 4 a.loans)
    else if a.loans = 0 then (s.releaseAcc acc).ok c (le 4 0)
    else
      (s.updAcc acc fun a => { a with state := 3, freedAt := s.now, loansAtFree := a.loans }).decide c.k rDEFERRED s.now (le 4 a.loans)

def State.bodyStoreWrite (c : Ctx) (s : State) : State :=
  let p := c.payload
  let acc := u32 p 0
  let off := u32 p 4
  let data := p.drop 8
  s.unless c (firstBad [(s.storeParam acc off data.length || poolClosed acc, rBADPARAM), (s.storeBusy acc, rBADSTATE)])
    fun s => (s.storeData acc off data).ok c

def State.bodyStoreRead (c : Ctx) (s : State) : State :=
  let p := c.payload
  let acc := u32 p 0
  let off := u32 p 4
  let len := u32 p 8
  s.unless c (firstBad [(len = 0 || len > 16384 || s.storeParam acc off len, rBADPARAM)]) fun s =>
    match s.firstPoison acc off len with
    | some x => s.decide c.k rFAULT s.now (le 4 x)
    | none => (s.readLines acc off len).ok c (s.memBytes acc off len)

/-- The session of a DMA command is carried by PCIe. -/
def State.onPcie (s : State) (c : Ctx) : Bool := (s.session c.sess).ep = .pcie

def State.storeDma (inward : Bool) (c : Ctx) (s : State) : State :=
  let p := c.payload
  let acc := u32 p 0
  let off := u32 p 4
  let len := u32 p 8
  s.unless c (firstBad
      [(s.storeParam acc off len || (inward && poolClosed acc), rBADPARAM),
       ((inward && s.storeBusy acc) || (!c.twin && !s.onPcie c), rBADSTATE)])
    fun s => s.updStore fun st => { st with dma := st.dma ++ [⟨c.sess, c.stream, c.seq, acc, off, len, u64 p 16, inward⟩] }

def State.bodyStoreDmaIn (c : Ctx) (s : State) : State := s.storeDma true c
def State.bodyStoreDmaOut (c : Ctx) (s : State) : State := s.storeDma false c

/-- STORE_DMA_DONE: the oldest transfer ends. `moved`: the bytes the bus carried; `ok`: it did not fail; `data`: what an
inward transfer brought. -/
def State.dmaDone (s : State) (moved : Nat) (ok : Bool) (data : List Byte) : State :=
  match s.store.dma with
  | [] => s
  | j :: rest =>
    let s := s.updStore fun st => { st with dma := rest }
    let k : Ticket := ⟨j.sess, j.stream, j.seq⟩
    let n := if ok then j.len else min moved j.len
    if j.inward then
      -- the SHADOW gets what an inward transfer read (R406)
      let s := if s.forwards && j.sess = 0 then s.put (.twin 19 (le 1 j.stream ++ le 4 j.seq ++ data.take n)) else s
      let s := if (s.acc? j.acc).isSome then s.storeData j.acc j.off (data.take n) else s
      s.decide k (if ok then rOK else rFAULT) s.now (le 4 n)
    else
      -- a SHADOW has no host (R407)
      let out (m : Nat) : State :=
        let r := s.readLines j.acc j.off m
        if s.twin.state = 3 then r else r.put (.hostWrite j.addr (s.memBytes j.acc j.off m))
      match s.firstPoison j.acc j.off n with
      | some x =>
        let m := x - j.off
        (out m).decide k rFAULT s.now (le 4 m ++ le 4 x)
      | none => (out n).decide k (if ok then rOK else rFAULT) s.now (le 4 n)

def State.bodyStoreInfo (c : Ctx) (s : State) : State :=
  let acc := u32 c.payload 0
  match s.acc? acc with
  | none => s.reject c rBADPARAM
  | some a =>
    s.ok c (le 1 (accPool acc) ++ le 1 a.state ++ le 1 a.poisonCount ++ le 1 (b2n a.pinned) ++ le 4 a.size ++
      le 2 (min a.loans 65535) ++ zeros 2 ++ le 8 a.created)

/-! ## Pinning (R344) -/

/-- Free bytes of the pool 5 pin area. -/
def State.pinFree (s : State) : Nat := s.rg P.SF_PIN_P5 0 * 2 ^ 20 - s.rg P.SF_PIN_USED 0

def State.bodyStorePin (c : Ctx) (s : State) : State :=
  let acc := u32 c.payload 0
  let pin := u8 c.payload 4
  match s.acc? acc with
  | none => s.reject c rBADPARAM
  | some a =>
    if pin > 1 ∨ accPool acc ≠ 5 then s.reject c rBADPARAM
    else if pin = 0 then
      if !a.pinned then s.ok c (le 4 s.pinFree)
      else
        let s := s.setRg P.SF_PIN_USED 0 (s.rg P.SF_PIN_USED 0 - a.granules * 4096)
        let s := s.updStore fun st => { st with pinBad := st.pinBad.filter fun x => x.1 ≠ acc }
        let s := (s.updAcc acc fun a => { a with pinned := false }).returnLoan acc
        s.ok c (le 4 s.pinFree)
    else if a.pinned ∨ s.store.pins.any (fun j => j.acc = acc) then s.ok c (le 4 s.pinFree)
    else match s.loanCheck acc with
      | some r => s.reject c r
      | none =>
        if a.granules * 4096 > s.pinFree then s.reject c rNOSPACE
        else
          let s := (s.takeLoan acc).setRg P.SF_PIN_USED 0 (s.rg P.SF_PIN_USED 0 + a.granules * 4096)
          s.updStore fun st => { st with pins := st.pins ++ [⟨c.sess, c.stream, c.seq, acc, 0, a.size, 0, true⟩] }

/-- STORE_PIN_DONE: the oldest copy is complete. -/
def State.pinDone (s : State) : State :=
  match s.store.pins with
  | [] => s
  | j :: rest =>
    let s := s.updStore fun st => { st with pins := rest }
    (s.updAcc j.acc fun a => { a with pinned := true }).decide ⟨j.sess, j.stream, j.seq⟩ rOK s.now (le 4 s.pinFree)

/-! ## DRAM (R350-R360) -/

/-- The refresh interval of a channel, in ns: by its DRAM temperature channel (R352). -/
def State.refi (s : State) (ch : Nat) : Nat := if fLt 0x42AA0000 (s.rg P.HK_VALUE (12 + ch)) then 3900 else 7800

def State.rank (s : State) (r : Nat) : Rank := s.store.ranks.getD r rankReset
def State.updRank (s : State) (r : Nat) (f : Rank → Rank) : State :=
  s.updStore fun st => { st with ranks := st.ranks.modify r f }
def State.rankSrc (s : State) (r : Nat) : Nat := s.srcPath 4 (r / 2) (r % 2)

/-- Poison a line (R356): its accession's count, saturating; a line poisoned already is left alone. -/
def State.poisonLine (s : State) (acc line : Nat) : State :=
  s.updAcc acc fun a =>
    if a.poison.contains line then a
    else { a with poison := a.poison ++ [line], poisonCount := min 255 (a.poisonCount + 1) }

/-- A line of a beam's line buffer holds an uncorrectable error: 64 bytes of a row in it have not arrived (R346, R356). Which row and where
is open, as the buffer's layout is (log entry 115). -/
def State.bufferLost (s : State) (n : Nat) : State :=
  match (s.beam n).ras.bufRows with
  | [] => s
  | rows =>
    let (v, s) := s.draw
    s.updBeam n fun b => { b with ras := { b.ras with lost := (b.ras.lost.filter fun x => rows.contains x.1) ++ [(rows.getD (v % rows.length) 0, v / rows.length % 96)] } }

/-- The reader of a poisoned line acts (R356). Readers that test their own reads for poison do so where they read: a line-buffer fill of a
plane, a shading grid, an engine's input, the host. -/
def State.readerActs (s : State) (q : Requester) (acc : Nat) : State :=
  match q with
  | .vector n | .table n => s.interrupt n 6
  | .raster n => if accPool acc = 7 then s.bufferLost n else s
  | .gallery cell => s.galPut cell (coldWord s.gal.sweptAt)
  | .page n => { s with mot := { s.mot with page := s.mot.page.modify n fun e => { e with ok := false } } }
  | .pipeRef p =>
    match (s.pipes.getD p pipeReset).ref with
    | some r => ({ s with pipes := s.pipes.modify p fun q => { q with ref := none } }).returnLoan r.acc
    | none => s
  | _ => s

/-- The source path of a requester (R21, R368). -/
def State.requesterPath (s : State) (q : Requester) : Nat :=
  match q with
  | .vector n | .table n | .raster n => s.srcPath 1 (n / 4) (n % 4)
  | .gallery _ => s.srcPath 1 6 0
  | .warder _ => s.srcPath 1 6 1
  | .page n => s.srcPath 2 (n / 4) (n % 4)
  | .pipeRef p | .pipeShade p => s.srcPath 3 (p / 4) (p % 4)
  | .zip e => s.zipSrc e
  | .host c => s.srcPath 0 1 c
  | .front => s.srcPath 4 2 0xFF

/-- A bank has been accessed (R351). -/
def State.bankUsed (s : State) (r bank : Nat) : State :=
  s.updRank r fun x => { x with lastUse := s.now, used := x.used.set bank s.now }

/-- Commands of a channel that wait for their acknowledgement, 48 DDR cycles after their issue (R357). -/
def State.unacked (s : State) (ch : Nat) : List DramCmd := (s.store.retry.getD ch []).filter fun c => s.now < c.at_ + 60

/-- A command enters the retry buffer of its channel. -/
def State.issue (s : State) (kind r bank row : Nat) : State :=
  let q := s.unacked (r / 2) ++ [⟨kind, r, bank, row, s.now⟩]
  s.updStore fun st => { st with retry := st.retry.set (r / 2) (q.drop (q.length - 64)) }

/-- DRAM_READ_COMPLETE: a read of a line returns. One that the store front serves, or that meets an error in its memory, has not touched
the DRAM (R344, R346, R351). -/
def State.readComplete (s : State) (acc off : Nat) (err : ReadError) (q : Requester) : State :=
  let (r, bank, row, col) := s.placeOf acc off
  let place := le 1 bank ++ zeros 1 ++ le 2 col ++ le 4 row ++ le 4 acc ++ le 4 (off / 64 * 64)
  let poisoned := (s.firstPoison acc (off / 64 * 64) 64).isSome
  let dram := !s.frontOnly acc && err ≠ .sramSingle && err ≠ .sramUncorrectable
  if (s.acc? acc).isNone then s
  else
    let s := if dram then ((s.bankUsed r bank).issue 1 r bank row).fillLine acc off else s
    if poisoned then s.readerActs q acc
    else match err with
    | .none => s
    | .dramSingle => if dram then (s.bump P.RANK_CE_COUNT r).record (s.rankSrc r) 0x4001 (place ++ zeros 8) else s
    | .dramUncorrectable =>
      if dram then
        let s := (s.bump P.RANK_UE_COUNT r).poisonLine acc (off / 64)
        (s.record (s.rankSrc r) 0x4002 (place ++ le 2 (s.requesterPath q) ++ zeros 6)).readerActs q acc
      else s
    | .sramSingle => s.bump P.SF_CE_COUNT 0
    | .sramUncorrectable =>
      let s := s.bump P.SF_UE_COUNT 0
      let s := if !s.frontOnly acc then s.poisonLine acc (off / 64)
        else if accPool acc = 7 then s
        else s.updStore fun st => { st with pinBad := st.pinBad ++ [(acc, off / 64)] }
      s.readerActs q acc

/-- R360: a rank fails. cause: 1 replay, 2 training. -/
def State.rankFail (s : State) (r cause : Nat) : State :=
  let s := s.updRank r fun x => { x with state := 3 }
  let s := s.setRg P.RANK_STATE r 3
  let s := { s with mram := { s.mram with trained := s.mram.trained.set r none } }
  s.raiseFault (s.rankSrc r) 0x4004
    (le 1 cause ++ zeros 3 ++ le 4 (s.rg P.RANK_UE_COUNT r) ++ le 4 (s.rg P.RANK_PAR_ERR r) ++ zeros 12) clsStop

/-- A row-hammer table takes an activate (R354): the table, and the entry whose count has reached the threshold. -/
def rhTouch (tab : List (Nat × Nat)) (row thr : Nat) : List (Nat × Nat) × Option Nat :=
  let hit : Nat × List (Nat × Nat) :=
    match tab.findIdx? fun e => e.1 = row with
    | some i => (i, tab.modify i fun e => (e.1, e.2 + 1))
    | none =>
      if tab.length < 32 then (tab.length, tab ++ [(row, 1)])
      else
        let least := (tab.map (·.2)).min?.getD 0
        let i := (tab.findIdx? fun e => e.2 = least).getD 0
        (i, tab.modify i fun e => (row, e.2 + 1))
  (hit.2, if (hit.2.getD hit.1 (0, 0)).2 ≥ thr then some hit.1 else none)

/-- The rows next to a row that exist (R354). -/
def nearRows (row : Nat) : List Nat :=
  ([(row : Int) - 2, (row : Int) - 1, (row : Int) + 1, (row : Int) + 2].filter fun w => 0 ≤ w && w < 65536).map Int.toNat

/-- R354: activates of a bank in their order; the activates of a targeted refresh follow, and run the same rule. A refresh takes
RH_THR from the counts and adds 4, so the fuel, which exceeds all that 32 counts can give, is not used up. -/
def State.activate (s : State) (r bank : Nat) : Nat → List Nat → State
  | 0, _ => s
  | _, [] => s
  | fuel + 1, row :: rest =>
    let thr := s.rg P.DDR_RH_THR (r / 2)
    let (tab, hot) := rhTouch ((s.rank r).rh.getD bank []) row thr
    let put (s : State) (t : List (Nat × Nat)) : State := s.updRank r fun x => { x with rh := x.rh.set bank t }
    match hot with
    | none => (put s tab).activate r bank fuel rest
    | some i =>
      let s := put s (tab.modify i fun e => (e.1, 0))
      let s := (s.bump P.DDR_RH_REFRESH (r / 2)).record (s.rankSrc r) 0x4005 (le 1 bank ++ zeros 3 ++ le 4 row ++ le 4 thr ++ zeros 12)
      s.activate r bank fuel (rest ++ nearRows row)

/-- A bank activates a row (R351, R354). PAGE_IDLE 0 closes it after its access, and the targeted refresh that it may bring precharges
the bank. -/
def State.openBank (s : State) (r bank row : Nat) : State :=
  let hot := (rhTouch ((s.rank r).rh.getD bank []) row (s.rg P.DDR_RH_THR (r / 2))).2.isSome
  let s := s.activate r bank 40000 [row]
  let left := if hot ∨ s.rg P.DDR_PAGE_IDLE (r / 2) = 0 then none else some row
  s.updRank r fun x => { x with openRow := x.openRow.set bank left }

/-- ROW_HAMMER_REFRESH: a rank's bank activates a row. The rank leaves power-down for it (R352). -/
def State.rowActivate (s : State) (r bank row : Nat) : State :=
  if r > 3 ∨ bank > 7 ∨ row ≥ 65536 ∨ (s.rank r).state ≥ 2 then s
  else
    let s := ((s.issue 0 r bank row).openBank r bank row).bankUsed r bank
    (s.updRank r fun x => { x with state := 0 }).setRg P.RANK_STATE r 0

/-- Banks and rows that the buffered reads of a rank need open, each once, in the order of the commands (R358). -/
def rowsNeeded (q : List DramCmd) (r : Nat) : List (Nat × Nat) :=
  ((q.filter fun c => c.rank = r && c.kind ≤ 1).map fun c => (c.bank, c.row)).eraseDups

/-- DRAM_ALERT: a parity error of a rank, with the commands replayed, the attempts and the stall (R358, R360). The DRAM has
precharged every bank; each attempt activates the rows that the buffered commands need and replays them all, a REF among them (R359).
`failed`: the third replay also ended with ALERT_n low, and the event has no end. -/
def State.dramAlert (s : State) (r commands attempts stall : Nat) (failed : Bool) : State :=
  if r > 3 ∨ (s.rank r).state = 3 ∨ (s.rank r).state = 2 then s
  else
    let q := s.unacked (r / 2)
    let tries := if failed then 3 else min 3 (max 1 attempts)
    let s := (s.bump P.DDR_REPLAYS (r / 2)).bump P.RANK_PAR_ERR r
    let s := forEach (List.range tries) (fun _ s =>
      let s := s.updRank r fun x => { x with openRow := List.replicate 8 none }
      (rowsNeeded q r).foldl (fun s a => s.openBank r a.1 a.2) s) s
    let s := s.updStore fun st => { st with retry := st.retry.set (r / 2) [] }
    if failed then s.rankFail r 1
    else s.record (s.rankSrc r) 0x4003 (le 1 (min (max commands q.length) 64) ++ le 1 tries ++ zeros 2 ++ le 4 stall ++ zeros 16)

/-- DRAM_PAGE_CLOSE: PAGE_IDLE has passed without an access to a bank (R351). -/
def State.pageClose (s : State) (r bank : Nat) : State :=
  if s.now < (s.rank r).used.getD bank 0 + s.rg P.DDR_PAGE_IDLE (r / 2) then s
  else
    let s := match (s.rank r).openRow.getD bank none with | some row => s.issue 3 r bank row | none => s
    s.updRank r fun x => { x with openRow := x.openRow.set bank none }

/-- RANK_POWER_DOWN: nothing has waited for RANK_PD (R352). -/
def State.rankPowerDown (s : State) (r : Nat) : State :=
  if r > 3 ∨ (s.rank r).state ≠ 0 ∨ s.now < (s.rank r).lastUse + s.rg P.DDR_RANK_PD (r / 2) then s
  else
    let s := s.updRank r fun x => { x with state := 1, openRow := List.replicate 8 none }
    s.setRg P.RANK_STATE r 1

/-- DRAM_REFRESH: the interval has passed, and a REF is due. It is issued with every bank precharged, and the postponed ones with it, or
postponed while requests wait, at most eight times (R352). -/
def State.dramRefresh (s : State) (r : Nat) (waiting : Bool) : State :=
  if r > 3 ∨ (s.rank r).state ≥ 2 ∨ s.now < (s.rank r).refDue then s
  else
    let next := max s.now ((s.rank r).refDue + s.refi (r / 2))
    if waiting ∧ (s.rank r).postponed < 8 then s.updRank r fun x => { x with postponed := x.postponed + 1, refDue := next }
    else
      let s := (s.issue 2 r 0 0).updRank r fun x =>
        { x with
          state := 0
          lastUse := s.now
          openRow := List.replicate 8 none
          postponed := if waiting then 8 else 0
          refDue := next }
      s.setRg P.RANK_STATE r 0

/-- RH_WINDOW_CLEAR: every RH_WIN the tables of a channel's banks are cleared (R354). -/
def State.rhClear (s : State) (ch : Nat) : State :=
  if s.now < s.store.rhAt.getD ch 0 + s.rg P.DDR_RH_WIN ch * 1000000 then s
  else
    let s := s.updStore fun st => { st with rhAt := st.rhAt.set ch s.now }
    forEach [2 * ch, 2 * ch + 1] (fun r s => s.updRank r fun x => { x with rh := List.replicate 8 [] }) s

end Sys2Proof.Machine
end

