-- ==== Sys2Proof/Machine/Image.lean ====
section
/-!
DEFINITION. The image stages of a camera pipeline as functions of a frame's samples (R297, R300-R304, R310, R311).
-/
namespace Sys2Proof.Machine

open Sys2Proof

/-- A plane of samples, rows from the top. -/
abbrev Plane := Array (Array Nat)

def Plane.at_ (p : Plane) (r c : Nat) : Nat := (p.getD r #[]).getD c 0

/-- Build a plane from a function of row and column. -/
def mkPlane (h w : Nat) (f : Nat → Nat → Nat) : Plane :=
  ((List.range h).map fun r => ((List.range w).map fun c => f r c).toArray).toArray

/-- Parameters of stages 1 to 7 and of the geometry, as they stand for one frame (R299, R305). -/
structure ImgCfg where
  w : Nat
  h : Nat
  cfa : Nat
  phase : Nat
  dpcThr : Nat
  dpcRel : Nat
  snrStr : Nat
  snrSig : Nat
  tnrK : Nat
  tnrThr : Nat
  blk : List Nat
  ccm : List Int
  ccmOfs : List Int
  rtA : Nat
  rtB : Nat
  rtMin : Nat
  rtTmin : Nat
  rtTmax : Nat
  histPlane : Nat
  blobPlane : Nat
  blobThr : Nat
  spatMin : Nat
  spatMax : Nat
  deriving DecidableEq, Repr

/-- Side of the mosaic's pattern: lines of the same row phase are this far apart (R297, R303). -/
def cfaPeriod (cfa : Nat) : Nat := match cfa with | 0 => 1 | 2 => 4 | _ => 2

/-- Colour index of the mosaic before its shift (R303). -/
def cfaPattern (cfa r c : Nat) : Nat :=
  match cfa with
  | 0 => 0
  | 2 =>
    match r % 4, c % 4 with
    | 0, 0 | 2, 2 => 2
    | 0, 2 | 2, 0 => 0
    | 1, 1 | 1, 3 | 3, 1 | 3, 3 => 3
    | _, _ => 1
  | 4 => if r % 2 = 0 then c % 2 else 2
  | _ => if r % 2 = 0 then c % 2 else 1 + c % 2

/-- Colour index of a pixel: the pattern shifted right and down by CFA_PHASE (log entry 38). -/
def colourAt (cfa phase r c : Nat) : Nat :=
  let n := cfaPeriod cfa
  cfaPattern cfa ((r + n - phase / 4 % n) % n) ((c + n - phase % 4 % n) % n)

/-- A coordinate mirrored at the edges of the frame: -1 is 1. -/
def mirrorIx (n : Nat) (i : Int) : Nat :=
  if i < 0 then min (-i).toNat (n - 1)
  else if i ≥ (n : Int) then (2 * (n : Int) - 2 - i).toNat
  else i.toNat

/-- Offsets of a window around a pixel. -/
def windowOfs (rad : Nat) : List (Int × Int) :=
  let ks : List Int := (List.range (2 * rad + 1)).map fun (k : Nat) => (k : Int) - (rad : Int)
  ks.flatMap fun dr => ks.map fun dc => (dr, dc)

/-- Insert into a sorted list. -/
def insertNat (x : Nat) : List Nat → List Nat
  | [] => [x]
  | y :: r => if x ≤ y then x :: y :: r else y :: insertNat x r

def sortNat (l : List Nat) : List Nat := l.foldr insertNat []

/-- The median, or the lower of the two middle values. -/
def medianLow (l : List Nat) : Nat := (sortNat l).getD ((l.length - 1) / 2) 0

def absDiff (a b : Nat) : Nat := (a - b) + (b - a)

/-- A result held to 16 bits. -/
def to16 (v : Int) : Nat := (clampInt 0 65535 v).toNat

/-! ## Stage 1: spatial noise reduction (R300) -/

/-- One pixel: the output, and whether an outlier was corrected. -/
def stage1Pixel (g : ImgCfg) (p : Plane) (r c : Nat) : Nat × Bool :=
  let k := colourAt g.cfa g.phase r c
  let nb := (windowOfs 2).filterMap fun o =>
    let r' := mirrorIx g.h ((r : Int) + o.1)
    let c' := mirrorIx g.w ((c : Int) + o.2)
    if o = (0, 0) ∨ colourAt g.cfa g.phase r' c' ≠ k then none else some (p.at_ r' c')
  let v := p.at_ r c
  let med := medianLow nb
  let bad := absDiff v med * 4096 > g.dpcThr * 4096 + g.dpcRel * med
  let v := if bad then med else v
  let near := nb.filter fun n => absDiff n v ≤ g.snrSig
  let out :=
    if near.isEmpty then v
    else to16 (roundDiv ((v : Int) * 256 * (near.length : Nat) +
      (g.snrStr : Int) * (((near.sum : Nat) : Int) - (v : Int) * (near.length : Nat))) (256 * near.length))
  (out, bad)

/-- Stage 1 over a frame: the plane and the count of outliers. -/
def stage1 (g : ImgCfg) (p : Plane) : Plane × Nat :=
  if g.dpcThr = 0xFFFF ∧ g.snrStr = 0 then (p, 0)
  else
    let cells := (List.range g.h).map fun r => (List.range g.w).map fun c => stage1Pixel g p r c
    ((cells.map fun row => (row.map (·.1)).toArray).toArray, (cells.map fun row => (row.filter (·.2)).length).sum)

/-! ## Stages 2 to 4 (R301, R302) -/

def stage2 (g : ImgCfg) (p ref : Plane) : Plane :=
  mkPlane g.h g.w fun r c =>
    let v := p.at_ r c
    let q := ref.at_ r c
    if absDiff v q ≤ g.tnrThr then to16 (roundDiv ((q : Int) * 256 + ((v : Int) - q) * (g.tnrK : Int)) 256) else v

def stage3 (g : ImgCfg) (p : Plane) : Plane :=
  mkPlane g.h g.w fun r c => p.at_ r c - g.blk.getD (colourAt g.cfa g.phase r c) 0

/-- Lens shading: gain nodes by colour, row and column in 1/4096, interpolated bilinearly. -/
def stage4 (g : ImgCfg) (node : Nat → Nat → Nat → Nat) (p : Plane) : Plane :=
  mkPlane g.h g.w fun r c =>
    let k := colourAt g.cfa g.phase r c
    let i := c * 16 / g.w
    let j := r * 12 / g.h
    let u := c * 16 - i * g.w
    let v := r * 12 - j * g.h
    let num := (g.h - v) * ((g.w - u) * node k j i + u * node k j (i + 1)) +
      v * ((g.w - u) * node k (j + 1) i + u * node k (j + 1) (i + 1))
    min 65535 (roundDivNat (p.at_ r c * num) (g.w * g.h * 4096))

/-! ## Stage 5: demosaic (R303) -/

/-- Mean of the nearest pixels of a colour in a window, if it holds any. -/
def nearestMean (g : ImgCfg) (p : Plane) (k r c rad : Nat) : Option Nat :=
  let found := (windowOfs rad).filterMap fun o =>
    let r' := mirrorIx g.h ((r : Int) + o.1)
    let c' := mirrorIx g.w ((c : Int) + o.2)
    if colourAt g.cfa g.phase r' c' = k then some ((o.1 * o.1 + o.2 * o.2).toNat, p.at_ r' c') else none
  match (found.map (·.1)).min? with
  | none => none
  | some d =>
    let vs := (found.filter fun x => x.1 = d).map (·.2)
    some (roundDivNat vs.sum vs.length)

/-- A colour at a pixel of the mosaic. -/
def demosaicAt (g : ImgCfg) (p : Plane) (k r c : Nat) : Nat :=
  if colourAt g.cfa g.phase r c = k then p.at_ r c
  else if (g.cfa = 1 ∨ g.cfa = 3) ∧ k = 1 then
    let v (dr dc : Int) := p.at_ (mirrorIx g.h ((r : Int) + dr)) (mirrorIx g.w ((c : Int) + dc))
    let w := v 0 (-1)
    let e := v 0 1
    let n := v (-1) 0
    let s := v 1 0
    if absDiff w e < absDiff n s then roundDivNat (w + e) 2
    else if absDiff n s < absDiff w e then roundDivNat (n + s) 2
    else roundDivNat (w + e + n + s) 4
  else match nearestMean g p k r c 1 with
    | some v => v
    | none => (nearestMean g p k r c 2).getD 0

/-! ## Stage 6: conversion (R304) -/

/-- The ratio temperature in 0.1 K. -/
def ratioTemp (g : ImgCfg) (n1 n2 : Nat) : Nat :=
  if n1 < g.rtMin ∨ n2 < g.rtMin ∨ n1 = 0 ∨ n2 = 0 then 0
  else
    let q := fDiv (fOfInt (n1 : Nat)) (fOfInt (n2 : Nat))
    let den := fSub g.rtB (lnRat (fNum q).toNat fDen)
    if !fLt 0 den then 0
    else
      let t := fDiv g.rtA den
      if fFinite t && fLe g.rtTmin t && fLe t g.rtTmax then to16 (roundDiv (fNum t * 10) fDen) else 0

/-- The planes of a frame after conversion: A, B, C, D, Y; absent ones are none. -/
def convert (g : ImgCfg) (p : Plane) : List (Option Plane) :=
  if g.cfa = 0 then [some p, none, none, none, none]
  else
    let col (k : Nat) : Plane := mkPlane g.h g.w fun r c => demosaicAt g p k r c
    let a := col 0
    let b := col 1
    let c := col 2
    if g.cfa = 4 then
      [some a, some b, some c, some (mkPlane g.h g.w fun r x => ratioTemp g (a.at_ r x) (b.at_ r x)), none]
    else
      let d : Option Plane := if g.cfa = 2 then some (col 3) else none
      let m (i j : Nat) : Int := g.ccm.getD (4 * i + j) 0
      let out (i : Nat) : Plane := mkPlane g.h g.w fun r x =>
        let dv : Int := match d with | some q => q.at_ r x | none => 0
        let s := m i 0 * (a.at_ r x : Nat) + m i 1 * (b.at_ r x : Nat) + m i 2 * (c.at_ r x : Nat) + m i 3 * dv
        to16 (roundDiv (s + 4096 * g.ccmOfs.getD i 0) 4096)
      let o0 := out 0
      let o1 := out 1
      let o2 := out 2
      let y := mkPlane g.h g.w fun r x =>
        min 65535 (roundDivNat (1225 * o0.at_ r x + 2404 * o1.at_ r x + 467 * o2.at_ r x) 4096)
      [some o0, some o1, some o2, d, some y]

/-! ## Stage 7: statistics (R310, R311) -/

/-- Histogram of a plane over the lines that count. -/
def histogram (g : ImgCfg) (good : Nat → Bool) (p : Plane) : List Nat :=
  let vs := (List.range g.h).flatMap fun r => if good r then (List.range g.w).map fun c => p.at_ r c / 256 else []
  (List.range 256).map fun b => (vs.filter (· = b)).length

/-- Zone means of a plane. -/
def zoneMeans (g : ImgCfg) (good : Nat → Bool) (p : Option Plane) : List Nat :=
  match p with
  | none => List.replicate 256 0
  | some p =>
    (List.range 256).map fun z =>
      let rows := (List.range g.h).filter fun r => r * 16 / g.h = z / 16 && good r
      let cols := (List.range g.w).filter fun c => c * 16 / g.w = z % 16
      let sum := (rows.map fun r => (cols.map fun c => p.at_ r c).sum).sum
      roundDivNat sum (rows.length * cols.length)

/-- Grow a component from a frontier among the pixels not yet taken; a pixel is row * 2^16 + column. -/
def growBlob : Nat → List Nat → List Nat → List Nat → List Nat × List Nat
  | 0, _, rest, comp => (comp, rest)
  | _, [], rest, comp => (comp, rest)
  | fuel + 1, q :: front, rest, comp =>
    let near (x : Nat) : Bool := absDiff (x / 65536) (q / 65536) ≤ 1 && absDiff (x % 65536) (q % 65536) ≤ 1
    let hit := rest.filter near
    growBlob fuel (front ++ hit) (rest.filter fun x => !near x) (q :: comp)

/-- Components of a list of pixels in raster order, by their first pixels; at most n are labelled (R311). -/
def blobs : Nat → List Nat → List (List Nat)
  | 0, _ => []
  | _, [] => []
  | n + 1, x :: rest =>
    let (comp, left) := growBlob (rest.length + 2) [x] rest []
    comp :: blobs n left

/-- What the blob rules give: area, centroid, peak, spatter count, label overflow. -/
structure BlobStat where
  area : Nat
  cx : Nat
  cy : Nat
  peak : Nat
  spat : Nat
  past : Bool
  deriving DecidableEq, Repr

/-- The greatest-area component, the first on a tie. -/
def mainBlob : List (List Nat) → List Nat → List Nat
  | [], best => best
  | b :: r, best => mainBlob r (if b.length > best.length then b else best)

def blobStats (g : ImgCfg) (good : Nat → Bool) (planes : List (Option Plane)) : BlobStat :=
  let plane := (planes.getD (g.blobPlane - 1) none).getD #[]
  let fg := (List.range g.h).flatMap fun r =>
    if good r then (List.range g.w).filterMap fun c => if plane.at_ r c ≥ g.blobThr ∧ !plane.isEmpty then some (r * 65536 + c) else none
    else []
  let comps := blobs 1023 fg
  let main := mainBlob comps []
  let n := main.length
  let peakPlane := if g.cfa = 4 then (planes.getD 3 none).getD #[] else plane
  let peak := (main.map fun x => peakPlane.at_ (x / 65536) (x % 65536)).foldl max 0
  { area := n
    cx := roundDivNat (16 * (main.map (· % 65536)).sum) n
    cy := roundDivNat (16 * (main.map (· / 65536)).sum) n
    peak := if n = 0 then 0 else if g.cfa = 4 then fOfRat (peak : Nat) 10 else fOfInt (peak : Nat)
    spat := (comps.filter fun b => g.spatMin ≤ b.length && b.length ≤ g.spatMax).length -
      b2n (n > 0 && g.spatMin ≤ n && n ≤ g.spatMax)
    past := (comps.map List.length).sum < fg.length }

/-! ## Lines (R297) -/

/-- Bad and missing lines replaced: the nearest earlier good line of the same row phase, or zeros. -/
def fillLines (period w : Nat) (lines : List (Option (List Nat))) (h : Nat) : List (List Nat) :=
  (List.range h).map fun r =>
    match lines.getD r none with
    | some l => l
    | none =>
      let back := (List.range (r / period)).map fun i => r - (i + 1) * period
      match back.find? fun q => (lines.getD q none).isSome with
      | some q => if r < lines.length then (lines.getD q none).getD [] else List.replicate w 0
      | none => List.replicate w 0

/-- Bytes of a plane: 2 per sample, or 1 holding bits 15:8 (R307). -/
def planeBytes (g : ImgCfg) (one : Bool) (p : Plane) : List Byte :=
  (List.range g.h).flatMap fun r => (List.range g.w).flatMap fun c => if one then le 1 (p.at_ r c / 256) else le 2 (p.at_ r c)

end Sys2Proof.Machine
end

