-- ==== Sys2Proof/Machine/Lamp.lean ====
section
/-!
DEFINITION. The lamp block (R321-R331, R333): dimming, rows, the short test, derating, the light sensor and strobed
patterns.
-/
namespace Sys2Proof.Machine

open Sys2Proof

def State.updLamp (s : State) (f : LampSt → LampSt) : State := { s with lamp := f s.lamp }
def State.lampSrc (s : State) (cell : Nat) : Nat := s.srcPath 2 3 cell

/-! ## Dimming (R322-R325) -/

/-- The PWM period in EXP cycles of 2 ns. -/
def State.pwmCycles (s : State) : Nat := roundDivNat 500000000 (s.rg P.LAMP_FREQ 0)

/-- The time in which a row is on in a period, as a fraction of EXP cycles: all of it with one row, else
S = T / ROWS - ROW_BLANK (R324). -/
def State.rowSpan (s : State) : Nat × Nat :=
  let r := s.rg P.LAMP_ROWS 0
  if r ≤ 1 then (s.pwmCycles, 1) else (2 * s.pwmCycles - r * s.rg P.LAMP_ROW_BLANK 0, 2 * r)

/-- Full scale of a duty. -/
def State.dutyFull (s : State) : Nat := if s.rg P.LAMP_COMPAT 0 = 1 then 2 ^ s.rg P.LAMP_COMPAT_BITS 0 - 1 else 4095

/-- R322-R324: whether the PWM of channel c of a row is in its on-time at a cycle of the time in which its row is on, in the first
period of the duties in force (fresh) or a later one. An on-time that wraps has the duty of the period it began in; the full duty is on
without a gap. -/
def State.pwmOn (s : State) (c row cycle : Nat) (fresh : Bool) : Bool :=
  let (num, den) := s.rowSpan
  let start := if s.rg P.LAMP_COMPAT 0 = 1 then 0 else c * num / (16 * den)
  let own := cycle ≥ start
  let d := (if own || !fresh then s.lamp.eff else s.lamp.effPrev).getD (row * 16 + c) 0
  let on := roundDivNat (d * num) (s.dutyFull * den)
  let past := if own then (cycle - start) * den else cycle * den + num - start * den
  d ≥ s.dutyFull || past < on * den

/-- The period of an instant is the first one of the duties in force. -/
def State.pwmFresh (s : State) (t : TS) : Bool :=
  let n := 2 * s.pwmCycles
  s.lamp.pwm0 + (t - s.lamp.pwm0) / n * n ≤ s.lamp.effFrom

/-- The row that is on at an instant and the cycle of its time, or none during the blanking of a row slot (R324). -/
def State.rowAt (s : State) (t : TS) : Option (Nat × Nat) :=
  let r := s.rg P.LAMP_ROWS 0
  let n := s.pwmCycles
  let cycle := (t - s.lamp.pwm0) / 2 % n
  if r ≤ 1 then some (0, cycle)
  else
    let slot := cycle * r / n
    let past := 2 * (cycle * r - slot * n)
    let blank := r * s.rg P.LAMP_ROW_BLANK 0
    if past < blank then none else some (slot, (past - blank) / (2 * r))

/-- The scale of the sensor group that holds a channel, in 1/65,535. -/
def State.lampScale (s : State) (c : Nat) : Nat :=
  match (List.range 4).find? fun k => bit (s.rg (P.LAMP_SENS_GRP + k) 0) c with
  | some k => s.rg (P.LAMP_SENS_S + k) 0
  | none => 65535

/-- R325: the effective duty of a segment. -/
def State.dutyEff (s : State) (c row : Nat) : Nat :=
  roundDivNat (s.rg (P.LMP_DUTY + row) c * s.rg P.LAMP_DERATE 0 * s.lampScale c) (65535 * 65535)

/-- The first start of a period, or of row slot 0, after an instant. -/
def State.nextPeriod (s : State) (t : TS) : TS :=
  let n := 2 * s.pwmCycles
  s.lamp.pwm0 + ((t - s.lamp.pwm0) / n + 1) * n

/-- The lamp's outputs act (R321). -/
def State.lampLit (s : State) : Bool := s.lamp.st ≥ 2 && s.expRuns

/-- Duties, D or a scale have changed: recomputed, in force from the next period start (R325). -/
def State.lampChanged (s : State) : State :=
  if s.lampLit then s.updLamp fun l => { l with effAt := some (l.effAt.getD (s.nextPeriod s.now)) } else s

/-- Every sink and row turns off. -/
def State.lampDark (s : State) : State := if s.drives then s.put (.lampDuties s.now (List.replicate 64 0)) else s

/-- No duty is in force. -/
def duties0 : List Nat := List.replicate 64 0

/-- The effective duties come into force. -/
def State.lampLatch (s : State) (t : TS) : State :=
  let eff := (List.range 64).map fun i => s.dutyEff (i % 16) (i / 16)
  let s := forEach (List.range 16) (fun c s => s.setRg P.LMP_DUTY_EFF c (eff.getD c 0)) s
  let s := s.updLamp fun l =>
    { l with eff := eff, effFrom := t, effPrev := if l.effFrom = t then l.effPrev else l.eff, effAt := none }
  if s.drives && s.expRuns then s.put (.lampDuties t eff) else s

/-! ## States (R321, R326, R334) -/

/-- A change of state, with its record. -/
def State.lampTo (s : State) (st : Nat) : State :=
  let old := s.lamp.st
  if old = st then s
  else
    let s := (s.updLamp fun l => { l with st := st }).setRg P.LAMP_STATE 0 st
    s.record (s.lampSrc 0xFF) 0x2801
      (le 1 old ++ le 1 st ++ zeros 2 ++ le 2 s.lamp.disabled ++ le 2 s.lamp.openMask ++ zeros 16)

/-- A strobe sequence starts or stops, with its record. -/
def State.strobeRecord (s : State) (on : Bool) : State :=
  s.record (s.lampSrc 0xFF) 0x2805
    (le 1 (b2n on) ++ le 1 (s.rg P.LAMP_STR_SRC 0 % 8) ++ le 1 (s.rg P.LAMP_STR_LEN 0) ++ zeros 1 ++
      le 4 (s.rg P.LAMP_STR_SEQ 0) ++ le 4 s.lamp.shown ++ zeros 12)

def State.strobeStop (s : State) : State :=
  if s.lamp.st ≠ 3 then s
  else
    let ws := s.lamp.windows.map fun w => { w with stop := min w.stop s.now }
    ((s.updLamp fun l => { l with due := [], windows := ws }).strobeRecord false).lampTo 2

/-- The lamp turns off (R333, R421). Duties set and not yet in force take effect now. -/
def State.lampOff (s : State) : State :=
  let s := s.strobeStop
  let s := match s.lamp.test with
    | some t => (s.decideNow t.k rCANCELLED).updLamp fun l => { l with test := none }
    | none => s
  s.lampDark.lampTo 0

/-- The lamp turns on: its first period starts now, and nothing wraps into it. -/
def State.lampOn (s : State) : State :=
  ((s.updLamp fun l => { l with pwm0 := s.now, effFrom := s.now, effPrev := duties0, holdTo := 0, liveAt := 0 }).lampTo 2).lampLatch s.now

/-- Masks of a reply. -/
def State.lampMasks (s : State) : List Byte := le 2 s.lamp.disabled ++ le 2 s.lamp.openMask

/-- STAT of each channel after a test. -/
def State.lampStats (s : State) : State :=
  forEach (List.range 16) (fun c s =>
    let near (n : Nat) : Bool := s.lamp.shorts.contains (c, n) || s.lamp.shorts.contains (n, c)
    let low := c > 0 && near (c - 1)
    s.setRg P.LMP_STAT c (b2n low + 2 * b2n (near (c + 1)) + 4 * b2n (bit s.lamp.openMask c) + 8 * b2n (bit s.lamp.disabled c))) s

/-- A lamp that was on before a LAMP_TEST is on again; its outputs, sinks and rows, are restored at the first period start (R333). -/
def State.lampRestore (s : State) : State :=
  let at_ := s.nextPeriod s.now
  (s.updLamp fun l => { l with eff := duties0, effAt := some at_, holdTo := at_ }).lampTo 2

/-- LAMP_TEST_DONE: 320 µs after its beginning the test ends with the shorted pairs and the open channels it found. -/
def State.lampTestDone (s : State) (shorts : List (Nat × Nat)) (opens : Nat) : State :=
  match s.lamp.test with
  | none => s
  | some t =>
    if s.now < t.began + 320000 ∨ !s.expRuns then s
    else
      let shorts := shorts.filter fun p => p.1 < 16 && p.2 < 16 && (p.1 = p.2 + 1 || p.2 = p.1 + 1)
      let bad := (List.range 16).filter fun c => shorts.any fun p => p.1 = c || p.2 = c
      let opens := if s.rg P.LAMP_ROWS 0 = 1 then opens % 2 ^ 16 else 0
      let s := s.updLamp fun l =>
        { l with test := none, shorts := shorts, disabled := (bad.map fun c => 2 ^ c).sum, openMask := opens }
      let s := s.lampStats
      let s := forEach (List.range 16) (fun c s => s.faultOff (s.lampSrc c) clsContained) s
      let s := shorts.foldl (fun s p =>
        let seq := s.seqOf (s.lampSrc p.1)
        (s.record (s.lampSrc p.1) 0x2802 (le 1 p.1 ++ le 1 p.2 ++ zeros 22)).faultOn (s.lampSrc p.1) clsContained 0x2802 seq) s
      let s := if t.enable then s.lampOn else if t.back ≥ 2 then s.lampRestore else s.lampTo 0
      s.decide t.k rOK s.now s.lampMasks

/-! ## Strobe windows (R329, R330) -/

/-- A source edge of a running sequence: the sequence advances, and its next pattern's window will start after STR_DLY. -/
def State.strobeEdge (s : State) (t : TS) : State :=
  if s.lamp.st ≠ 3 ∨ !s.expRuns then s
  else
    let pat := bits (s.rg P.LAMP_STR_SEQ 0) (4 * s.lamp.step + 2) (4 * s.lamp.step)
    s.updLamp fun l =>
      { l with
        step := (l.step + 1) % s.rg P.LAMP_STR_LEN 0
        due := l.due ++ [(t + s.rg P.LAMP_STR_DLY 0, pat, s.rg P.LAMP_STR_W 0)] }

/-- An edge of a pipeline's trigger (frame: false) or frame start (true), where STR_SRC selects it. -/
def State.strobeFrom (s : State) (p : Nat) (frame : Bool) (t : TS) : State :=
  let v := s.rg P.LAMP_STR_SRC 0
  if v % 8 = p ∧ bit v 3 = frame then s.strobeEdge t else s

/-- Windows that a frame start from now on can still select: STR_LEAD is at most 1 s (R330, R335), so one whose successor started
longer ago cannot be the last that qualifies. -/
def windowsKept (now : TS) : List Window → List Window
  | w :: v :: r => if v.start + 1000000000 ≤ now then windowsKept now (v :: r) else w :: v :: r
  | ws => ws

/-- A window starts: it ends the open one, and its pattern is lit. -/
def State.windowStart (s : State) (t : TS) (pat w : Nat) : State :=
  let closed : List Window := s.lamp.windows.map fun (x : Window) => { x with stop := min x.stop t }
  let s := s.updLamp fun l =>
    { l with shown := (l.shown + 1) % 2 ^ 24, windows := windowsKept s.now (closed ++ [(⟨pat, t, t + w⟩ : Window)]) }
  let s := s.setRg P.LAMP_STR_NOW 0 (pat + 256 * s.lamp.shown)
  if s.drives && s.expRuns then s.put (.strobe pat t w) else s

/-- Windows due by now start. -/
def State.windowPump (s : State) : State :=
  if !s.expRuns then s
  else
    let starts := s.lamp.due.filter fun x => x.1 ≤ s.now
    let s := s.updLamp fun l => { l with due := l.due.filter fun x => !(x.1 ≤ s.now) }
    starts.foldl (fun s x => s.windowStart x.1 x.2.1 x.2.2) s

/-- R330: pattern and window start of a frame whose frame start has a stamp. -/
def State.framePattern (s : State) (t : TS) : Nat × TS :=
  let ok := s.lamp.windows.filter fun w => w.start + s.rg P.LAMP_STR_LEAD 0 ≤ t
  match ok.getLast? with
  | some w => (w.pat, w.start)
  | none => (0xFF, 0)

/-- The current of a channel in the window open at an instant: pattern current x D, to 1/65,535 mA. A window that opened before
this module took the outputs stays dark (R331). -/
def State.strobeCurrent (s : State) (c : Nat) (t : TS) : Option Nat :=
  match s.lamp.windows.getLast? with
  | some w =>
    let i := ((s.lamp.patterns.getD w.pat []).getD c 0) * s.rg P.LAMP_DERATE 0
    if w.start ≤ t ∧ t < w.stop then some (if w.start < s.lamp.liveAt then 0 else i) else none
  | none => none

/-! ## The pins LMP_Kc and LMP_ROWr (R321, R324, R326, R329, R331) -/

/-- Channel c can sink: it is enabled, the short test has not disabled it, and this module drives its outputs. -/
def State.sinkAllowed (s : State) (c : Nat) : Bool :=
  s.rg P.LMP_EN c = 1 && !bit s.lamp.disabled c && s.expRuns && s.drives

/-- The current by the steady duties: I_SET while the PWM is in its on-time and its row is on. -/
def State.steadyCurrent (s : State) (c : Nat) (t : TS) : Nat :=
  match s.rowAt t with
  | some (r, k) => if t ≥ s.lamp.holdTo && s.pwmOn c r k (s.pwmFresh t) then s.rg P.LMP_I_SET c * 65535 else 0
  | none => 0

/-- The current that channel c sinks at an instant, in 1/65,535 mA: nothing while OFF, 2 mA in its 20 µs of the short test, the
steady duties while ON, and in a strobe sequence the pattern of the open window or what STR_IDLE selects. -/
def State.sinkCurrent (s : State) (c : Nat) (t : TS) : Nat :=
  match s.lamp.st with
  | 0 => 0
  | 1 => match s.lamp.test with
    | some x => if s.expRuns && s.drives && (t - x.began) / 20000 = c then 2 * 65535 else 0
    | none => 0
  | 2 => if s.sinkAllowed c then s.steadyCurrent c t else 0
  | _ =>
    if !s.sinkAllowed c then 0
    else match s.strobeCurrent c t with
      | some i => i
      | none => if s.rg P.LAMP_STR_IDLE 0 = 1 then s.steadyCurrent c t else 0

/-- The level of LMP_ROWr at an instant: the row is on, by the polarity of ROW_POL. -/
def State.rowLevel (s : State) (r : Nat) (t : TS) : Bool :=
  let on := s.expRuns && s.drives && (match s.lamp.st with
    | 0 => false
    | 1 => s.rg P.LAMP_ROWS 0 = 1 && r = 0
    | _ => match s.rowAt t with
      | some (k, _) => k = r && t ≥ s.lamp.holdTo
      | none => false)
  on != (s.rg P.LAMP_ROW_POL 0 = 1)

/-! ## What falls due by now -/

/-- LAMP_SET entries in force: duties written, the command decided at the period start. -/
def State.lampApply (s : State) (k : Ticket) (t : TS) (es : List (Nat × Nat × Nat)) : State :=
  let s := es.foldl (fun s e => s.setRg (P.LMP_DUTY + e.2.1) e.1 e.2.2) s
  s.decide k rOK t []

/-- Period starts and windows due by now. Outside READY and EXPOSE nothing runs (R321). -/
def State.lampPump (s : State) : State :=
  if !s.expRuns then s
  else
    let due := s.lamp.sets.filter fun x => x.2.1 ≤ s.now || s.lamp.st < 2
    let s := s.updLamp fun l => { l with sets := l.sets.filter fun x => !(x.2.1 ≤ s.now || s.lamp.st < 2) }
    let s := due.foldl (fun s x => s.lampApply x.1 (min x.2.1 s.now) x.2.2) s
    let s := match s.lamp.effAt with
      | some t => if t ≤ s.now ∧ s.lamp.st ≥ 2 then s.lampLatch t else s
      | none => s
    s.windowPump

/-! ## The EXP domain and the twin (R321, R331) -/

/-- The domain stops: every sink and row turns off, the lamp keeps its state and parameters. Duties set are in force when it runs again; an
open window ends, and one that has not started is lost (log entry 114). -/
def State.lampStand (s : State) : State :=
  let sets := s.lamp.sets
  let s := s.updLamp fun l =>
    { l with sets := [], due := [], windows := l.windows.map fun w => { w with stop := min w.stop s.now } }
  let s := sets.foldl (fun s x => s.lampApply x.1 s.now x.2.2) s
  if s.lamp.st = 0 then s else s.lampDark

/-- The domain runs again: the first period starts now; a test is made from its beginning (log entry 114). -/
def State.lampResume (s : State) : State :=
  if s.lamp.st = 0 then s
  else s.updLamp fun l =>
    { l with
      pwm0 := s.now
      eff := duties0
      effAt := some s.now
      test := l.test.map fun (x : LampTest) => { x with began := s.now } }

/-- A sensor bus with nothing begun. -/
def LampSt.idleBus (l : LampSt) : LampSt :=
  { l with xfers := l.xfers.map fun (x : I2cXfer) => { x with begun := false } }

/-! ## The management round (R327, R328) -/

/-- D at a temperature, in 1/65,535. -/
def derate (t t0 t1 dmin : Nat) : Nat :=
  if !fFinite t ∨ fLe t t0 then 65535
  else if fLe t1 t then dmin
  else (65535 - roundDiv (((65535 - dmin : Nat) : Int) * (fNum t - fNum t0)) (fNum t1 - fNum t0).toNat).toNat

/-- The loop of sensor channel k: its group's scale after a good reading (R328). -/
def State.sensorLoop (s : State) (k v : Nat) : State :=
  let step := fNum (s.rg (P.LAMP_SENS_KI + k) 0) * ((s.rg (P.LAMP_SENS_TGT + k) 0 : Int) - (v : Int)) * 65535
  let x := (s.rg (P.LAMP_SENS_S + k) 0 : Int) + roundDiv step fDen
  s.setRg (P.LAMP_SENS_S + k) 0 (clampInt (s.rg P.LAMP_SENS_SMIN 0) 65535 x).toNat

/-- The light sensor's reads of a round (R328): each failed one counts and writes its record, each good one is kept, and a failed one
holds every scale. -/
def State.sensorRound (s : State) (light : List (Nat × Nat)) : State :=
  let addr := s.rg P.LAMP_SENS_ADDR 0
  let used := (List.range 4).filter fun k => s.rg (P.LAMP_SENS_REG + k) 0 ≠ 0
  if addr = 0 ∨ !s.expRuns then s
  else
    let res (k : Nat) : Nat := (light.getD k (1, 0)).1
    let value (k : Nat) : Nat :=
      let raw := (light.getD k (0, 0)).2 % 65536
      if s.rg P.LAMP_SENS_BE 0 = 1 then raw % 256 * 256 + raw / 256 else raw
    let s := used.foldl (fun s k =>
      let s := if s.drives then s.put (.i2c 8 addr [BitVec.ofNat 8 (s.rg (P.LAMP_SENS_REG + k) 0)] 2) else s
      if res k = 0 then s.setRg (P.LAMP_SENS_VAL + k) 0 (value k)
      else
        let s := s.bump P.LAMP_SENS_ERR 0
        s.record (s.lampSrc 0xFF) 0x2804 (le 1 k ++ le 1 (res k) ++ zeros 2 ++ le 4 (s.rg P.LAMP_SENS_ERR 0) ++ zeros 16)) s
    if s.lamp.st = 3 ∨ used.any (fun k => res k ≠ 0) then s else used.foldl (fun s k => s.sensorLoop k (value k)) s

/-- The lamp block at a management round: the NTC's value, or none while its channel is faulted; bus result and the two
bytes, first byte low, of each sensor register. -/
def State.lampRound (s : State) (ntc : Option Nat) (last : Nat) (light : List (Nat × Nat)) : State :=
  let dmin := s.rg P.LAMP_DER_MIN 0
  let d := match ntc with | some t => derate t (s.rg P.LAMP_DER_T0 0) (s.rg P.LAMP_DER_T1 0) dmin | none => dmin
  let s := s.setRg P.LAMP_DERATE 0 d
  let bad := ntc.isNone
  let tenths := fRound (fMul (ntc.getD last) (fOfInt 10))
  let note (s : State) (cause : Nat) : State :=
    s.record (s.lampSrc 0xFF) 0x2803 (le 2 (ofSigned 16 tenths) ++ le 2 d ++ le 1 cause ++ zeros 19)
  let s := if bad && !s.lamp.ntcBad then note s 1 else if !bad && s.lamp.ntcBad then note s 2 else s
  let s := s.updLamp fun l => { l with ntcBad := bad }
  (s.sensorRound light).lampChanged

/-! ## Commands (R333) -/

/-- LAMP_ENABLE on: configurations that R323 and R324 do not allow. -/
def State.lampCfgBad (s : State) : Bool :=
  let rows := s.rg P.LAMP_ROWS 0
  (rows > 1 && (s.rg P.LAMP_COMPAT 0 = 1 || 2 * s.pwmCycles < rows * (s.rg P.LAMP_ROW_BLANK 0 + 5000)))

/-- Begin the short test. -/
def State.lampTestBegin (s : State) (k : Ticket) (enable : Bool) : State :=
  let back := s.lamp.st
  ((s.updLamp fun l => { l with test := some ⟨k, s.now, enable, back⟩ }).lampTo 1).lampDark

def State.bodyLampEnable (c : Ctx) (s : State) : State :=
  let on := u8 c.payload 0
  s.unless c (firstBad [(on > 1 || (on = 1 && s.lampCfgBad), rBADPARAM)]) fun s =>
    if on = 0 then let s := s.lampOff; s.ok c s.lampMasks
    else
      let s := s.strobeStop
      if bit (u8 c.payload 1) 0 then let s := (if s.lamp.st = 2 then s else s.lampOn); s.ok c s.lampMasks
      else s.lampTestBegin c.k true

def State.bodyLampTest (c : Ctx) (s : State) : State :=
  s.unless c (firstBad [(s.lamp.st = 3, rBADSTATE)]) fun s => s.lampTestBegin c.k false

def State.bodyLampSet (c : Ctx) (s : State) : State :=
  let p := c.payload
  let n := u16 p 0
  let es := (List.range n).map fun i => (u8 p (4 + 4 * i), u8 p (5 + 4 * i), u16 p (6 + 4 * i))
  s.unless c (firstBad
      [(n = 0 || n > 64 || p.length ≠ 4 + 4 * n || es.any fun e => e.1 > 15 || e.2.1 > 3 || e.2.2 > s.dutyFull, rBADPARAM)])
    fun s =>
      if s.lampLit then
        let at_ := s.nextPeriod s.now
        s.updLamp fun l => { l with sets := l.sets ++ [(c.k, at_, es)], effAt := some (l.effAt.getD at_) }
      else s.lampApply c.k s.now es

def State.bodyLampPattern (c : Ctx) (s : State) : State :=
  let q := u8 c.payload 0
  let cur := (List.range 16).map fun i => u8 c.payload (4 + i)
  s.unless c (firstBad [(q > 7 || cur.any (· > 200), rBADPARAM)]) fun s =>
    (s.updLamp fun l => { l with patterns := l.patterns.set q cur }).ok c

def State.bodyLampStrobe (c : Ctx) (s : State) : State :=
  let on := u8 c.payload 0
  s.unless c (firstBad
      [(on > 1, rBADPARAM), (on = 1 && (s.lamp.st ≠ 2 || s.rg P.LAMP_ROWS 0 ≠ 1 || s.rg P.LAMP_COMPAT 0 ≠ 0), rBADSTATE)])
    fun s =>
      if on = 0 then s.strobeStop.ok c
      else
        let s := s.updLamp fun l => { l with step := 0, shown := 0, due := [] }
        ((s.lampTo 3).strobeRecord true).ok c

/-- Begin the first waiting transfer of the lamp's sensor bus. -/
def State.lampBus (s : State) : State :=
  match s.lamp.xfers with
  | [] => s
  | x :: r =>
    if x.begun then s
    else
      let s := s.updLamp fun l => { l with xfers := { x with begun := true } :: r }
      if s.drives then s.put (.i2c 8 x.dev x.data x.readLen) else s

def State.bodyLampI2cXfer (c : Ctx) (s : State) : State :=
  let p := c.payload
  s.unless c (firstBad [(u8 p 0 > 127 || u8 p 1 > 16 || u8 p 2 > 16, rBADPARAM)]) fun s =>
    let x : I2cXfer := ⟨c.k, u8 p 0, (p.drop 4).take (u8 p 1), u8 p 2, true, false⟩
    (s.updLamp fun l => { l with xfers := l.xfers ++ [x] }).lampBus

/-- At a takeover the new owner's outputs start at the next period start, or with the next strobe window, and it makes the transfers that
the old owner had not completed (R331). -/
def State.lampTakeover (s : State) (b : TS) : State :=
  let at_ := s.nextPeriod b
  let s := s.updLamp fun l =>
    { l.idleBus with
      liveAt := b
      holdTo := if l.st ≥ 2 then at_ else l.holdTo
      effAt := if l.st ≥ 2 then some at_ else l.effAt }
  s.lampBus

/-- Reply of a transfer: bus result, then the bytes read. -/
def i2cReply (result : Nat) (data : List Byte) (n : Nat) : List Byte :=
  le 1 result ++ zeros 3 ++ (data.take n ++ zeros 16).take 16

/-- The lamp's transfer ends. -/
def State.lampXferDone (s : State) (result : Nat) (data : List Byte) : State :=
  match s.lamp.xfers with
  | [] => s
  | x :: r =>
    if !x.begun then s
    else
      let s := s.updLamp fun l => { l with xfers := r }
      (s.decide x.k (if result = 0 then rOK else rFAULT) s.now (i2cReply result data x.readLen)).lampBus

end Sys2Proof.Machine
end

