-- ==== Sys2Proof/Machine/Vision.lean ====
section
/-!
DEFINITION. Camera pipelines (R293-R320, R332, R334): packets, frame numbers, output slots, statistics, blob records,
camera settings, triggers.
-/
namespace Sys2Proof.Machine

open Sys2Proof

def State.pipe (s : State) (p : Nat) : PipeSt := s.pipes.getD p pipeReset
def State.updPipe (s : State) (p : Nat) (f : PipeSt → PipeSt) : State := { s with pipes := s.pipes.modify p f }
def State.pipeSrc (s : State) (p : Nat) : Nat := s.srcPath 3 (p / 4) (p % 4)

/-- a minus b as 32-bit numbers that wrap, signed (R298). -/
def fnDiff (a b : Nat) : Int := toSigned 32 (ofSigned 32 ((a : Int) - b))

/-! ## Configuration -/

/-- The stage parameters latched at a frame start (R305): parameter numbers 0x10 to 0x3E. -/
def State.pipeCfg (s : State) (p : Nat) : List Nat := (List.range 47).map fun k => s.rg (P.PIPE_DPC_THR + k) p

/-- A latched parameter. -/
def cfgAt (c : List Nat) (pid : Nat) : Nat := c.getD (pid - P.PIPE_DPC_THR) 0

def State.imgCfg (s : State) (p : Nat) (c : List Nat) : ImgCfg where
  w := s.rg P.PIPE_WIDTH p
  h := s.rg P.PIPE_HEIGHT p
  cfa := s.rg P.PIPE_CFA p
  phase := s.rg P.PIPE_CFA_PHASE p
  dpcThr := cfgAt c P.PIPE_DPC_THR
  dpcRel := cfgAt c P.PIPE_DPC_REL
  snrStr := cfgAt c P.PIPE_SNR_STR
  snrSig := cfgAt c P.PIPE_SNR_SIG
  tnrK := cfgAt c P.PIPE_TNR_K
  tnrThr := cfgAt c P.PIPE_TNR_THR
  blk := (List.range 4).map fun k => cfgAt c (P.PIPE_BLK + k)
  ccm := (List.range 12).map fun k => toSigned 16 (cfgAt c (P.PIPE_CCM + k))
  ccmOfs := (List.range 3).map fun k => toSigned 16 (cfgAt c (P.PIPE_CCM_OFS + k))
  rtA := cfgAt c P.PIPE_RT_A
  rtB := cfgAt c P.PIPE_RT_B
  rtMin := cfgAt c P.PIPE_RT_MIN
  rtTmin := cfgAt c P.PIPE_RT_TMIN
  rtTmax := cfgAt c P.PIPE_RT_TMAX
  histPlane := cfgAt c P.PIPE_HIST_PLANE
  blobPlane := cfgAt c P.PIPE_BLOB_PLANE
  blobThr := cfgAt c P.PIPE_BLOB_THR
  spatMin := cfgAt c P.PIPE_SPAT_MIN
  spatMax := cfgAt c P.PIPE_SPAT_MAX

/-- Planes a frame accession holds (R307): bit 0 raw, 1-4 A-D, 5 Y; a plane the mosaic does not form is absent. -/
def planesOf (cfa out tnr : Nat) : List Nat :=
  let exists_ : List Nat := match cfa with | 0 => [0, 1] | 2 => [0, 1, 2, 3, 4, 5] | 4 => [0, 1, 2, 3, 4] | _ => [0, 1, 2, 3, 5]
  exists_.filter fun k => bit out k || (k = 0 && tnr = 1)

/-- Offsets of the planes of a frame accession, and its length. -/
def planeOffsets (size : Nat) (one : Bool) (ks : List Nat) : List (Nat × Nat) × Nat :=
  ks.foldl (fun (acc : List (Nat × Nat) × Nat) k =>
    (acc.1 ++ [(k, acc.2)], acc.2 + size * (if k = 0 then 2 else if one then 1 else 2))) ([], 64)

/-- Bytes a frame accession needs as the parameters stand (R307). -/
def State.frameBytes (s : State) (p : Nat) : Nat :=
  (planeOffsets (s.rg P.PIPE_WIDTH p * s.rg P.PIPE_HEIGHT p) (s.rg P.PIPE_OUT_8 p = 1)
    (planesOf (s.rg P.PIPE_CFA p) (s.rg P.PIPE_OUT_PLANES p) (s.rg P.PIPE_TNR_EN p))).2

/-! ## Slots (R306) -/

def slotNone : PSlot := ⟨noAcc, noAcc, noAcc, 3⟩

/-- Accessions of a slot. -/
def PSlot.accs (x : PSlot) : List Nat := [x.frame, x.stats] ++ (if x.comp = noAcc then [] else [x.comp])

/-- Slots that are free and hold a FREEING accession leave the ring, unless held as a reference. -/
def State.slotSweep (s : State) (p : Nat) : State :=
  forEach (List.range 16) (fun i s =>
    let q := s.pipe p
    let x := q.slots.getD i slotNone
    let held := match q.ref with | some r => r.slot = i | none => false
    let freeing := x.accs.any fun a => ((s.acc? a).map (·.state)) = some 3
    if x.owner = 0 ∧ !held ∧ freeing then
      let s := s.updPipe p fun q => { q with slots := q.slots.modify i fun x => { x with owner := 3 } }
      x.accs.foldl State.returnLoan s
    else s) s

/-- The slot a frame takes: the first free one after the last used, in ring order, but not the reference's. -/
def PipeSt.nextSlot (q : PipeSt) : Option Nat :=
  let n := q.slots.length
  ((List.range n).map fun i => (q.last + 1 + i) % n).find? fun i =>
    (q.slots.getD i slotNone).owner = 0 && !(match q.ref with | some r => r.slot = i | none => false)

def PipeSt.freeMask (q : PipeSt) : Nat :=
  ((List.range q.slots.length).map fun i => if (q.slots.getD i slotNone).owner = 0 then 2 ^ i else 0).sum

/-- The reference is no longer needed (R301). -/
def State.dropRef (s : State) (p : Nat) : State :=
  match (s.pipe p).ref with
  | none => s
  | some r => ((s.updPipe p fun q => { q with ref := none }).returnLoan r.acc).slotSweep p

/-! ## Camera settings (R314-R317) -/

/-- The generation frame f carries (R316). -/
def State.genOf (s : State) (p f : Nat) : Nat :=
  let q := s.pipe p
  let lat := s.rg P.PIPE_LAT p
  (q.wframes.filter fun w => fnDiff f ((w.2 + lat) % 2 ^ 32) ≥ 0).foldl (fun g w => max g w.1) q.baseGen

/-- The bus is free: the next commit begins when its turn has come, else the next single transfer (R315, R317). -/
def State.camBus (s : State) (p : Nat) : State :=
  let q := s.pipe p
  let busy := (q.commits.any (·.begun)) || q.xfers.any (·.begun)
  if busy then s
  else
    let next := match q.commits with
      | m :: _ => if !q.run || m.k.isSome then some m else (match q.ended with | some e => if fnDiff e m.f ≥ 1 then some m else none | none => none)
      | [] => none
    match next with
    | some m =>
      if !s.twin.own then s
      else
        let s := s.updPipe p fun q => { q with commits := q.commits.modify 0 fun m => { m with begun := true } }
        if s.drives then m.writes.foldl (fun s w => s.put (.i2c p w.1 w.2.2 0)) s else s
    | none =>
      match q.xfers with
      | x :: _ =>
        if !x.ready ∧ q.run then s
        else
          let s := s.updPipe p fun q => { q with xfers := q.xfers.modify 0 fun x => { x with begun := true } }
          if s.drives then s.put (.i2c p x.dev x.data x.readLen) else s
      | [] => s

/-- The bus of a pipeline with nothing begun: what was under way is made anew, whole (R320). -/
def PipeSt.idleBus (q : PipeSt) : PipeSt :=
  { q with
    commits := q.commits.map fun (m : Commit) => { m with begun := false }
    xfers := q.xfers.map fun (x : I2cXfer) => { x with begun := false, ready := !q.run } }

/-- A new owner makes what the old one had not completed, from the next frame end, or at once while STOPPED (R320). -/
def State.camTakeover (s : State) (p : Nat) : State :=
  (s.updPipe p fun q => { q.idleBus with ended := none }).camBus p

/-- The first commit's write frame w is known (R315, R320): made writes, bus result of the one that failed, or 0. A commit accepted
while STOPPED has given its generation to every frame since the next start. -/
def State.commitDone (s : State) (p made bus w : Nat) : State :=
  match (s.pipe p).commits with
  | [] => s
  | m :: rest =>
    let bad := bus ≠ 0
    let queued := m.k.isNone
    let s := s.updPipe p fun q =>
      { q with
        commits := rest
        wframes := if queued then q.wframes ++ [(m.gen, w)] else q.wframes
        badGens := if bad then q.badGens ++ [m.gen] else q.badGens }
    let s := if bad then
        let d := m.writes.getD made (0, 0, [])
        let seq := s.seqOf (s.pipeSrc p)
        (s.record (s.pipeSrc p) 0x3004
          (le 4 m.gen ++ le 1 made ++ le 1 bus ++ le 1 d.1 ++ zeros 1 ++ le 2 d.2.1 ++ zeros 14)).faultOn
            (s.pipeSrc p) clsContained 0x3004 seq
      else s
    let first := if queued then (w + s.rg P.PIPE_LAT p) % 2 ^ 32 else (w + 1) % 2 ^ 32
    let s := s.record (s.pipeSrc p) 0x3003 (le 4 m.gen ++ le 4 w ++ le 4 first ++ le 1 made ++ zeros 11)
    let s := match m.k with | some k => s.decide k rOK s.now (le 4 m.gen) | none => s
    s.camBus p

/-- CAM_COMMIT_DONE in the module that makes the writes; it tells its SHADOW. -/
def State.camCommitDone (s : State) (p made bus : Nat) : State :=
  match (s.pipe p).commits with
  | m :: _ =>
    if !m.begun then s
    else
      let made := min made m.writes.length
      let w := (s.pipe p).fn
      let tell := s.twin.state = 2 && !s.twin.lost
      let s := if tell then s.put (.twin 17 (le 1 p ++ le 4 m.gen ++ le 4 w ++ le 1 made ++ le 1 bus)) else s
      s.commitDone p made bus w
  | [] => s

/-- A pipeline's single transfer ends (R317, R332). -/
def State.camXferDone (s : State) (p result : Nat) (data : List Byte) : State :=
  match (s.pipe p).xfers with
  | [] => s
  | x :: r =>
    if !x.begun then s
    else
      let s := s.updPipe p fun q => { q with xfers := r }
      let s := if result = 0 then s
        else s.record (s.pipeSrc p) 0x3004
          (le 4 0xFFFFFFFF ++ le 1 0 ++ le 1 result ++ le 1 x.dev ++ zeros 1 ++ le 2 (unBe (x.data.take 1)) ++ zeros 14)
      (s.decide x.k (if result = 0 then rOK else rFAULT) s.now (i2cReply result data x.readLen)).camBus p

/-! ## Triggers (R318) -/

/-- CAMp_TRIG is activated. -/
def State.camActivate (s : State) (p : Nat) (t : TS) : State :=
  let s := s.updPipe p fun q => { q with trigAt := t }
  let s := if s.drives then s.put (.camTrigger p t (s.rg P.PIPE_TRIG_W p) (s.rg P.PIPE_TRIG_POL p = 0)) else s
  s.strobeFrom p false t

/-- Activations due by now. -/
def State.camTrigPump (s : State) (p : Nat) : State :=
  let due := (s.pipe p).trigs.filter fun t => t ≤ s.now
  let s := s.updPipe p fun q => { q with trigs := q.trigs.filter fun t => !(t ≤ s.now) }
  if s.expRuns then due.foldl (fun s t => s.camActivate p t) s else s

/-- An instant at which a periodic trigger is active. -/
def State.camPeriodic (s : State) (p : Nat) (t : TS) : Bool :=
  s.rg P.PIPE_TRIG_MODE p = 1 && t ≥ s.rg P.PIPE_TRIG_PHASE p &&
    (t - s.rg P.PIPE_TRIG_PHASE p) % s.rg P.PIPE_TRIG_PERIOD p = 0 && (s.pipe p).trigAt ≠ t

/-- The periodic activation within the frame that has just ended, if one fell there. -/
def State.camFrameTrig (s : State) (p : Nat) : State :=
  let ph := s.rg P.PIPE_TRIG_PHASE p
  let per := s.rg P.PIPE_TRIG_PERIOD p
  if s.rg P.PIPE_TRIG_MODE p ≠ 1 ∨ s.now < ph ∨ !s.expRuns then s
  else
    let t := ph + (s.now - ph) / per * per
    if t + 2560 > s.now ∧ t > (s.pipe p).trigAt then s.camActivate p t else s

/-- A rising edge of a trigger source reaches the camera triggers that follow it. Source 1 is the trigger ball of the
feedback port with the pipeline's number. -/
def State.camFollow (s : State) (src n : Nat) (t : TS) : State :=
  forEach (List.range s.nPipes) (fun p s =>
    if s.rg P.PIPE_TRIG_MODE p = 2 ∧ s.rg P.PIPE_TRIG_SRC p = src ∧ (src ≠ 1 ∨ n = p) then
      s.updPipe p fun q => { q with trigs := q.trigs ++ [t + s.rg P.PIPE_TRIG_DLY p] }
    else s) s

/-! ## Publishing (R308, R312, R313) -/

/-- The blob record is published in the pipeline's slot of the system pages and closes the statistics accession. -/
def State.blobPublish (s : State) (p : Nat) : State :=
  match (s.pipe p).done.find? fun d => !d.published with
  | none => s
  | some d =>
    let mark (l : List PDone) : List PDone := l.map fun (x : PDone) => if x.fn = d.fn then { x with published := true } else x
    let s := s.updPipe p fun q => { q with done := mark q.done, pub := d.blob }
    let b : Blob := ⟨d.fn, d.start, u32 d.blob 16, u32 d.blob 24, u16 d.blob 28, s.now⟩
    let s := { s with cns := { s.cns with blobs := s.cns.blobs.set p (some b) } }
    s.storeLive d.accs.stats 0 (d.stats ++ d.blob)

/-- Records due 20 µs after their frame's end. -/
def State.blobPump (s : State) (p : Nat) : State :=
  forEach (List.range (s.pipe p).done.length) (fun _ s =>
    match (s.pipe p).done.find? fun d => !d.published with
    | some d => if d.ended + 20000 ≤ s.now then s.blobPublish p else s
    | none => s) s

/-- A stopped pipeline whose last index entry is written decides its PIPE_STOP (R319). -/
def State.pipeStopDecide (s : State) (p : Nat) : State :=
  let q := s.pipe p
  if !q.done.isEmpty then s
  else (q.ending.foldl (fun s k => s.decide k rOK s.now (le 4 q.fn)) s).updPipe p fun q => { q with ending := [] }

/-- FRAME_INDEX_WRITE: the oldest ended frame whose accessions and compression are complete gets its entry. -/
def State.indexWrite (s : State) (p : Nat) : State :=
  match (s.pipe p).done with
  | [] => s
  | d :: rest =>
    if !d.published ∨ d.zip then s
    else
      let entry := le 4 d.fn ++ le 4 d.gen ++ le 8 d.start ++ le 4 d.accs.frame ++ le 4 d.accs.stats ++ le 4 d.comp ++
        le 1 d.place ++ le 1 d.pat ++ le 2 d.status
      let s := s.storeLive d.index (d.fn % 256 * 32) entry
      let s := s.updPipe p fun q =>
        { q with
          done := rest
          slots := match d.slot with | some i => q.slots.modify i fun x => { x with owner := 2 } | none => q.slots }
      (s.docEdge (125 + p)).pipeStopDecide p

/-! ## Frames (R294-R301) -/

/-- VIS_STATE, and the loans a pipeline holds only while it runs; the reference stays for the frame that comes next (R301). cause 1
command, 2 power state. -/
def State.pipeHalt (s : State) (p cause : Nat) : State :=
  let q := s.pipe p
  if !q.run then s
  else
    let s := if q.shade = noAcc then s else s.returnLoan q.shade
    let s := s.updPipe p fun q => { q with run := false, shade := noAcc, drop := [], cur := none, stops := [], ending := q.ending ++ q.stops }
    let s := (s.setRg P.PIPE_STATE p 0).record (s.pipeSrc p) 0x3001 (le 1 1 ++ le 1 0 ++ le 1 cause ++ zeros 1 ++ le 4 q.fn ++ zeros 16)
    s.camBus p

/-- Whether a shading grid can be used: its loan was taken and it holds no poison. -/
def State.shadeBad (s : State) (p : Nat) (c : List Nat) : Bool :=
  let acc := cfgAt c P.PIPE_SHADE_ACC
  acc ≠ noAcc && ((s.pipe p).shade ≠ acc || (s.firstPoison acc 0 (((s.acc? acc).map (·.size)).getD 0)).isSome)

/-- Gain node of a shading grid in 1/4096: unity where the accession is not such a grid (log entry 39). -/
def State.shadeNode (s : State) (acc k row col : Nat) : Nat :=
  if s.memNat acc 0 2 = 0x004C ∧ k < s.memNat acc 2 2 then s.memNat acc (8 + 442 * k + (row * 17 + col) * 2) 2 else 4096

/-- The samples of a raw plane in a frame accession. -/
def State.rawPlane (s : State) (acc w h : Nat) : Plane := mkPlane h w fun r c => s.memNat acc (64 + 2 * (r * w + c)) 2

/-- The reference that is held serves a frame of number fn, channel vc and generation gen (R301). -/
def State.refUsable (s : State) (p fn vc gen : Nat) : Option PRef :=
  match (s.pipe p).ref with
  | none => none
  | some r =>
    if (r.fn + 1) % 2 ^ 32 = fn ∧ r.vc = vc ∧ r.w = s.rg P.PIPE_WIDTH p ∧ r.h = s.rg P.PIPE_HEIGHT p ∧ r.gen = gen ∧
      (s.firstPoison r.acc 64 (2 * r.w * r.h)).isNone then some r else none

/-- The frame in progress ends (R295-R301, R307-R313): its lines pass the stages, its planes are written, and its
statistics wait to be published. -/
def State.frameEnd (s : State) (p : Nat) (f : PFrame) (truncated fnBad : Bool) : State :=
  let c := f.cfg
  let g := s.imgCfg p c
  let tnr := cfgAt c P.PIPE_TNR_EN
  let good (r : Nat) : Bool := (f.lines.getD r none).isSome
  let nGood := (f.lines.filter (·.isSome)).length
  let nBad := g.h - nGood
  let raw0 : Plane := ((fillLines (cfaPeriod g.cfa) g.w f.lines g.h).map (·.toArray)).toArray
  let (p1, outliers) := stage1 g raw0
  let ref := if tnr = 1 then s.refUsable p f.fn f.vc f.gen else none
  let raw := match ref with | some r => stage2 g p1 (s.rawPlane r.acc r.w r.h) | none => p1
  let passed := tnr = 1 && ref.isNone
  let noShade := s.shadeBad p c
  let p3 := stage3 g raw
  let acc := cfgAt c P.PIPE_SHADE_ACC
  let p4 := if acc = noAcc ∨ noShade then p3 else stage4 g (s.shadeNode acc) p3
  let planes := convert g p4
  let badGen := (s.pipe p).badGens.contains f.gen || noShade
  let status := b2n truncated + 2 * b2n (nBad > 0) + 4 * b2n f.mixed + 8 * b2n passed + 16 * b2n badGen + 32 * b2n f.ovf +
    64 * b2n fnBad + 128 * b2n f.slot.isNone
  -- counts and records
  let s := s.bumpBy P.PIPE_DPC_CNT p outliers
  let s := if passed then s.bump P.PIPE_TNR_RST p else s
  let s := if truncated || nBad > 0 || f.mixed || f.ovf || fnBad then
      s.record (s.pipeSrc p) 0x3005 (le 4 f.fn ++ le 2 status ++ le 2 nBad ++ le 2 f.ecc ++ zeros 14) else s
  -- the frame accession
  let slot := match f.slot with | some i => (s.pipe p).slots.getD i slotNone | none => slotNone
  let size := ((s.acc? slot.frame).map (·.size)).getD 0
  let one := cfgAt c P.PIPE_OUT_8 = 1
  let ks := planesOf g.cfa (cfgAt c P.PIPE_OUT_PLANES) tnr
  let (offs, total) := planeOffsets (g.w * g.h) one ks
  let (offs, _) := if total ≤ size ∨ f.slot.isNone then (offs, total)
    else planeOffsets (g.w * g.h) one (ks.filter (· ≠ 0))
  let offOf (k : Nat) : Nat := ((offs.find? fun x => x.1 = k).map (·.2)).getD 0
  let head := le 2 0x0046 ++ le 1 p ++ le 1 g.cfa ++ le 4 f.fn ++ le 4 f.gen ++ le 2 status ++
    le 2 ((offs.map fun x => 2 ^ x.1).sum) ++ le 8 f.start ++ le 2 g.w ++ le 2 g.h ++ le 1 (if one then 1 else 2) ++ zeros 3 ++
    ((List.range 6).flatMap fun k => le 4 (offOf k)) ++ zeros 8
  let body := offs.flatMap fun x =>
    if x.1 = 0 then planeBytes g false raw else planeBytes g one ((planes.getD (x.1 - 1) none).getD #[])
  let s := if f.slot.isNone then s else s.storeData slot.frame 0 (head ++ body)
  -- statistics and blob record
  let b := blobStats g good planes
  let blob := le 4 f.fn ++ le 4 f.gen ++ le 8 f.start ++ le 4 b.area ++ le 2 b.cx ++ le 2 b.cy ++ le 4 b.peak ++ le 2 b.spat ++
    le 2 (b2n (nBad > 0) + 2 * b2n f.mixed + 4 * b2n b.past + 8 * b2n badGen + 16 * b2n passed)
  let histP := if g.histPlane = 0 then raw else (planes.getD (g.histPlane - 1) none).getD #[]
  let hist := if histP.isEmpty then List.replicate 256 0 else histogram g good histP
  let stats := le 2 0x0053 ++ le 1 p ++ le 1 g.cfa ++ le 4 f.fn ++ le 4 f.gen ++ le 4 status ++ le 8 f.start ++ le 8 s.now ++
    le 2 g.w ++ le 2 g.h ++ le 2 nGood ++ le 2 nBad ++ le 4 outliers ++ le 1 g.histPlane ++ le 1 f.pat ++ zeros 2 ++
    le 8 f.patTs ++ zeros 8 ++ (hist.flatMap (le 4)) ++
    ((List.range 4).flatMap fun k => (zoneMeans g good (planes.getD k none)).flatMap (le 2))
  -- the reference of the next frame
  let s := s.dropRef p
  let s := match f.slot with
    | some i =>
      if offs.any (·.1 = 0) ∧ nBad = 0 then
        (s.takeLoan slot.frame).updPipe p fun q => { q with ref := some ⟨f.fn, i, slot.frame, f.vc, g.w, g.h, f.gen⟩ }
      else s
    | none => s
  -- compression
  let wants := (s.pipe p).deflate && f.slot.isSome && slot.comp ≠ noAcc
  let (queued, s) := if wants then
      s.zipPipe ⟨2, 0, 0, 0, 0, true, slot.frame, 0, size, slot.comp, noAcc, p * 2 ^ 32 + f.fn, none⟩ else (false, s)
  let s := if queued then (s.takeLoan slot.frame).updAcc slot.comp fun a => { a with state := if a.state = 0 then 1 else a.state } else s
  let status := status + (if wants && !queued then 2 ^ 9 else 0)
  let d : PDone := ⟨f.fn, f.gen, f.start, s.now, f.slot, status, f.pat, stats, blob, false, queued, noAcc, (s.pipe p).index,
    if f.slot.isNone then slotNone else slot, f.slot.getD 0xFF⟩
  let dropOwn : List (Nat × Option TS) := if f.mixed then [(f.vc, some (s.now + s.rg P.PIPE_FRAME_TMO p * 1000000))] else []
  let s := s.updPipe p fun q =>
    { q with cur := none, done := q.done ++ [d], ended := some f.fn, drop := q.drop ++ dropOwn,
             xfers := q.xfers.map fun (x : I2cXfer) => { x with ready := true } }
  let s := s.camBus p
  if (s.pipe p).stops.isEmpty then s else s.pipeHalt p 1

/-- Pipelines that take a packet of a port and channel (R295). -/
def State.pipesOn (s : State) (port vc : Nat) : List Nat :=
  if !s.expRuns then []
  else (List.range s.nPipes).filter fun p =>
    (s.pipe p).run && s.rg P.PIPE_SRC_PORT p = port && bit (s.rg P.PIPE_VC_MASK p) vc

/-- A packet has come over a camera port: its lanes are in sync and its clock lane is active, for every pipeline on that port. Whether
deskew is done by then is open (R293; log entry 112). -/
def State.phySync (s : State) (port : Nat) : State :=
  if !s.expRuns then s
  else
    let ps := (List.range s.nPipes).filter fun p => s.rg P.PIPE_SRC_PORT p = port
    let (v, s) := if ps.any fun p => s.rg P.PIPE_PHY_STAT p = 0 then s.draw else (0, s)
    ps.foldl (fun s p =>
      let old := s.rg P.PIPE_PHY_STAT p
      s.setRg P.PIPE_PHY_STAT p (2 ^ s.rg P.PIPE_LANES p - 1 + 16 + 32 * (if old = 0 then v % 2 else old / 32))) s

/-- The region's clocks stand: no lane is in sync. -/
def State.phyOff (s : State) : State := forEach (List.range s.nPipes) (fun p s => s.setRg P.PIPE_PHY_STAT p 0) s

/-- An ECC error in a header of the channel in progress is counted for its frame (R334). -/
def State.eccNote (s : State) (p vc : Nat) : State :=
  s.updPipe p fun q => { q with cur := q.cur.map fun (f : PFrame) => if f.vc = vc then { f with ecc := f.ecc + 1 } else f }

/-- A packet header: corrected and uncorrectable ECC errors are counted; false: the packet is discarded (R294). -/
def State.csiHeader (s : State) (p vc ecc : Nat) : Bool × State :=
  let note (s : State) : State := s.eccNote p vc
  if ecc = 1 then (true, note (s.bump P.PIPE_ECC_FIX p))
  else if ecc = 2 then (false, note (s.bump P.PIPE_ECC_ERR p))
  else (true, s)

/-- A channel whose packets are being discarded (R296); a discard that has lasted FRAME_TMO is over. -/
def State.dropping (s : State) (p vc : Nat) : Bool × State :=
  let s := s.updPipe p fun q => { q with drop := q.drop.filter fun d => match d.2 with | some t => s.now < t | none => true }
  ((s.pipe p).drop.any fun d => d.1 = vc, s)

/-- The shading grid of the frame that begins (R302, R305). -/
def State.shadeLatch (s : State) (p acc : Nat) : State :=
  let q := s.pipe p
  if q.shade = acc then s
  else
    let s := if q.shade = noAcc then s else s.returnLoan q.shade
    if acc = noAcc ∨ (s.loanCheck acc).isSome then s.updPipe p fun q => { q with shade := noAcc }
    else (s.takeLoan acc).updPipe p fun q => { q with shade := acc }

/-- A frame start opens a frame (R295, R298, R306, R316, R330). Its number, channel and generation are known, so a reference that
cannot serve it is let go before the frame takes its slot (R301; log entry 92). Its pattern is read once the windows that start by its
stamp have started, one of its own frame start with them (R330). -/
def State.frameOpen (s : State) (p vc n : Nat) : State :=
  let q := s.pipe p
  let one := s.rg P.PIPE_FN_MODE p = 0 || n = 0 || q.first
  let d := ((n : Int) - q.nLast) % (s.rg P.PIPE_FN_WRAP p : Int)
  let s := if !one ∧ d = 0 then s.bump P.PIPE_FN_ERR p else s
  let fn := (q.fn + (if one ∨ d = 0 then 1 else d.toNat)) % 2 ^ 32
  let cfg := s.pipeCfg p
  let s := s.shadeLatch p (cfgAt cfg P.PIPE_SHADE_ACC)
  let gen := s.genOf p fn
  let s := if cfgAt cfg P.PIPE_TNR_EN = 1 && (s.refUsable p fn vc gen).isSome then s else s.dropRef p
  let slot := (s.pipe p).nextSlot
  let s := if slot.isNone then s.bump P.PIPE_NO_SLOT p else s
  let f : PFrame := ⟨vc, n, fn, slot, s.now, s.now, [], 0, false, false, gen, 0xFF, 0, cfg⟩
  let s := s.updPipe p fun q =>
    { q with
      fn := fn, nLast := n, first := false, cur := some f
      last := slot.getD q.last
      slots := match slot with | some i => q.slots.modify i fun x => { x with owner := 1 } | none => q.slots }
  let s := s.setRg P.PIPE_FN p fn
  let s := if (s.pipe p).badGens.contains gen then s else s.faultOff (s.pipeSrc p) clsContained
  let s := (s.latchSource (30 + p) true s.now).camFollow (30 + p) p s.now
  let s := if s.rg P.PIPE_TRIG_MODE p = 3 then
      s.updPipe p fun q => { q with trigs := q.trigs ++ [s.now + s.rg P.PIPE_TRIG_DLY p] } else s
  let s := forEach (List.range s.nPipes) (fun p s => s.camTrigPump p) (s.strobeFrom p true s.now)
  let s := s.windowPump
  let (pat, patTs) := s.framePattern s.now
  s.updPipe p fun q => { q with cur := q.cur.map fun (f : PFrame) => { f with pat := pat, patTs := patTs } }

/-- CSI_FRAME_START at a pipeline: opens a frame, or is a second frame start (R296). -/
def State.csiStart (s : State) (p vc n ecc : Nat) : State :=
  let (ok, s) := s.csiHeader p vc ecc
  if !ok then s
  else
    let (off, s) := s.dropping p vc
    if off then s
    else match (s.pipe p).cur with
    | none =>
      let s := s.frameOpen p vc n
      if ecc = 1 then s.eccNote p vc else s
    | some f =>
      let s := (s.bump P.PIPE_DROP_2ND p).record (s.pipeSrc p) 0x3002
        (le 1 f.vc ++ le 1 vc ++ le 2 f.n ++ le 2 n ++ zeros 2 ++ le 4 f.fn ++ zeros 12)
      if vc = f.vc then s.updPipe p fun q => { q with cur := some { f with mixed := true, lastPkt := s.now } }
      else s.updPipe p fun q => { q with drop := q.drop ++ [(vc, none)] }

/-- Bits of a sample of a RAW type. -/
def rawBits (dtype : Nat) : Nat := match dtype with | 0x2B => 10 | 0x2C => 12 | 0x2D => 14 | _ => 16

/-- CSI_LINE at a pipeline (R294, R297). -/
def State.csiLine (s : State) (p vc : Nat) (l : CsiLine) : State :=
  let (ok, s) := s.csiHeader p vc l.ecc
  if !ok then s
  else if l.dtype = 2 ∨ l.dtype = 3 then s
  else
    let (off, s) := s.dropping p vc
    let type := s.rg P.PIPE_DTYPE p
    if l.dtype ≠ type then s.bump P.PIPE_DT_SKIP p
    else if off then s
    else match (s.pipe p).cur with
    | none => s
    | some f =>
      if f.vc ≠ vc then s
      else
        let f := { f with lastPkt := s.now }
        let w := s.rg P.PIPE_WIDTH p
        let nb := rawBits type
        let full := f.lines.length ≥ s.rg P.PIPE_HEIGHT p
        let bad := !l.crcOk || l.words * 8 ≠ w * nb || l.samples.length ≠ w
        let s := if l.overflow then s.bump P.PIPE_IN_OVF p else s
        let s := if full || bad || l.overflow then s.bump P.PIPE_LINE_BAD p else s
        let line : Option (List Nat) := if bad || l.overflow then none
          else some (l.samples.map fun v => v % 2 ^ nb * 2 ^ (16 - nb))
        let f := { f with lines := if full then f.lines else f.lines ++ [line], ovf := f.ovf || l.overflow }
        s.updPipe p fun q => { q with cur := some f }

/-- CSI_FRAME_END at a pipeline (R295, R296). -/
def State.csiEnd (s : State) (p vc n ecc : Nat) : State :=
  let (ok, s) := s.csiHeader p vc ecc
  if !ok then s
  else
    let (off, s) := s.dropping p vc
    if off then s.updPipe p fun q => { q with drop := q.drop.filter fun d => d.1 ≠ vc }
    else match (s.pipe p).cur with
    | none => s
    | some f =>
      if f.vc ≠ vc then s
      else
        let s := if n ≠ f.n then s.bump P.PIPE_FN_ERR p else s
        s.frameEnd p f false (n ≠ f.n)

/-- FRAME_TIMEOUT: no packet for FRAME_TMO ends the frame as truncated (R297). -/
def State.frameTimeout (s : State) (p : Nat) : State :=
  match (s.pipe p).cur with
  | none => s
  | some f => if s.now < f.lastPkt + s.rg P.PIPE_FRAME_TMO p * 1000000 then s else s.frameEnd p f true false

/-! ## Commands (R332) -/

/-- PIPE_STOP in mode 1, a Stop of the region, or the power state: the frame in progress is abandoned (R319). -/
def State.pipeAbandon (s : State) (p cause : Nat) : State :=
  let q := s.pipe p
  let s := match q.cur with
    | some f => match f.slot with
      | some i => s.updPipe p fun q => { q with slots := q.slots.modify i fun x => { x with owner := 0 } }
      | none => s
    | none => s
  (((s.updPipe p fun q => { q with cur := none }).pipeHalt p cause).slotSweep p).pipeStopDecide p

/-- The configuration a start needs beyond the ranges of single parameters. -/
def State.pipeCfgBad (s : State) (p : Nat) : Bool :=
  let q := s.pipe p
  let need := s.frameBytes p
  !fLt (s.rg P.PIPE_RT_TMIN p) (s.rg P.PIPE_RT_TMAX p) || s.rg P.PIPE_SPAT_MAX p < s.rg P.PIPE_SPAT_MIN p ||
  s.rg P.PIPE_TRIG_PHASE p ≥ s.rg P.PIPE_TRIG_PERIOD p || s.rg P.PIPE_SRC_PORT p ≥ s.nPipes ||
  q.slots.any fun x => x.owner ≠ 3 && ((s.acc? x.frame).map (·.size)).getD 0 < need

def State.bodyPipeStart (c : Ctx) (s : State) : State :=
  let p := u8 c.payload 0
  let shade := s.rg P.PIPE_SHADE_ACC p
  let clash := (List.range s.nPipes).any fun q =>
    (s.pipe q).run && s.rg P.PIPE_SRC_PORT q = s.rg P.PIPE_SRC_PORT p &&
      Nat.land (s.rg P.PIPE_VC_MASK q) (s.rg P.PIPE_VC_MASK p) ≠ 0
  let bad := firstBad
    [(p ≥ s.nPipes, rBADPARAM), ((s.pipe p).slots.isEmpty, rBADSTATE), (s.pipeCfgBad p, rBADPARAM), (clash, rBADSTATE)]
  let bad := match bad with | some r => some r | none => if shade = noAcc then none else s.loanCheck shade
  s.unless c bad fun s =>
    let s := s.shadeLatch p shade
    let s := s.updPipe p fun q => { q with run := true, first := true, cur := none, drop := [], ended := none }
    let s := s.setRg P.PIPE_STATE p 1
    (s.record (s.pipeSrc p) 0x3001 (le 1 0 ++ le 1 1 ++ le 1 1 ++ zeros 1 ++ le 4 (s.pipe p).fn ++ zeros 16)).ok c

def State.bodyPipeStop (c : Ctx) (s : State) : State :=
  let p := u8 c.payload 0
  let mode := u8 c.payload 1
  s.unless c (firstBad [(p ≥ s.nPipes || mode > 1, rBADPARAM)]) fun s =>
    if mode = 1 then let s := s.pipeAbandon p 1; s.ok c (le 4 (s.pipe p).fn)
    else
      let q := s.pipe p
      if q.run then
        let s := s.updPipe p fun q => { q with stops := q.stops ++ [c.k] }
        if q.cur.isSome then s else (s.pipeHalt p 1).pipeStopDecide p
      else (s.updPipe p fun q => { q with ending := q.ending ++ [c.k] }).pipeStopDecide p

def State.bodyPipeBufs (c : Ctx) (s : State) : State :=
  let b := c.payload
  let p := u8 b 0
  let k := u8 b 1
  let deflate := bit (u8 b 2) 0
  let index := u32 b 4
  let slots : List PSlot := (List.range k).map fun i => ⟨u32 b (8 + 12 * i), u32 b (12 + 12 * i), if deflate then u32 b (16 + 12 * i) else noAcc, 0⟩
  let accs := index :: slots.flatMap fun x => [x.frame, x.stats] ++ (if deflate then [x.comp] else [])
  let loans := accs.map s.loanCheck
  let size (a : Nat) : Nat := ((s.acc? a).map (·.size)).getD 0
  let need := s.frameBytes p
  let badSlot (x : PSlot) : Bool :=
    accPool x.frame ≠ 2 || accPool x.stats ≠ 3 || size x.frame < need || size x.stats < 3168 || (deflate && accPool x.comp ≠ 2)
  s.unless c (firstBad
      [(p ≥ s.nPipes || k = 0 || k > 16 || b.length ≠ 8 + 12 * k, rBADPARAM), ((s.pipe p).run, rBADSTATE),
       (loans.contains (some rBADPARAM), rBADPARAM), (loans.contains (some rBADSTATE), rBADSTATE),
       (accPool index ≠ 6 || size index < 8192 || slots.any badSlot, rBADPARAM)])
    fun s =>
      let old := (s.pipe p).slots.flatMap fun x => if x.owner = 3 then [] else x.accs
      let s := accs.foldl State.takeLoan s
      let s := old.foldl State.returnLoan s
      let s := if (s.pipe p).index = noAcc then s else s.returnLoan (s.pipe p).index
      let s := s.updPipe p fun q => { q with
        done := q.done.map fun (d : PDone) => { d with slot := none }
        ref := q.ref.map fun (r : PRef) => { r with slot := 16 } }
      (s.updPipe p fun q => { q with index := index, slots := slots, last := k - 1, deflate := deflate }).ok c

def State.bodyPipeRelease (c : Ctx) (s : State) : State :=
  let p := u8 c.payload 0
  let mask := u16 c.payload 2
  s.unless c (firstBad [(p ≥ s.nPipes, rBADPARAM)]) fun s =>
    let s := forEach (List.range 16) (fun i s =>
      if bit mask i then
        s.updPipe p fun q => { q with slots := q.slots.modify i fun x => if x.owner = 2 then { x with owner := 0 } else x }
      else s) s
    let s := s.slotSweep p
    s.ok c (le 2 (s.pipe p).freeMask ++ zeros 2)

/-- One write of a commit: device, register, bytes as sent on the bus; none where its sizes are out of range (R314). -/
def commitWrite (b : List Byte) : Option (Nat × Nat × List Byte) :=
  let sz := u8 b 1
  let reg := sz % 4
  let dat := sz / 4 % 4
  if reg = 0 ∨ reg = 3 ∨ dat = 3 ∨ sz ≥ 16 ∨ u8 b 0 > 127 then none
  else some (u8 b 0, u16 b 2 % 256 ^ reg, be reg (u16 b 2) ++ be (2 ^ dat) (u32 b 4))

/-- The queue of commits is full: the command waits (R314). -/
def State.commitFull (s : State) (p : Nat) : Bool := (s.pipe p).commits.length ≥ 8

def State.bodyCamCommit (c : Ctx) (s : State) : State :=
  let b := c.payload
  let p := u8 b 0
  let k := u8 b 1
  let ws := (List.range k).map fun i => commitWrite (b.drop (4 + 8 * i))
  s.unless c (firstBad
      [(p ≥ s.nPipes || k = 0 || k > 32 || b.length ≠ 4 + 8 * k || ws.any (·.isNone), rBADPARAM)])
    fun s =>
      let q := s.pipe p
      let gen := (q.gen + 1) % 2 ^ 32
      let m : Commit := ⟨gen, ws.filterMap id, if q.run then none else some c.k, c.seq, q.fn, false⟩
      let s := s.updPipe p fun q =>
        { q with gen := gen, commits := q.commits ++ [m], baseGen := if q.run then q.baseGen else gen }
      let s := s.setRg P.PIPE_GEN p gen
      (if q.run then s.queued c (le 4 gen) else s).camBus p

def State.bodyCamI2cXfer (c : Ctx) (s : State) : State :=
  let b := c.payload
  let p := u8 b 0
  s.unless c (firstBad [(p ≥ s.nPipes || u8 b 1 > 127 || u8 b 2 > 16 || u8 b 3 > 16, rBADPARAM)]) fun s =>
    let x : I2cXfer := ⟨c.k, u8 b 1, (b.drop 4).take (u8 b 2), u8 b 3, !(s.pipe p).run, false⟩
    (s.updPipe p fun q => { q with xfers := q.xfers ++ [x] }).camBus p

def State.bodyPipeStatus (c : Ctx) (s : State) : State :=
  let p := u8 c.payload 0
  s.unless c (firstBad [(p ≥ s.nPipes, rBADPARAM)]) fun s =>
    let q := s.pipe p
    s.ok c (le 1 (b2n q.run) ++ zeros 1 ++ le 2 q.freeMask ++ le 4 q.fn ++ le 4 q.gen ++ q.pub)

/-- What of the vision region falls due by now. -/
def State.visPump (s : State) : State :=
  forEach (List.range s.nPipes) (fun p s => ((s.camTrigPump p).blobPump p).slotSweep p) s

end Sys2Proof.Machine
end

