-- ==== Sys2Proof/Machine/Power.lean ====
section
/-!
DEFINITION. Power states (R437-R443), the EXPOSE permit (R440), the safe states of the outputs (R422, R445), STANDBY and the time
it takes (R385, R475).
-/
namespace Sys2Proof.Machine

open Sys2Proof

def State.updPower (s : State) (f : PowerSt → PowerSt) : State := { s with power := f s.power }

/-- Source path of the Curator block (R478). -/
def State.curatorSrc (s : State) : Nat := s.srcPath 0 0 0xFF

/-! ## Outputs and the twin state -/

/-- A laser port goes to its reset-safe state: gate and MOD low, AOUT 0 V, or let go of where `hiZ` says so (R412, R445). -/
def State.laserOff (s : State) (hiZ : Bool) (n : Nat) : State :=
  let s := (s.forceGateLow n).modTo n s.now false
  let s := s.putOwn (.aout n s.now (if hiZ then none else some 0))
  s.updBeam n fun b => { b with laser := { b.laser with aout := 0 } }

/-- Every machine-facing output goes to its reset-safe state, or, of a module that lets go of the machine or whose TWIN_KILL_IN
is asserted, to high impedance (R412, R422, R445). -/
def State.outputsOff (s : State) (letGo : Bool) : State :=
  let hiZ := letGo || s.killed
  let s := forEach (List.range s.nBeams) (fun n s => s.laserOff hiZ n) s
  let s := forEach (List.range 6) (fun a s => if (s.stp a).on then s.put (.coils a s.now none) else s) s
  -- inactive at the reset polarity, which is low
  let s := forEach [0, 1] (fun b s => s.putOwn (.sdEnable b s.now (if hiZ then none else some false))) s
  if s.lamp.st = 0 then s else s.put (.lampDuties s.now (List.replicate 64 0))

/-- TWIN_STATE (R435): causes 1 negotiation, 2 partner lost, 3 digest, 4 kill, 5 Fatal, 6 takeover, 7 grade or firmware. -/
def State.twinTo (s : State) (st cause : Nat) : State :=
  let from_ := s.twin.state
  if from_ = st then s
  else
    let old := s.servoSrc
    let s := s.updTwin fun t => { t with state := st }
    let s := s.record (s.srcPath 0 3 0) 0x6001
      (le 1 from_ ++ le 1 st ++ le 1 cause ++ le 1 s.twin.partner ++ le 4 s.twin.partnerFw ++ zeros 16)
    let s := if s.twin.paired && s.twin.linkUp then s.put (.twin 1 (le 1 st)) else s
    s.servoSrcSet old

/-- The bias at NTC_P and NTC_M, in µA: the node is shared by a pair, and only the module that holds TWIN_OWN drives it (R501). -/
def State.ntcBias (s : State) : Nat := if s.twin.own then 100 else 0

/-- TWIN_OWN is given up. -/
def State.releaseOwn (s : State) : State :=
  if s.twin.own then
    let s := s.updTwin fun t => { t with own := false, ownAt := s.now, hbStop := true, killOut := false }
    s.put (.ntcBias s.ntcBias)
  else s

/-- The Fatal safe state (R403, R422). -/
def State.fatalSafe (s : State) : State := ((s.outputsOff false).releaseOwn).twinTo 6 5

/-! ## The permit (R440) -/

/-- Level of an ILK input after ILK_POL (R464). -/
def State.ilkLevel (s : State) (k : Nat) : Bool := bit s.power.ilkPins k != bit (s.rg P.SYS_ILK_POL 0) k

/-- A temperature channel is in warn (R459). -/
def State.tempWarn (s : State) : Bool := (s.power.hk.take 19).any (·.warn)

/-- The bits of PERMIT. -/
def State.permit (s : State) : Nat :=
  b2n (!s.power.safety) +
  2 * b2n ((List.range 4).all fun k => !bit (s.rg P.SYS_ILK_EN 0) k || s.ilkLevel k) +
  4 * b2n (s.chipClass < clsStop) + 8 * b2n (!s.tempWarn)

/-- What the owner session was owed and the SHADOW did not hold is left to the new owner (R417). -/
def State.dropUnmirrored (s : State) : State :=
  let s := s.updTwin fun t => { t with held := [], fwd := [] }
  s.updSession 0 fun x => { x with streams := x.streams.map fun q =>
    { q with waiting := [], slots := q.slots.map fun (sl : Slot) => if sl.delivered then sl else { sl with mirror := 3 } } }

/-! ## Transitions (R438) -/

/-- PWR_STATE (R478): causes 1 request, 2 permit lost, 3 wake, 4 shutdown, 5 twin. -/
def State.pwrRecord (s : State) (from_ dest cause wake : Nat) : State :=
  s.record s.curatorSrc 0x0001 (le 1 from_ ++ le 1 dest ++ le 1 cause ++ zeros 1 ++ le 2 wake ++ zeros 18)

/-- The EXP, MOT, CNS and VIS domains start: the Gallery map is judged by the stop's length (R158), head links train (R222). -/
def State.planeStart (s : State) : State :=
  let s := if s.gal.expOn then s
    else if s.now ≥ s.gal.expStop + 4096000000 then { s with gal := { s.gal with cells := [], sweptAt := s.now } } else s
  let s := { s with gal := { s.gal with expOn := true } }
  s.lampResume.headClock true

/-- They stop: hysteretic outputs off (R194), head ports OFF (R222), pipelines stop as in mode 1 (R319), the lamp dark (R321). -/
def State.planeStop (s : State) : State :=
  let s := s.cnsStop
  let s := s.headClock false
  let s := forEach (List.range s.nPipes) (fun p s => if (s.pipe p).run then s.pipeAbandon p 2 else s) s
  let s := s.phyOff.lampStand
  { s with gal := { s.gal with expOn := false, expStop := s.now } }

/-- The power state becomes another one. -/
def State.powerTo (s : State) (dest cause wake : Nat) : State :=
  let from_ := s.power.state
  if from_ = dest then s
  else
    let s := s.updPower fun p => { p with state := dest }
    let s := s.pwrRecord from_ dest cause wake
    let plane (x : Nat) : Bool := x = 3 || x = 4
    let s := if plane dest && !plane from_ then s.planeStart else if plane from_ && !plane dest then s.planeStop else s
    -- R441: the ACTIVE tells its SHADOW, with the boundary
    if s.twin.state = 2 && !s.twin.lost then s.put (.twin 9 (le 1 dest ++ le 8 ((s.now + 2559) / 2560 * 2560))) else s

/-- EXPOSE is left at a tick: beams in RUN are interrupted with cause 3 (R130, R440). -/
def State.leaveExpose (s : State) (cause : Nat) : State :=
  if s.power.state ≠ 4 then s
  else
    let s := s.powerTo 3 cause 0
    s.causedBy s.log.lastTs fun s =>
      forEach (List.range s.nBeams) (fun n s => if (s.beam n).st = 3 then s.interrupt n 3 else s) s

/-- A POWER_REQUEST is decided with the state reached. -/
def State.powerDecide (s : State) (res : Nat) : State :=
  match s.power.req with
  | none => s
  | some q => (s.decide q.k res s.now (le 1 s.power.state ++ zeros 3)).updPower fun p => { p with req := none }

/-- A condition of the path fails (R439). -/
def State.powerBad (s : State) (target : Nat) : Bool :=
  let st := s.power.state
  (st = 4 && target < 4 && s.beams.any fun b => b.st = 3 || b.st = 4) ||
  (st ≥ 3 && target ≤ 2 && (s.beams.any (fun b => b.st ≠ 0) || s.mot.cells.any fun c => c.st ≠ 0)) || st = 5

/-- The steps before STANDBY (R442): pipelines and jobs end, the open segment is sealed, and when its compression has ended the
request is decided, with the instant at which the clocks stop. -/
def State.standbyStep (s : State) : State :=
  match s.power.req with
  | none => s
  | some q =>
    if q.target ≠ 1 ∨ s.power.state ≠ 2 then s
    else
      let s := if q.leaving then s
        else
          let s := forEach (List.range s.nPipes) (fun p s => if (s.pipe p).run then s.pipeAbandon p 2 else s) s
          (s.zipCancelAll.catSeal).updPower fun p => { p with req := some { q with leaving := true } }
      if s.log.segs.any fun g => g.job.isSome then s
      else
        let stop := s.now + 1000000
        ((s.decide q.k rOK stop (le 1 1 ++ zeros 3)).updPower fun p => { p with req := none, stbyAt := some stop })

/-- A request has come as far as it can at this point. -/
def State.powerPump (s : State) : State :=
  match s.power.req with
  | none => s
  | some q => if q.target ≠ 1 ∧ s.power.state = q.target then s.powerDecide rOK else s.standbyStep

/-- A POWER_REQUEST waits while another one is under way or the clocks are about to stop. -/
def State.powerBusy (s : State) : Bool := s.power.req.isSome || s.power.stbyAt.isSome

def State.bodyPowerRequest (c : Ctx) (s : State) : State :=
  let t := u8 c.payload 0
  s.unless c (firstBad [(t = 0 || t > 4, rBADPARAM), (s.power.state = 5, rBADSTATE)]) fun s =>
    if t = s.power.state then s.ok c (le 1 t ++ zeros 3)
    else if s.powerBad t then s.decide c.k rBADSTATE s.now (le 1 s.power.state ++ zeros 3)
    else (s.updPower fun p => { p with req := some ⟨c.k, t, s.now, false⟩ }).powerPump

/-- A transition of a request that is due at a control-frame tick: EXPOSE to READY. -/
def State.powerTick (s : State) : State :=
  let s := match s.twin.powerAt with
    | some (dest, b) =>
      if s.now ≥ b then
        let s := s.updTwin fun t => { t with powerAt := none }
        if s.power.state = 4 ∧ dest = 3 then s.leaveExpose 5 else s.powerTo dest 5 0
      else s
    | none => s
  -- R441: a SHADOW's own permit is not consulted
  if s.twin.state = 3 then s.powerPump
  else
    let s := if s.power.state = 4 ∧ s.permit % 8 ≠ 7 then s.leaveExpose 2 else s
    match s.power.req with
    | some q => (if q.target < 4 then s.leaveExpose 1 else s).powerPump
    | none => s

/-- POWER_STATE_REACHED: the relock or the clock stop of a request completes. -/
def State.powerReached (s : State) : State :=
  match s.power.req with
  | none => s
  | some q =>
    if s.twin.state = 3 then s
    else if s.power.state = 2 ∧ q.target ≥ 3 then (s.powerTo 3 1 0).powerPump
    else if s.power.state = 3 ∧ q.target ≤ 2 then (s.powerTo 2 1 0).powerPump
    else s.powerPump

/-- At a round boundary the permit is checked (R440). -/
def State.permitRound (s : State) : State :=
  let p := s.permit
  let s := s.setRg P.SYS_PERMIT 0 p
  match s.power.req with
  | none => s
  | some q =>
    if q.target ≠ 4 ∨ s.power.state ≠ 3 ∨ s.twin.state = 3 then s
    else if p = 15 then (s.powerTo 4 1 0).powerDecide rOK
    else
      let levels := ((List.range 4).map fun k => b2n (s.ilkLevel k) * 2 ^ k).sum
      (s.record s.curatorSrc 0x0002 (le 1 p ++ le 1 levels ++ zeros 22)).powerDecide rBADSTATE

/-! ## Clocks stopped (R385, R442, R475) -/

/-- The MGT and TBS domains stand: in STANDBY, during reset and after the analog trip. -/
def State.clockless (s : State) : Bool := s.power.state = 1 || s.power.inReset || s.power.halted = 2

/-- AON ticks from the capture of the time base to an instant. -/
def State.aonTicksAt (s : State) (t : TS) : Nat := (t - s.power.stbyFrom) * 32768 / 1000000000

/-- TS64 at an AON tick (R385). -/
def State.aonTime (s : State) (n : Nat) : TS :=
  s.power.stbyFrom + (n * 1000000000 * (1000000 - s.rg P.TIME_AON_PPM 0)) / (32768 * 1000000)

/-- The time block captures TS64 and the clocks stop. -/
def State.stopClocks (s : State) : State :=
  s.updPower fun p => { p with stbyFrom := s.now, stbyLast := s.now, aonTicks := 0, aon := [] }

/-- Time passes while the clocks stand: the AON ticks counted. -/
def State.aonPass (s : State) (t : TS) : State :=
  s.updPower fun p => { p with aonTicks := max p.aonTicks (s.aonTicksAt t) }

/-- The time base resumes (R385); the frame sequencer goes on from the last tick before. -/
def State.resumeTime (s : State) : State :=
  let t := max (s.aonTime s.power.aonTicks) (s.power.stbyLast + 1)
  let k := t / 2560
  { s with now := t, tick := k * 2560, micro := t / 256 * 256, frameNo := k, frameAt := k * 2560 }

/-- An input's new level at its ball: EVT_IN, ILK, LASER_EN and PERST_L, by Docent source (R464, R465). -/
def State.setPin (s : State) (id : Nat) (level : Bool) : State :=
  let put (v k : Nat) : Nat := v - b2n (bit v k) * 2 ^ k + b2n level * 2 ^ k
  if 1 ≤ id ∧ id ≤ 16 then s.setRg P.IO_EVT_LEVEL 0 (put (s.rg P.IO_EVT_LEVEL 0) (id - 1))
  else if 17 ≤ id ∧ id ≤ 20 then s.updPower fun p => { p with ilkPins := put p.ilkPins (id - 17) }
  else if id = 21 then s.updPower fun p => { p with laserEnA := level }
  else if id = 22 then s.updPower fun p => { p with laserEnB := level }
  else if id = 26 then s.updHost fun h => { h with perstHigh := level }
  else s

/-- The level Docent sees of an input. -/
def State.pinActive (s : State) (id : Nat) (level : Bool) : Bool :=
  if 17 ≤ id ∧ id ≤ 20 then level != bit (s.rg P.SYS_ILK_POL 0) (id - 17) else level

/-- AON latches an edge (R475). -/
def State.aonLatch (s : State) (id : Nat) (rising : Bool) : State :=
  let up := s.pinActive id rising
  let n := s.power.aonTicks
  let ls := s.power.aon
  let mine (l : AonLatch) : Bool := l.id = id && l.rising = up
  let ls := if ls.any mine then ls.map fun l => if mine l then { l with count := min 15 (l.count + 1) } else l
    else ls ++ [⟨id, up, n, 1⟩]
  (s.setPin id rising).updPower fun p => { p with aon := ls }

/-- Edges latched in AON reach an enabled edge source, stamped at the first one's tick (R467, R475). -/
def State.docLatched (s : State) (l : AonLatch) : State :=
  if !s.docOn l.id ∨ s.docSense l.id = 0 ∨ !docSelects (s.docSense l.id) l.rising then s
  else
    let p : DocPend := match assocGet s.doc.pend l.id with
      | some p => { p with count := min 255 (p.count + l.count) }
      | none => ⟨l.count, s.aonTime l.tick⟩
    (s.updDoc fun d => { d with pend := assocPut d.pend l.id p }).docNote

/-- When the MGT domain runs again, Docent receives the latched edges by tick, then by ID; level sources take their level. -/
def State.docResume (s : State) : State :=
  let ls := s.power.aon
  let keys := (ls.map fun l => l.tick * 512 + l.id).foldl (fun acc k => if acc.contains k then acc else acc ++ [k]) []
  let sorted := (keys.foldl (fun (acc : List (Nat × Unit)) k => assocPut acc k ()) []).map (·.1)
  let s := sorted.foldl (fun s k => (ls.filter fun l => l.tick * 512 + l.id = k).foldl State.docLatched s) s
  let level (id : Nat) : Bool :=
    if 1 ≤ id ∧ id ≤ 16 then bit (s.rg P.IO_EVT_LEVEL 0) (id - 1)
    else if 17 ≤ id ∧ id ≤ 20 then s.ilkLevel (id - 17)
    else if id = 21 then s.power.laserEnA
    else if id = 22 then s.power.laserEnB
    else if id = 23 then s.twin.faultIn
    else if id = 24 then s.twin.killIn
    else if id = 26 then s.host.perstHigh
    else (assocGet s.doc.active id).isSome
  let s := forEach (List.range' 1 26) (fun id s =>
    let act := s.doc.active
    let act := if !level id then assocDel act id else if (assocGet act id).isSome then act else assocPut act id s.now
    s.updDoc fun d => { d with active := act }) s
  (s.updPower fun p => { p with aon := [] }).docNote

/-- The stored training set of a rank, where TRAIN_MODE lets it be used: made on this module, within 15 °C (R353). -/
def State.trainSet (s : State) (r : Nat) (temp : Int) : Option TrainSet :=
  match s.mram.trained.getD r none with
  | some t =>
    if s.rg P.DDR_TRAIN_MODE (r / 2) = 0 ∧ (temp - t.temp).natAbs ≤ 150 ∧ t.serial = Config.dieSerial then some t else none
  | none => none

/-- R353: a rank is trained: with its stored set where the pattern then returns intact, else in full, and a new set is stored. STO_TRAIN
gives the source: restored, full or failed. Its refreshes and its row-hammer windows count from here. -/
def State.trainRank (s : State) (r : Nat) (patternBad fullBad : Bool) (temp : Int) (ms : Nat) : State :=
  let set := if patternBad then none else s.trainSet r temp
  let src := if set.isSome then 0 else if fullBad then 2 else 1
  let s := s.setRg P.RANK_TRAIN_SRC r src
  let s := match set with
    | some t => s.setRg P.RANK_TRAIN_T r (ofSigned 16 t.temp)
    | none =>
      if src = 2 then s
      else
        (s.setRg P.RANK_TRAIN_T r (ofSigned 16 temp)).updMram fun m =>
          { m with trained := m.trained.set r (some ⟨Config.dieSerial, temp, s.now⟩) }
  let s := s.record (s.rankSrc r) 0x4007 (le 1 src ++ zeros 1 ++ le 2 (ofSigned 16 temp) ++ le 4 ms ++ zeros 16)
  if src = 2 then s.rankFail r 2
  else
    let s := s.updStore fun st => { st with rhAt := st.rhAt.set (r / 2) s.now }
    (s.updRank r fun x =>
      { x with state := 0, lastUse := s.now, postponed := 0, rh := List.replicate 8 [], refDue := s.now + s.refi (r / 2) }).setRg P.RANK_STATE r 0

/-- STANDBY_ENTER: the fixed instant has come (R442). -/
def State.standbyEnter (s : State) : State :=
  match s.power.stbyAt with
  | none => s
  | some t =>
    if s.now < t then s
    else
      let s := s.powerTo 1 1 0
      let s := s.zipCancelAll.cacheFlush
      let s := forEach [0, 1, 2, 3] (fun r s =>
        if (s.rank r).state = 3 then s
        else (s.updRank r fun x => { x with state := 2, openRow := List.replicate 8 none }).setRg P.RANK_STATE r 2) s
      let s := s.updHost fun h => { h with pcieUp := false, ethUp := [false, false, false] }
      (s.stopClocks).updPower fun p => { p with stbyAt := none }

/-- TWIN_KILL_IN while the clocks stand: the pins are let go of through the unclocked path; the twin block takes note at the wake. -/
def State.killStopped (s : State) : State :=
  let s := s.updTwin fun t => { t with killIn := true, linksCut := t.linksCut || s.inPair }
  if s.inPair then (s.outputsOff true).releaseOwn else s

/-- The clocks run again: the switch inputs sample what their balls show. -/
def State.pinsTaken (s : State) : State := forEach (List.range 12) (fun i s => s.switchLevel i s.now) s

/-- The controller returns to IDLE (R442), named source and all; every rank is trained again, with a duration and an
outcome of its pattern and of full training that are open (R353; log entry 118). -/
def State.wake (s : State) (source : Nat) : State :=
  let s := s.resumeTime
  let s := forEach [0, 1, 2, 3] (fun r s =>
    if (s.rank r).state = 3 then s
    else
      let temp := roundDiv (fNum (s.rg P.HK_VALUE (12 + r / 2)) * 10) fDen
      let (v, s) := s.draw
      s.trainRank r (v / 2 ^ 32 % 2 = 1) (v / 2 ^ 33 % 2 = 1) temp (v % 2 ^ 32)) s
  let s := s.powerTo 2 3 source
  let struck := s.killed && (s.power.aon.any fun l => l.id = 24 && l.rising)
  let s := if struck && s.twin.state = 2 then (s.twinTo 5 4).dropUnmirrored else if struck && s.twin.state = 3 then s.twinTo 5 4 else s
  let s := s.updPower fun p => { p with hk := p.hk.map fun h => { h with hist := [] } }
  let s := if s.servoSrc = 0 then s else s.servoTo 1
  s.pinsTaken.docResume

/-- AON_EDGE_LATCH: an edge while the clocks stand; in STANDBY one that the source's sense selects wakes the controller when its
wake bit is set (R442, R476). -/
def State.aonEdge (s : State) (id : Nat) (rising : Bool) : State :=
  if !s.clockless ∨ id = 0 ∨ id > 26 then s
  else
    let up := s.pinActive id rising
    let s := s.aonLatch id rising
    let hit := bit (s.docCfg id) 8 && docSelects (s.docSense id) up
    if s.power.state = 1 && !s.power.inReset && hit then s.wake id else s

/-- WAKE_TIMER: WAKE_TMR seconds of AON ticks have passed (R442). -/
def State.wakeTimer (s : State) : State :=
  let n := s.rg P.SYS_WAKE_TMR 0
  if s.power.state = 1 ∧ !s.power.inReset ∧ n ≠ 0 ∧ s.power.aonTicks ≥ n * 32768 then s.wake 0 else s

end Sys2Proof.Machine
end

