-- ==== Sys2Proof/Machine/House.lean ====
section
/-!
DEFINITION. Housekeeping (R457-R462): the channels of a management round, warnings, limits, the thermal shutdown and the analog trip.
-/
namespace Sys2Proof.Machine

open Sys2Proof

/-- Source path of the ADC round (R478). -/
def State.hkSrc (s : State) : Nat := s.srcPath 0 4 0

def State.hkChan (s : State) (c : Nat) : HkChan := s.power.hk.getD c ⟨[], false, false, false, false, 0⟩
def State.updHk (s : State) (c : Nat) (f : HkChan → HkChan) : State := s.updPower fun p => { p with hk := p.hk.modify c f }

/-- Channels in use, and temperature channels (R457). -/
def hkUsed (c : Nat) : Bool := c < 19 || (20 ≤ c && c ≤ 30) || (32 ≤ c && c ≤ 35) || (40 ≤ c && c ≤ 47)
def hkTemp (c : Nat) : Bool := c < 19

/-- Gain and offset of a channel from the calibration table (R453, R457). -/
def State.hkCal (s : State) (c v : Nat) : Nat := fAdd (fMul v (s.calFlt (2 * c + 1) (fOfInt 1))) (s.calFlt (2 * c + 2) 0)

/-- STAT of a channel (R479). -/
def HkChan.stat (h : HkChan) : Nat := b2n h.faulted + 2 * b2n h.warn + 4 * b2n h.shut + 8 * b2n h.limit

/-- HK_WARN (R478): the end of a warn carries the cause with which it began (log entry 94). -/
def State.hkWarn (s : State) (c : Nat) (began : Bool) (cause v rate : Nat) : State :=
  s.record s.hkSrc 0x0004 (le 1 c ++ le 1 (b2n began) ++ le 1 cause ++ zeros 1 ++ le 4 v ++ le 4 rate ++ zeros 12)

/-- The rate of rise over RATE_WIN rounds, by the true interval between them (R443, R459). -/
def State.hkRate (s : State) (c : Nat) (hist : List (Nat × TS)) : Option Nat :=
  match hist.head?, hist[s.rg P.HK_RATE_WIN c]? with
  | some a, some b => some (fDiv (fSub a.1 b.1) (fOfRat ((a.2 - b.2 : Nat) : Int) 1000000000))
  | _, _ => none

/-- A channel faulted in this round. -/
def State.hkFault (s : State) (c : Nat) : State :=
  let h := s.hkChan c
  let s := if h.faulted then s else s.record s.hkSrc 0x0007 (le 1 c ++ zeros 23)
  let v := s.rg P.HK_VALUE c
  let began := hkTemp c && !h.warn
  let s := if began then s.hkWarn c true 3 v (s.rg P.HK_RATE c) else s
  s.updHk c fun h => { h with
    faulted := true, hist := [], shut := false, limit := false, warn := hkTemp c, cause := if began then 3 else h.cause }

/-- What a shutdown was caused by: channel, cause, value, rate. -/
structure Trip where
  chan : Nat
  cause : Nat
  value : Nat
  rate : Nat
  deriving DecidableEq, Repr

/-- A temperature channel's value of this round (R459), with a shutdown decided: a shutdown condition in two consecutive rounds, and in
STANDBY in one (R443, log entry 93). -/
def State.hkTempValue (s : State) (c v : Nat) (t : TS) : Option Trip × State :=
  let h := s.hkChan c
  let hist := ((v, t) :: h.hist).take 17
  let rate := s.hkRate c hist
  let r := rate.getD 0
  let past (lim : Nat) : Bool := match rate with | some x => fLt lim x | none => false
  let abs := fLt (s.rg P.HK_WARN_ABS c) v
  let fast := past (s.rg P.HK_WARN_RATE c)
  let calm := fLe v (fSub (s.rg P.HK_WARN_ABS c) (fOfInt 2)) && !fast
  let warn := if h.warn then !calm else abs || fast
  let cause := if h.warn then h.cause else if abs then 1 else 2
  let s := if warn = h.warn then s else s.hkWarn c warn cause v r
  let hot := fLt (s.rg P.HK_SHUT_ABS c) v
  let shut := hot || past (s.rg P.HK_SHUT_RATE c)
  let s := s.setRg P.HK_RATE c r
  let s := s.updHk c fun _ => ⟨hist, false, warn, shut, false, cause⟩
  (if shut && (h.shut || s.power.state = 1) then some ⟨c, if hot then 1 else 2, v, r⟩ else none, s)

/-- An electrical channel's value (R458). -/
def State.hkElecValue (s : State) (c v : Nat) (t : TS) : State :=
  let lo := s.rg P.HK_LIM_LO c
  let hi := s.rg P.HK_LIM_HI c
  let low := fLt lo hi && fLt v lo
  let high := fLt lo hi && fLt hi v
  let s := s.updHk c fun _ => ⟨[(v, t)], false, false, false, low || high, 0⟩
  if low ∨ high then s.record s.hkSrc 0x0006 (le 1 c ++ le 1 (if low then 1 else 2) ++ zeros 2 ++ le 4 v ++ zeros 16) else s

/-- One channel of a round; none where its conversion sits at a rail or its sensor does not answer. -/
def State.hkChannel (s : State) (c : Nat) (raw : Option Nat) (t : TS) : Option Trip × State :=
  if !hkUsed c then (none, s)
  else
    let (trip, s) : Option Trip × State := match raw with
      | none => (none, s.hkFault c)
      | some r =>
        let v := s.hkCal c (r % 2 ^ 32)
        let s := s.setRg P.HK_VALUE c v
        if hkTemp c then s.hkTempValue c v t else (none, s.hkElecValue c v t)
    let h := s.hkChan c
    (trip, (s.setRg P.HK_STAT c h.stat).docLevel (27 + c) (h.warn || h.limit))

/-- When the conversion of a channel starts: in channel order, within 2 ms of the round (R373, R457; log entry 121). -/
def hkStamp (t : TS) (c : Nat) : TS :=
  (List.range (c + 1)).foldl (fun m k => max m (t + Config.hkDelay t k % 2000001)) t

/-- All channels in order: the first shutdown decided. -/
def State.hkRound (s : State) (raw : List (Option Nat)) (t : TS) : Option Trip × State :=
  let r := (List.range 64).foldl (fun (a : Option Trip × State) c =>
    let x := a.2.hkChannel c (raw.getD c none) t
    (match a.1 with | some p => some p | none => x.1, x.2)) (none, s)
  (r.1, r.2.updPower fun p => { p with hkAt := t, hkNo := t / 256000000, hkStamps := (List.range 64).map fun c => hkStamp t c })

/-- HK_SHUTDOWN's payload (R478). -/
def Trip.payload (p : Trip) (round : Nat) : List Byte :=
  le 1 p.chan ++ le 1 p.cause ++ zeros 2 ++ le 4 p.value ++ le 4 p.rate ++ le 8 round ++ zeros 4

/-- The controller enters HALTED (R461, R462); kind 1 thermal, 2 the analog trip. The cause stays in MRAM for the next
start-up. What the shutdown causes is stamped after its record, and PWR_STATE after TWIN_STATE (R82). -/
def State.halt (s : State) (kind : Nat) (payload : List Byte) : State :=
  let s := (s.outputsOff false).releaseOwn
  let s := s.updMram fun m => { m with shutdown := some payload }
  let s := if kind = 1 then s.record s.hkSrc 0x0005 payload else s
  let s := if kind = 1 then s.causedBy s.log.lastTs fun s => s.twinTo 6 5 else s.twinTo 6 5
  let s := forEach [0, 1, 2, 3] (fun r s =>
    if (s.rank r).state = 3 then s else (s.updRank r fun x => { x with state := 2, openRow := List.replicate 8 none }).setRg P.RANK_STATE r 2) s
  let s := if s.power.state = 5 then s else s.causedBy s.log.lastTs fun s => s.powerTo 5 4 0
  -- a POWER_REQUEST under way is refused
  let s := if kind = 1 then s.powerDecide rBADSTATE else s
  let s := s.updPower fun p => { p with halted := kind, pwrGood := false, req := none, stbyAt := none }
  if kind = 2 then s.stopClocks else s

/-- MGT_ROUND at a boundary (R23, R426, R440, R457): channels, shutdown, permit, light sensors, sequences saved to MRAM. -/
def State.mgtRound (s : State) (raw : List (Option Nat)) (light : List (Nat × Nat)) : State :=
  if s.now % 256000000 ≠ 0 ∨ s.power.halted = 2 then s
  else
    let (trip, s) := s.hkRound raw s.now
    let s := s.updLog fun l => { l with savedSeqs := l.seqs }
    match trip with
    | some p => (if s.power.state = 5 then s else s.halt 1 (p.payload (s.now / 256000000))).permitRound
    | none =>
      let ntc := if (s.hkChan 18).faulted then none else some (s.rg P.HK_VALUE 18)
      let s := if s.expRuns then s.lampRound ntc (s.rg P.HK_VALUE 18) light else s
      s.permitRound

/-- A housekeeping round of STANDBY is due: a whole number of periods of STBY_DIV × 8,192 AON ticks has passed, and the round of this
instant has not run (R443). -/
def State.standbyDue (s : State) : Bool :=
  let n := s.power.aonTicks
  s.power.state = 1 && !s.power.inReset && 0 < n && n % (s.rg P.SYS_STBY_DIV 0 * 8192) = 0 && s.power.hkAt < s.aonTime n

/-- STANDBY_ROUND (R443): the limits apply, with records at the round's instant; a warn wakes the controller, after its record (R82),
a shutdown halts it. -/
def State.standbyRound (s : State) (raw : List (Option Nat)) : State :=
  if !s.standbyDue then s
  else
    let before := s.tempWarn
    let t := s.aonTime s.power.aonTicks
    let s := { s with now := max s.now t }
    let (trip, s) := s.hkRound raw t
    match trip with
    | some p => ((s.resumeTime).halt 1 (p.payload (t / 256000000))).docResume
    | none => if s.tempWarn && !before then s.causedBy s.log.lastTs fun s => s.wake 0 else s

/-- ANALOG_TRIP (R462): the value and rate are not stated (free values). Where the clocks stand already, only the latch, the pins and the
MRAM take part. -/
def State.analogTrip (s : State) : State :=
  if s.power.halted = 2 then s
  else
    let (v, s) := s.draw
    let (r, s) := s.draw
    let cause (t : TS) : List Byte := Trip.payload ⟨0xFF, 1, v % 2 ^ 32, r % 2 ^ 32⟩ (t / 256000000)
    if s.clockless then
      let s := (((s.outputsOff false).releaseOwn).updTwin fun t => { t with state := 6 }).updMram fun m =>
        { m with shutdown := some (cause (s.aonTime s.power.aonTicks)) }
      s.updPower fun p => { p with state := 5, halted := 2, pwrGood := false, stbyAt := none }
    else s.halt 2 (cause s.now)

/-- THERM attention (R55, R459). -/
def State.thermAttention (s : State) : Bool := s.tempWarn

end Sys2Proof.Machine
end

