-- ==== Sys2Proof/Machine/Start.lean ====
section
/-!
DEFINITION. Start-up, reset and loss of supply (R444-R449), firmware images (R450-R452), the calibration table (R453-R456), the
presets (R78) and the machine I/O word (R463).
-/
namespace Sys2Proof.Machine

open Sys2Proof

/-! ## Firmware images (R450-R452) -/

/-- Bit of the grade mask of this grade. -/
def State.gradeBit (s : State) : Nat := match s.straps.grade with | .yq2460 => 0 | .yq1260 => 1

/-- A slot holds an image that passes the checks of R451 on this grade. -/
def State.imageOk (s : State) (k : Nat) : Bool :=
  match s.mram.fw[k]? with
  | some f => f.good && bit f.grades s.gradeBit
  | none => false

/-- Version in a slot, or 0 (R479). -/
def State.fwVersion (s : State) (k : Nat) : Nat := if s.imageOk k then (s.mram.fw.getD k default).version else 0

/-- Version of the running image, or 0 in recovery (R85). -/
def State.fwRunning (s : State) : Nat := if s.power.recovery then 0 else s.fwVersion s.power.fwRun

/-- The order in which the boot ROM tries the images (R446). -/
def State.bootOrder (s : State) : List Nat :=
  match s.straps.boot with
  | 0 => [s.mram.fwPref, 1 - s.mram.fwPref]
  | 1 => [0]
  | 2 => [1]
  | _ => []

/-- The boot ROM runs the first image that passes, or enters recovery: image run, mask of those that failed before it (R451). -/
def State.bootImage (s : State) : Option Nat × Nat :=
  s.bootOrder.foldl (fun (a : Option Nat × Nat) k =>
    match a.1 with
    | some _ => a
    | none => if s.imageOk k then (some k, a.2) else (none, a.2 + 2 ^ k)) (none, 0)

/-- R451 on the bytes of an accession. -/
def imageCheck (gradeBit : Nat) (b : List Byte) : Option FwSlot :=
  let len := u32 b 12
  let body := field b 256 len
  let ok := b.length ≥ 256 && u32 b 0 = 0x4C524B46 && u16 b 4 = 1 && bit (u16 b 6) gradeBit && len ≤ 8388352 && body.length = len &&
    sha256 body == field b 16 32 && Config.signatureOk (b.take 112)
  if ok then some ⟨true, u32 b 8, u16 b 6⟩ else none

/-- The bytes of an image in an accession: its header and what follows it. -/
def State.fwBytes (s : State) (acc : Nat) : List Byte :=
  let size := ((s.acc? acc).map (·.size)).getD 0
  let head := s.memBytes acc 0 (min size 256)
  head ++ s.memBytes acc 256 (min (u32 head 12) (size - 256))

/-- The image that an accession of pool 6 holds, if it passes the checks of R451. -/
def State.fwImage (s : State) (acc : Nat) : Option FwSlot :=
  let size := ((s.acc? acc).map (·.size)).getD 0
  if accPool acc = 6 && (s.acc? acc).isSome && (s.firstPoison acc 0 size).isNone then imageCheck s.gradeBit (s.fwBytes acc) else none

/-- FW_LOAD's record (R478). -/
def State.fwRecord (s : State) (slot res version : Nat) : State :=
  s.record s.mramSrc 0x0009 (le 1 slot ++ le 1 res ++ zeros 2 ++ le 4 version ++ zeros 16)

/-- A write of FW_LOAD (R452): the verification begins. Of a block, the image has been verified with the block (R77). -/
def State.fwLoadBegin (s : State) (k : Ticket) (slot : Nat) (block : Bool) : State :=
  let acc := s.rg P.SYS_FW_ACC 0
  if !s.power.recovery ∧ s.power.fwRun = slot then s.decideNow k rBADSTATE
  else
    let s := s.takeLoan acc
    s.updPower fun p => { p with fwJob := some ⟨k, slot, acc, if block then s.fwImage acc else none, s.now⟩ }

/-- FW_LOAD_DONE: verification, writing and read-back end. The effective TS64 of a block is the instant at which all its entries took
effect (R77); of a single write it is this one. -/
def State.fwLoadDone (s : State) : State :=
  match s.power.fwJob with
  | none => s
  | some j =>
    let img := if j.img.isSome then j.img else s.fwImage j.acc
    let version := u32 (s.fwBytes j.acc) 8
    let s := (s.returnLoan j.acc).updPower fun p => { p with fwJob := none }
    let k := j.k
    match img with
    | some f =>
      ((s.updMram fun m => { m with fw := m.fw.set j.slot f }).fwRecord j.slot rOK f.version).decide k rOK
        (if j.img.isSome then j.since else s.now) (le 4 (if j.img.isSome then 0xFFFFFFFF else 0))
    | none => (s.fwRecord j.slot rCHECKFAIL version).decideNow k rCHECKFAIL

/-! ## Calibration (R453-R456) -/

/-- Entries that hold a binary32 value (R453). -/
def calFloat (e : Nat) : Bool := 1 ≤ e && e ≤ 220

/-- The 4,096 bytes of the table (R453). -/
def State.calBytes (s : State) : List Byte :=
  let entries := (List.range' 1 255).flatMap fun e =>
    match assocGet s.mram.cal e with
    | some x => le 4 x.value ++ le 1 x.writer ++ zeros 3 ++ le 8 x.written
    | none => le 4 (Config.calFactory e % 2 ^ 32) ++ le 1 0xFF ++ zeros 3 ++ le 8 0
  le 2 0x0054 ++ le 2 255 ++ le 4 (crc32c entries) ++ le 8 Config.dieSerial ++ entries

/-- A write of CAL.ENTRY that has passed its checks (R454). -/
def State.calWrite (s : State) (e v writer : Nat) : State :=
  let s := s.updMram fun m => { m with cal := assocPut m.cal e ⟨v, writer, s.now⟩ }
  s.record s.mramSrc 0x0008 (le 1 e ++ le 1 writer ++ zeros 2 ++ le 4 v ++ zeros 16)

/-- R455: why an export is refused. -/
def State.calExportBad (s : State) (acc : Nat) : Bool :=
  accPool acc ≠ 6 || (match s.acc? acc with | none => true | some a => a.state = 3 || a.size < 4096)

def State.calExport (s : State) (acc : Nat) : State := s.storeData acc 0 s.calBytes

/-! ## Presets (R78) -/

/-- The preset parameters. -/
def presetPids : List Nat :=
  [P.ETH_IPV4, P.ETH_IPV4 + 65536, P.ETH_IPV4 + 131072, P.ETH_MASK, P.ETH_MASK + 65536, P.ETH_MASK + 131072, P.BLK_RS485_BAUD,
   P.TWIN_PAIRED]

def State.presetSave (s : State) : State :=
  s.updMram fun m => { m with presets := (presetPids.filterMap fun p =>
    if s.reg p = regReset s.straps.roleB p then none else some (p, s.reg p)) }

def State.presetFactory (s : State) : State := s.updMram fun m => { m with presets := [] }

/-- The preset parameters as a start-up takes them; in recovery port 2 has the shipped address and mask. -/
def State.loadPresets (s : State) : State :=
  s.mram.presets.foldl (fun s p =>
    if s.power.recovery && (p.1 = P.ETH_IPV4 + 131072 || p.1 = P.ETH_MASK + 131072) then s else s.setReg p.1 p.2) s

/-! ## Start-up (R444) -/

/-- Step times and causes of the STARTUP record (R478). -/
def State.startRecord (s : State) (failed cause : Nat) (times : List Nat) : State :=
  let run := if s.power.recovery then 0xFF else s.power.fwRun
  let straps := s.straps.boot + 4 * b2n s.straps.roleB + 8 * b2n s.straps.serialHost
  let src := ((List.range 4).map fun r => s.rg P.RANK_TRAIN_SRC r).foldl max 0
  s.record s.curatorSrc 0x0003
    (le 1 run ++ le 1 failed ++ le 1 cause ++ le 1 straps ++ le 4 s.fwRunning ++ le 1 src ++ zeros 3 ++
      ((List.range 4).flatMap fun i => le 2 (times.getD i 0)) ++ zeros 4)

/-- A reset does not change what other parts drive onto the input balls (log entry 120): the laser ports' inputs, the feedback inputs, which count
no edge for the level they start with, the fault and the switch inputs. -/
def State.keepPins (s old : State) : State :=
  let s := { s with beams := s.beams.mapIdx fun n (b : Beam) =>
    let l := (old.beam n).laser
    { b with laser := { b.laser with readyIn := l.readyIn, alarmIn := l.alarmIn, syncIn := l.syncIn } } }
  s.updMot fun m => { m with
    ports := m.ports.mapIdx fun n (p : FbkPort) =>
      let l := (old.port n).ins.map (·.1)
      let g (i : Nat) : Bool := l.getD i false
      let hall := 4 * b2n (g 3) + 2 * b2n (g 4) + b2n (g 5)
      { p with ins := l.map fun x => (x, s.now), a := g 0, b := g 1, z := g 2, hall := hall, trg := g 6 }
    sds := m.sds.mapIdx fun b (x : SdSt) => { x with flt := (old.sd b).flt }
    sws := m.sws.mapIdx fun i (x : SwSt) => { x with ball := (old.sw i).ball } }

/-- Start-up from step 2 on, over what a reset leaves intact: the time base, the MRAM and its log, the HALTED latch (R426, R444,
R447). -/
def State.startUp (s : State) (boot : Boot) (cause : Nat) : State :=
  let roleB := if cause = 0 then boot.roleB else s.straps.roleB
  let base := State.reset
  let log : LogSt :=
    { base.log with
      recs := s.log.recs
      head := s.log.head
      mark := s.log.mark
      clears := s.log.clears
      sinceClear := s.log.sinceClear
      seqs := s.log.savedSeqs.map fun q => (q.1, (q.2 + 2 ^ 22) % 2 ^ 32)
      savedSeqs := s.log.savedSeqs.map fun q => (q.1, (q.2 + 2 ^ 22) % 2 ^ 32) }
  let n : State :=
    { base with
      pending := s.pending
      straps := ⟨s.straps.grade, roleB, boot.serialHost, boot.boot % 4⟩
      now := s.now
      tick := s.tick
      micro := s.micro
      frameNo := s.frameNo
      frameAt := s.frameAt
      fresh := s.fresh
      out := s.out
      log := log
      time := { base.time with valid := s.time.valid && cause = 1 }
      mram := { s.mram with calBad := !boot.calOk }
      power := { base.power with
        halted := if cause = 1 then s.power.halted else 0
        ilkPins := s.power.ilkPins
        laserEnA := s.power.laserEnA
        laserEnB := s.power.laserEnB
        aon := s.power.aon
        stbyFrom := s.power.stbyFrom }
      host := { base.host with nonceCount := s.host.nonceCount, perstHigh := s.host.perstHigh }
      twin := { base.twin with killIn := s.twin.killIn, faultIn := s.twin.faultIn } }
  let n := n.keepPins s
  let n := n.setRg P.IO_EVT_LEVEL 0 (s.rg P.IO_EVT_LEVEL 0)
  let n := n.setRg P.SYS_RESET_CAUSE 0 cause
  let (run, failed) := n.bootImage
  let n := n.updPower fun p => { p with recovery := run.isNone, fwRun := run.getD 0 }
  let n := n.loadPresets
  let n := n.updTwin fun t => { t with paired := n.rg P.TWIN_PAIRED 0 = 1, negAt := n.now }
  let n := forEach [0, 1, 2, 3] (fun r s =>
    s.trainRank r (boot.restoreBad.contains r) (boot.badRanks.contains r) (boot.dramT.getD (r / 2) 0) (boot.trainMs.getD r 0)) n
  let n := if boot.calOk then n else n.record n.mramSrc 0x0008 (le 1 0 ++ le 1 0xFE ++ zeros 22)
  let n := n.startRecord failed cause boot.times
  let n : State := match n.mram.shutdown with
    | some p => (n.record n.hkSrc 0x0005 p).updMram fun m => { m with shutdown := if n.power.halted = 0 then none else some p }
    | none => n
  let n := if cause = 1 ∧ n.servoSrc ≠ 0 then n.servoTo 1 else n
  if n.power.halted ≠ 0 then
    (n.updPower fun p => { p with state := 5, pwrGood := false }).updTwin fun t => { t with state := 6 }
  else n.pinsTaken.docResume

/-- VIN_RISE: start-up from OFF; TS64 starts at the event's stamp, counted from 0 (R374, R444). -/
def State.vinRise (s : State) (t : TS) (boot : Boot) : State :=
  if s.power.state ≠ 0 then s
  else
    let s := { s with now := t, tick := t / 2560 * 2560, micro := t / 256 * 256, frameNo := t / 2560, frameAt := t / 2560 * 2560 }
    let s := s.updMram fun m => { m with powerups := (m.powerups + 1) % 2 ^ 32 }
    (s.updPower fun p => { p with stbyFrom := t }).startUp boot 0

/-- VIN_LOSS (R448): outputs reset-safe, the record, then OFF. -/
def State.vinLoss (s : State) : State :=
  if s.power.state = 0 then s
  else
    let s := if s.clockless then s.resumeTime else s
    let s := (s.outputsOff false).releaseOwn
    let mv := (roundDiv (fNum (s.rg P.HK_VALUE 20) * 1000) fDen).toNat
    let s := s.record s.curatorSrc 0x000A (le 1 s.power.state ++ zeros 3 ++ le 4 mv ++ zeros 16)
    s.updPower fun p => { p with state := 0, vin := false, pwrGood := false, inReset := false, halted := 0, req := none }

/-- RESET_ASSERT (R447): outputs reset-safe; the clocks stop until the release. -/
def State.resetAssert (s : State) : State :=
  if s.power.state = 0 ∨ s.power.inReset then s
  else
    let clockless := s.clockless
    let s := (s.outputsOff false).releaseOwn
    let s := if clockless then s else s.stopClocks
    s.updPower fun p => { p with inReset := true, pwrGood := false }

/-- RESET_RELEASE (R447): start-up resumes from step 2. After the analog trip no clock but that of AON and HKP runs, so that the straps are
sampled and no more happens (R446, R462). -/
def State.resetRelease (s : State) (boot : Boot) : State :=
  if !s.power.inReset then s
  else
    let s := s.updPower fun p => { p with inReset := false }
    if s.power.halted = 2 then { s with straps := { s.straps with serialHost := boot.serialHost, boot := boot.boot % 4 } }
    else (s.resumeTime).startUp boot 1

/-! ## Machine I/O (R463) -/

/-- A write of GPO would change a bit that a hysteretic slot owns. -/
def State.gpoBad (s : State) (v : Nat) : Bool := Nat.land (Nat.xor v (s.rg P.IO_GPO 0)) s.gpoOwned ≠ 0

end Sys2Proof.Machine
end

