-- ==== Sys2Proof/Machine/Twin.lean ====
section
/-!
DEFINITION. The twin pair (R401-R419): negotiation, loss of the partner, the digest, the state transfer, and takeover. What
the ACTIVE forwards and how a SHADOW takes it stands in Forward.lean.
-/
namespace Sys2Proof.Machine

open Sys2Proof

/-- Source path of the twin link (R435). -/
def State.twinSrc (s : State) : Nat := s.srcPath 0 3 0

/-- TWIN attention (R55): an unsettled pair, a digest mismatch being resolved, or different grades. -/
def State.twinAttention (s : State) : Bool :=
  s.twin.mismatch ||
  (s.twin.paired && (s.twin.resolving || s.twin.cold || !(s.settledPair || (s.twin.state = 3 && s.twin.partner = 2))))

/-- The bits of PINS (R434). -/
def State.twinPins (s : State) : Nat :=
  b2n s.twin.own + 2 * b2n s.twin.killOut + 4 * b2n s.twin.killIn + 8 * b2n s.twin.faultIn + 16 * b2n s.twin.hbAt.isSome

/-- Forwarded bytes that have not been acknowledged. -/
def State.fwdPend (s : State) : Nat := (s.twin.fwd.map (·.bytes)).sum

/-! ## Ownership -/

/-- TWIN_OWN is taken; TWIN_KILL_OUT is asserted while the partner is not SHADOW (R416). -/
def State.takeOwn (s : State) : State :=
  let had := s.twin.own
  let s := s.updTwin fun t => { t with own := true, ownAt := s.now, hbStop := false, killOut := t.killOut || t.partner ≠ 3 }
  if had then s else forEach (List.range s.nBeams) (fun n s => s.put (.aout n s.now (some (s.beam n).laser.aout))) ((s.put (.ntcBias s.ntcBias)).motDrive)

/-- R416 between frame boundaries: asserted as soon as the partner is not SHADOW. -/
def State.killAssert (s : State) : State :=
  s.updTwin fun t => if t.own && (t.partner ≠ 3 || t.lost) then { t with killOut := true } else t

/-- A frame tick: TWIN_HB toggles and TWIN_KILL_OUT is released (R403, R416). -/
def State.twinTick (s : State) : State :=
  s.updTwin fun t =>
    if !t.own then t
    else { t with
      hbOut := if t.hbStop then t.hbOut else !t.hbOut
      killOut := t.partner ≠ 3 || t.lost
      cold := t.cold && (t.partner ≠ 3 || t.lost) }

/-- R404: without PAIRED the module is SINGLE once start-up has come to it. -/
def State.negotiateAlone (s : State) : State :=
  if s.twin.state = 1 ∧ !s.twin.paired then
    let s := (s.twinTo 0 1).takeOwn
    s.updPower fun p => { p with started := true }
  else s

/-! ## Loss of the partner (R408) -/

/-- The next control-frame boundary at least k frames ahead. -/
def State.framesAhead (s : State) (k : Nat) : TS := ((s.now + 2559) / 2560 + k) * 2560

/-- The ACTIVE declares its SHADOW lost: nothing waits for it any more. -/
def State.shadowLost (s : State) : State :=
  if s.twin.state ≠ 2 ∨ s.twin.lost then s
  else
    let next := s.nextFrame
    let s := s.updTwin fun t =>
      { t with
        lost := true
        fwd := []
        held := t.held.map fun (h : Held) => if h.acked then h else { h with acked := true, due := max h.due next } }
    let s := s.updSession 0 fun x =>
      { x with streams := x.streams.map fun q => { q with slots := q.slots.map fun (sl : Slot) => if sl.mirror = 3 then sl else { sl with mirror := 2 } } }
    let s := s.record s.twinSrc 0x6001
      (le 1 2 ++ le 1 2 ++ le 1 2 ++ le 1 s.twin.partner ++ le 4 s.twin.partnerFw ++ zeros 16)
    s.killAssert

/-- TWIN_LINK_TIMEOUT: nothing heard for LINK_TMO. -/
def State.twinLinkTimeout (s : State) : State :=
  if !s.twin.heard ∨ s.now < s.twin.heardAt + s.rg P.TWIN_LINK_TMO 0 * 1000 then s
  else
    let s := s.updTwin fun t => { t with linkUp := false }
    match s.twin.state with
    | 2 => s.shadowLost
    | 3 | 4 =>
      let beats : Bool := match s.twin.hbAt with | some h => (s.now < h + s.rg P.TWIN_HB_TMO 0 * 1000) | none => false
      if beats then (s.twinTo 1 2).updTwin fun t => { t with negAt := s.now } else s
    | _ => s

/-! ## Takeover (R411, R412) -/

/-- The decision: TWIN_KILL_OUT, then the wait for the release word. A takeover that is not from SHADOW is cold (R418). A module
whose TWIN_KILL_IN is asserted never asserts TWIN_KILL_OUT (R413). -/
def State.takeStart (s : State) (trigger : Nat) (d : TS) (h : Option TS) : State :=
  if s.twin.takeD.isSome ∨ s.killed then s
  else s.gapBegins.updTwin fun t =>
    { t with
      killOut := true
      takeD := some d
      takeH := h
      trigger := trigger
      release := false
      takeB := none
      cold := t.state ≠ 3 }

/-- The wait is over: b is the first boundary after it (R412). -/
def State.takeWait (s : State) (word : Bool) : State :=
  if s.twin.takeD.isNone ∨ s.twin.takeB.isSome then s
  else s.updTwin fun t => { t with release := word, takeB := some s.nextFrame }

/-- TAKEOVER_WAIT_END: D + 2 µs. -/
def State.takeWaitEnd (s : State) : State :=
  match s.twin.takeD with
  | some d => if s.now ≥ d + 2000 then s.takeWait false else s
  | none => s

/-- HEARTBEAT_LOSS: no edge for HB_TMO. -/
def State.heartbeatLoss (s : State) : State :=
  match s.twin.hbAt with
  | none => s
  | some h =>
    let d := h + s.rg P.TWIN_HB_TMO 0 * 1000
    if s.now < d then s
    else
      let s := (s.updTwin fun t => { t with hbAt := none }).docLevel 25 false
      if s.twin.state = 3 ∨ s.twin.state = 4 then s.takeStart 1 d (some h) else s

/-- TWIN_FAULT_RISE: from the partner. -/
def State.twinFaultRise (s : State) : State :=
  let s := (s.updTwin fun t => { t with faultIn := true }).docLevel 23 true
  if !s.inPair then s
  else match s.twin.state with
  | 2 => s.shadowLost
  | 3 | 4 => s.takeStart 2 s.now (some s.now)
  | _ => s

/-- NEG_TIMEOUT: no hello and no edge for NEG_TMO, and 500 ms more for role B (R404). -/
def State.negTimeout (s : State) : State :=
  let wait := s.rg P.TWIN_NEG_TMO 0 * 1000000 + (if s.straps.roleB then 500000000 else 0)
  if s.twin.state ≠ 1 ∨ !s.twin.paired ∨ s.killed ∨ s.twin.mismatch ∨ s.now < s.twin.negAt + wait then s
  else s.takeStart 1 s.now none

/-- Vectors of a beam that lie past P are to be exposed again: those completed since H are not any longer. -/
def State.reviveVecs (s : State) (n : Nat) (h : Int) : State :=
  let b := s.beam n
  let again := b.vecs.filter fun v => v.done && !b.vecOver v h
  let count := (again.filter fun v => v.ord ≠ 0).length
  let s := s.setRg P.BEAM_VEC_DONE n (s.rg P.BEAM_VEC_DONE n + 2 ^ 32 - count)
  let s := again.foldl (fun s v =>
    if v.lastOfRec then s.updBeam n fun b => b.updCmd v.ord fun c => { c with exposed := c.exposed - 1 } else s) s
  s.updBeam n fun b =>
    { b with
      vecs := b.vecs.map fun (v : VecInfo) =>
        if v.t0 ≥ h then { v with done := false, resolved := false, gateOpened := false, openNs := 0 }
        else if !b.vecOver v h then { v with done := false, resolved := false }
        else v
      ras := { b.ras with bufRows := b.ras.bufRows ++ ((again.filter fun v => v.kind == .raster).map fun v => bufKey v.ord v.row) } }

/-- The path steps behind the committed point are interpolated anew, as far as the Warder grants. -/
def State.refillAhead (s : State) (n : Nat) (com : Int) : State :=
  let upto := ((s.now + (s.rg P.BEAM_ADV n + 20) * 256 : Nat) : Int)
  let steps := ((upto - com) / 256).toNat
  forEach (List.range steps) (fun k s =>
    let f := com + 256 * ((k : Int) + 1)
    if f < (s.beam n).limit then s.interpolate n f else s) s

/-- A beam in RUN at b (R415): interrupted at the point P of H, and resumed from there. Lines lost in line-sync mode are
counted. -/
def State.takeBeam (s : State) (n : Nat) (h : Int) : Nat × Nat × State :=
  let b := s.beam n
  match b.vecs.find? fun v => !b.vecOver v h && v.kind != .none with
  | none => (0, 0, s)
  | some v =>
    if s.syncMode n && v.kind == .raster then
      let gone := b.vecs.filter fun u => u.kind == .raster && u.t1 > h && u.t0 ≤ (s.now : Int)
      let s := s.forceGateLow n
      let s := s.updBeam n fun b =>
        { b with
          vecs := b.vecs.map fun u => if gone.any fun q => q.vid = u.vid then { u with done := true } else u
          gates := b.gates.filter fun g => !(gone.any fun q => q.vid = g.vid) }
      (0, gone.length, s)
    else
      let opened := b.gates.any fun g => g.opened && g.t0 < h && g.t1 > v.t0
      let at_ := if opened then h else v.t0
      let (x, y) := b.nmAt at_
      let com := b.committed
      let (lx, ly) := b.fineAt com
      -- what the dry execution has counted of its gate since H
      let since := ((b.gates.filter (·.opened)).map fun g => (min g.t1 (s.now : Int) - max g.t0 h).toNat).sum
      let i : Intr := ⟨v.vid, at_, x, y, 7, opened, v.openNs - since, lx, ly, false⟩
      let s := (s.forceGateLow n).releaseLeases n h.toNat
      let s := s.setRg P.BEAM_INT_CAUSE n 7
      let s := (s.vecInterrupt n i (some v)).reviveVecs n h
      let keep := (b.segs.filter fun g => g.a < com && g.b > (s.now : Int)).map fun g => { g with b := min g.b com }
      let s := s.updBeam n fun b =>
        { b with
          intr := some i
          vecs := b.vecs.map fun u => if u.vid = i.vid then { u with openNs := i.openNs } else u
          ahead := b.ahead.filter fun a => a.t ≤ com }
      let s := (s.resumeAt n com keep true).postRequests n
      (1, 0, s)

/-- Everything of a module whose state is not trusted (R418). -/
def State.takeCold (s : State) : State :=
  let s := forEach (List.range s.nBeams) (fun n s => (s.forceGateLow n).stopBeam n 7) s
  forEach (List.range 8) (fun a s => s.prfQuick a 1) s

/-- R399: the catalogue of the new owner begins with CAT_GAP and what the mirror holds of the old owner's unsealed segment. -/
def State.catTakeover (s : State) (b : TS) : State :=
  let (seg, top) := s.time.lastSeal.getD (0xFFFFFFFF, 0)
  let rs := s.log.recs.filter fun r => isCatalogue r.code && r.flags.testBit 1 && (r.first > top || s.time.lastSeal.isNone)
  let rs := sortBy (fun (x y : Rec) => x.first < y.first || (x.first = y.first && (x.src < y.src || (x.src = y.src && x.seq ≤ y.seq)))) rs
  let s := s.record s.catSrc 0x5007 (le 4 seg ++ zeros 4 ++ le 8 b ++ zeros 8)
  rs.foldl State.catStage s

/-- TWIN_TAKE_OWN: at b the module takes TWIN_OWN and drives the machine; never while TWIN_KILL_IN is asserted (R413). -/
def State.twinTakeOwn (s : State) : State :=
  match s.twin.takeD, s.twin.takeB with
  | some d, some b =>
    if s.now < b ∨ s.killed then s
    else
      let cold := s.twin.cold
      let s := (s.takeOwn).twinTo 2 6
      let s := s.updTwin fun t => { t with partner := if t.partner = 2 then 7 else t.partner, lost := true }
      let s := s.catTakeover b
      let (beams, lines, s) :=
        if cold then (0, 0, s.takeCold)
        else match s.twin.takeH with
          | none => (0, 0, s)
          | some h =>
            let (bs, ls, s) := (List.range s.nBeams).foldl (fun (a : Nat × Nat × State) n =>
              if (a.2.2.beam n).st = 3 then
                let (i, l, s) := a.2.2.takeBeam n h
                (a.1 + i, a.2.1 + l, s)
              else a) (0, 0, s)
            let coms := (List.range s.nBeams).map fun n => (s.beam n).committed
            let s := s.warderEvaluate
            (bs, ls, forEach (List.range s.nBeams) (fun n s =>
              if (s.beam n).st = 3 then s.refillAhead n (coms.getD n 0) else s) s)
      let s := s.record s.twinSrc 0x6003
        (le 1 s.twin.trigger ++ le 1 (b2n cold + 2 * b2n s.twin.release) ++ le 1 beams ++ le 1 (min 255 lines) ++ le 8 d ++ le 8 b ++ zeros 4)
      let s := (s.bump P.TWIN_TAKEOVERS 0).setRg2 P.TWIN_TAKEOVER_TS 0 (b : Nat)
      let s := s.launchTakeover
      let s := forEach (List.range s.nPipes) (fun p s => s.camTakeover p) s
      let s := s.lampTakeover b
      let s := match s.twin.seize with | some k => s.decide k rOK b [] | none => s
      s.updTwin fun t => { t with takeD := none, takeH := none, takeB := none, seize := none, switchAt := none }
  | _, _ => s

/-- A frame tick at or past the boundary a TWIN_SWITCH named starts the takeover. -/
def State.twinSwitchTick (s : State) : State :=
  match s.twin.switchAt with
  | some b => if s.twin.state = 3 ∧ s.now ≥ b then (s.updTwin fun t => { t with switchAt := none }).takeStart 3 b none else s
  | none => s

/-! ## TWIN_KILL_IN (R404, R412) -/

/-- A takeover under way ends: TWIN_KILL_OUT is released, and a TWIN_SEIZE that began it is cancelled (R413). -/
def State.takeDrop (s : State) : State :=
  if s.twin.takeD.isNone then s
  else
    let s := match s.twin.seize with | some k => s.decideNow k rCANCELLED | none => s
    s.updTwin fun t => { t with killOut := false, takeD := none, takeB := none, takeH := none, seize := none }

/-- TWIN_KILL_IN: every machine-facing output goes high-impedance; an owner lets TWIN_OWN go and sends the release word; the module
enters KILLED unless it joins through RESYNC or has FAILED. Of two modules that begin a takeover within 2 µs of each other, role A's goes on
and role B's ends (R413). -/
def State.twinKillIn (s : State) : State :=
  let s := (s.updTwin fun t => { t with killIn := true, linksCut := t.linksCut || s.inPair }).docLevel 24 true
  let goesOn : Bool := !s.straps.roleB && (match s.twin.takeD with | some d => s.now ≤ d + 2000 | none => false)
  if !s.inPair ∨ s.twin.state = 4 ∨ s.twin.state = 5 ∨ s.twin.state = 6 then s
  else if !s.twin.own then
    if goesOn || (s.twin.state = 1 && s.twin.mismatch) then s else (s.takeDrop).twinTo 5 4
  else
    let active := s.twin.state = 2
    let s := (s.outputsOff true).releaseOwn
    let s := if s.twin.linkUp then s.put (.twin 4 []) else s
    let s := s.twinTo 5 4
    let s := s.causedBy s.log.lastTs fun s => forEach (List.range s.nBeams) (fun n s => s.interrupt n 7) s
    if active then s.dropUnmirrored else s

/-- TWIN_KILL_RELEASE. -/
def State.twinKillRelease (s : State) : State := (s.updTwin fun t => { t with killIn := false }).docLevel 24 false

/-- TWIN_HB_EDGE: the heartbeat and negotiation timers start again. -/
def State.twinHbEdge (s : State) : State :=
  (s.updTwin fun t => { t with hbAt := some s.now, negAt := s.now }).docPulse 25

/-! ## Resynchronisation (R409, R410) -/

/-- RESYNC begins, with a first attempt. -/
def State.toResync (s : State) (cause : Nat) : State :=
  (s.twinTo 4 cause).updTwin fun t =>
    { t with resolving := true, reAttempt := 1, reBegan := s.now, reBytes := 0, copied := false, takeD := none, takeB := none, takeH := none }

/-- The partner's hello, once known to be a twin of the same grade and firmware (R404, R405). -/
def State.helloJoin (s : State) (st : Nat) (news : Bool) : State :=
  let note (s : State) : State := s.record s.twinSrc 0x6001
    (le 1 s.twin.state ++ le 1 s.twin.state ++ le 1 1 ++ le 1 s.twin.partner ++ le 4 s.twin.partnerFw ++ zeros 16)
  match st with
  | 2 => s.toResync 1
  | 0 =>
    let s := if news then note s else s
    if s.twin.killIn then s.twinTo 5 4 else s
  | 1 =>
    if s.twin.killIn then s.twinTo 5 4
    else if s.straps.roleB then s.toResync 1
    else (s.twinTo 2 1).takeOwn
  | _ => s

/-- The ACTIVE copies its state for the partner (R410); the framing of the copy is the twin link's own. -/
def State.sendCopy (s : State) : State :=
  (s.put (.twin 12 (le 8 s.nextFrame))).bump P.TWIN_RESYNCS 0

/-- The hello comes from a controller that cannot be a twin: one of the other grade in every state but SINGLE and FAILED (R6), one of
another firmware version while a pair is being formed (R402, R404). -/
def State.otherKind (s : State) (h : Hello) : Bool :=
  1 ≤ s.twin.state && s.twin.state ≤ 5 &&
    (h.grade ≠ s.gradeCode || (h.fw ≠ s.fwRunning && (s.twin.state = 1 || (s.twin.state = 5 && h.state = 2))))

/-- R6: role A goes on as an unpaired controller; role B lets go of the machine and waits in NEGOTIATE, or in KILLED while
TWIN_KILL_IN is asserted. A change of the partner writes a record (log entry 54). -/
def State.mismatch (s : State) (news : Bool) : State :=
  if !s.straps.roleB then ((s.twinTo 0 7).takeOwn).updPower fun p => { p with started := true }
  else if s.twin.state = 1 ∨ s.twin.state = 5 then
    let st := s.twin.state
    if news then s.record s.twinSrc 0x6001
      (le 1 st ++ le 1 st ++ le 1 7 ++ le 1 s.twin.partner ++ le 4 s.twin.partnerFw ++ zeros 16) else s
  else
    let s := (s.outputsOff true).releaseOwn
    s.twinTo (if s.twin.killIn then 5 else 1) 7

/-- TWIN_HELLO. -/
def State.twinHello (s : State) (h : Hello) : State :=
  if !s.twin.paired then s.put (.twin 1 (le 1 0))
  else
    let news := s.twin.partner ≠ h.state || !s.twin.heard
    let bad := h.grade ≠ s.gradeCode || h.fw ≠ s.fwRunning
    let s := s.updTwin fun t =>
      { t with
        partner := h.state
        partnerFw := h.fw
        linkUp := true
        heard := true
        heardAt := s.now
        negAt := s.now
        mismatch := bad
        faultIn := t.faultIn && h.state = 6 }
    let s := s.docLevel 23 s.twin.faultIn
    if s.otherKind h then s.mismatch news
    else match s.twin.state with
    | 1 => s.helloJoin h.state news
    | 5 =>
      if h.state = 2 && !bad && !s.fatal && s.power.state ≠ 5 then ((s.twinTo 1 1).helloJoin 2 false) else s
    | 2 =>
      if h.state = 6 then s.shadowLost
      else
        let s := if h.state = 3 ∨ h.state = 4 then s.updTwin fun t => { t with lost := false } else s
        let s := if h.state = 4 && news then (s.updTwin fun t => { t with resolving := true }).sendCopy else s
        if h.state = 3 then
          let s := s.updTwin fun t => { t with resolving := false }
          match s.twin.reAsked with
          | some k => (s.decideNow k rOK).updTwin fun t => { t with reAsked := none }
          | none => s
        else s.killAssert
    | _ => s

/-- R233: a module that was killed, its head links in electrical idle, trains them again when it becomes SHADOW. -/
def State.relink (s : State) : State :=
  if !s.twin.linksCut then s
  else
    let s := s.updTwin fun t => { t with linksCut := false }
    if !s.expRuns then s
    else forEach (List.range s.nBeams) (fun n s =>
      if s.rg P.HP_GEN n ≠ 0 ∧ s.xy2Of n = none then s.headTrain n 4 else s) s

/-- What the digest covers (R409), in table order. -/
def State.digestFields (s : State) : List Nat :=
  let i (v : Int) : Nat := ofSigned 64 v
  let beams := (List.range s.nBeams).flatMap fun n =>
    let b := s.beam n
    let v := b.vecs.find? fun v => !v.done && v.t1 > (s.now : Int)
    [b.st, s.now / 256, (v.map (·.idx)).getD 0, (v.map (·.line)).getD 0, b.tag, i b.px, i b.py, b.cmds.length,
      s.rg P.BEAM_RAS_REGION_NO n, s.rg P.BEAM_RAS_LINE_NOW n]
  let heads := (List.range s.nBeams).flatMap fun n => [(s.head n).state, s.rg P.HP_FAULT n, s.rg P.HP_HANDOVER n]
  let slots := (List.range 128).flatMap fun k =>
    let c := s.slotOf k
    if c.kind = 0 then []
    else if c.kind = 3 then [c.modeWord, s.rg P.HYL_OUT k]
    else [c.modeWord] ++ s.sfVec k P.MPL_X 8 ++ s.sfVec k P.MPL_XI 4 ++ c.notch ++ s.sfVec k P.MPL_U_GOOD 2 ++ [s.sf k P.MPL_RES_CNT]
  let leases := (List.range s.nBeams).flatMap fun n =>
    ((s.beam n).wsegs.filter fun w => w.status ≥ 2).flatMap fun w => [w.status, i w.t0, i w.t1]
  let cells := (List.range 8).flatMap fun a =>
    let c := s.prf a
    [c.st, i (c.evalAt s.now).1, c.queue.length] ++
      (c.queue.flatMap fun (m : Move) => [m.mode, i m.target, b2n m.fromEnd, m.spd, m.acc, m.dec, m.jerk, m.tag]) ++ (if a < 6 then [(s.stp a).phase] else [])
  let outs := s.mot.outs.map fun o => i o.emitted
  let pipes := (List.range s.nPipes).flatMap fun p => [b2n (s.pipe p).run, (s.pipe p).fn, (s.pipe p).gen]
  let loans := (s.store.accs.filter fun a => accPool a.1 ≠ 4 && accPool a.1 ≠ 7).flatMap fun a => [a.1, a.2.state, a.2.loans]
  beams ++ heads ++ slots ++ leases ++ cells ++ outs ++ pipes ++ ([s.lamp.st, s.lamp.step] ++ s.lamp.eff) ++ loans

def State.digest (s : State) : Nat := crc64 (Config.digestBytes s.digestFields)

/-- The SHADOW's time base agrees with the ACTIVE's as R387 asks. -/
def State.timeAligned (s : State) : Bool :=
  s.twin.measured && s.twin.twinOfs ≤ 10 && s.twin.twinOfs ≥ -(s.rg P.TIME_STEP_THR 0 : Int)

/-- TWIN_DIGEST: the snapshot of a digest boundary, or the partner's digest of the last one. -/
def State.twinDigest (s : State) (partner : Option Nat) : State :=
  if s.twin.state < 2 ∨ s.twin.state > 4 then s
  else match partner with
  | none =>
    if s.now ≠ s.tick ∨ s.frameNo % 1024 ≠ 0 then s
    else
      let d := s.digest
      let s := s.updTwin fun t => { t with digestFrame := s.frameNo, digestSent := some d }
      (s.setRg2 P.TWIN_DIGEST 0 (d : Nat)).put (.twin 2 (le 8 s.frameNo ++ le 8 d))
  | some p =>
    match s.twin.digestSent with
    | none => s
    | some d =>
      let s := s.updTwin fun t => { t with digestSent := none }
      if d = p % 2 ^ 64 then
        if s.twin.state = 4 && s.twin.copied && s.timeAligned then
          let us := (s.now - s.twin.reBegan) / 1000
          let s := s.record s.twinSrc 0x6004 (le 1 s.twin.reAttempt ++ le 1 0 ++ zeros 2 ++ le 8 s.twin.reBytes ++ le 4 us ++ zeros 8)
          let s := s.updTwin fun t => { t with resolving := false }
          (s.twinTo 3 3).relink
        else s
      else
        let s := s.bump P.TWIN_DIGEST_MISS 0
        if s.twin.state = 4 then s
        else
          let s := s.record s.twinSrc 0x6002 (le 8 s.twin.digestFrame ++ le 8 d ++ le 8 p)
          if s.twin.state = 3 then s.causedBy s.log.lastTs fun s => s.toResync 3 else s.updTwin fun t => { t with resolving := true }

/-- A SHADOW or a joining module takes the copy at its boundary (R410). What is its own stays: the management parameters but for the GPO word, and of its
head links the alignment, the frames and the delays. -/
def State.takeCopy (s : State) (c : Copy) : State :=
  let machine (p : Nat × Nat) : Bool := p.1 ≥ 2 ^ 28 || p.1 = P.IO_GPO
  let mine := s.params.filter fun p => !machine p
  let theirs := c.params.filter machine
  let heads := (s.heads.zip c.heads).map fun (h, n) =>
    { n with
      delta := h.delta, dHist := h.dHist, aLast := h.aLast, trainAt := h.trainAt, aligned := h.aligned, goodRun := h.goodRun,
      page0 := h.page0, page1 := h.page1, lastErr := h.lastErr, arrived := h.arrived, rowsOk := h.rowsOk, rowsAt := h.rowsAt,
      sent := h.sent, sentAt := h.sentAt, txRd := h.txRd, rxRd := h.rxRd, commas := h.commas }
  let s : State :=
    { s with
      params := mine ++ theirs
      writes := c.writes
      beams := c.beams
      heads := heads
      cns := c.cns
      xy2 := c.xy2
      gal := c.gal
      mot := c.mot
      pipes := c.pipes.map PipeSt.idleBus
      lamp := c.lamp.idleBus }
  let s := s.updStore fun st => { st with accs := c.accs, mem := c.mem, next := c.next }
  let s := s.updLog fun l => { l with nextSeg := c.nextSeg, segs := c.segs }
  -- what waits in the copy takes effect at its own point
  let lead := s.rg P.TWIN_FWD_LEAD 0
  let held : List Held := (List.range 32).flatMap fun k =>
    ((c.owner.stream k).waiting.map fun w => ⟨k, w.seq, w.stamp + lead, true⟩)
  let s := s.updSession 0 fun _ =>
    { c.owner with
      isOpen := false
      held := true
      streams := c.owner.streams.map fun q => { q with waiting := q.waiting.map fun (w : Waiting) => { w with twin := true } } }
  let s := s.updDoc fun d => { d with stackH := c.stackH }
  let s := s.updTime fun t => { t with launches := c.launches }
  (s.updTwin fun t => { t with reBytes := c.bytes, copied := true, replies := [], held := held }).bump P.TWIN_RESYNCS 0

/-- STATE_TRANSFER: the ACTIVE sends a copy, or a copy has come whose boundary is reached. -/
def State.stateTransfer (s : State) (copy : Option Copy) : State :=
  match copy with
  | none => if s.twin.state = 2 && s.twin.partner = 4 then s.sendCopy else s
  | some c =>
    if s.now < c.boundary then s
    else match s.twin.state with
    | 3 => (s.toResync 3).takeCopy c
    | 4 => s.takeCopy c
    | _ => s

/-- RESYNC_TIMEOUT: three attempts of RESYNC_TMO each, then NEGOTIATE with TWIN attention still set (R410). -/
def State.resyncTimeout (s : State) : State :=
  if s.twin.state ≠ 4 ∨ s.now < s.twin.reBegan + s.rg P.TWIN_RESYNC_TMO 0 * 1000000 then s
  else
    let us := (s.now - s.twin.reBegan) / 1000
    let s := s.record s.twinSrc 0x6004 (le 1 s.twin.reAttempt ++ le 1 1 ++ zeros 2 ++ le 8 s.twin.reBytes ++ le 4 us ++ zeros 8)
    if s.twin.reAttempt < 3 then
      (s.updTwin fun t => { t with reAttempt := t.reAttempt + 1, reBegan := s.now, reBytes := 0, copied := false }).put (.twin 11 [])
    else (s.twinTo 1 3).updTwin fun t => { t with negAt := s.now, resolving := true }

/-! ## Time alignment (R386, R387) -/

/-- TWIN_TIMING_EXCHANGE: θ from the four stamps, less the link's skew from the calibration table, in ns. -/
def State.twinTiming (s : State) (t1 t2 t3 t4 : TS) : State :=
  if s.twin.state ≠ 3 ∧ s.twin.state ≠ 4 ∧ !(s.twin.state = 1 && s.twin.partner = 2) then s
  else
    let raw : Int := ((t2 : Int) - t1) - ((t4 : Int) - t3)
    let skew : Int := s.calInt 245 + s.calInt 246
    let theta := roundDiv (raw * 1000 - skew) 2000
    let s := (s.updTwin fun t => { t with twinOfs := theta, measured := true }).setRgI P.TIME_TWIN_OFS 0 (sat32 theta)
    if s.twin.state = 3 then s.offer 4 theta 655360
    else if theta < -(s.rg P.TIME_STEP_THR 0 : Int) then
      if s.time.step.isNone then s.requestStep (-theta).toNat 3 none none else s
    else if theta > 10 then s.setFreq (fNeg (fOfPpb (s.rg P.TIME_FMAX 0)))
    else s.setFreq s.time.i

/-! ## Commands (R419, R434) -/

def State.bodyTwinStatus (c : Ctx) (s : State) : State :=
  s.ok c (le 1 s.twin.state ++ le 1 (b2n s.straps.roleB) ++ le 1 s.twin.partner ++ le 1 s.twinPins ++
    le 8 (ofSigned 64 (s.rg2 P.TWIN_DIGEST 0)) ++ le 8 s.twin.digestFrame ++ le 4 s.fwdPend)

/-- Nothing that TWIN_SWITCH would cut short is under way (R419). -/
def State.switchQuiet (s : State) : Bool := !(s.beams.any fun b => b.st = 3 || b.st = 4) && !(s.mot.cells.any fun p => p.moving)

def State.bodyTwinSwitch (c : Ctx) (s : State) : State :=
  s.unless c (firstBad [(!s.settledPair || !s.switchQuiet, rBADSTATE)]) fun s =>
    let b := s.framesAhead 16
    let s := (s.updTwin fun t => { t with switchAt := some b }).put (.twin 10 (le 8 b))
    s.ok c (le 8 (b / 2560))

def State.bodyTwinSeize (c : Ctx) (s : State) : State :=
  let slot := u8 c.payload 0
  let ep := (s.session c.sess).ep
  let (nonce, s) := s.takeNonce false ep c.sess
  s.unless c (firstBad [(s.twin.state ≠ 3, rBADSTATE), (slot > 7, rBADPARAM)]) fun s =>
    if s.tagOk slot 1 nonce [0x53, BitVec.ofNat 8 slot] (field c.payload 4 16) then
      let s := s.takeStart 4 s.now (some s.now)
      s.updTwin fun t => { t with seize := some c.k }
    else (s.authFail slot 3 ep).reject c rNOAUTH

def State.bodyTwinResync (c : Ctx) (s : State) : State :=
  s.unless c (firstBad [(s.twin.state ≠ 2 || s.twin.partner ≠ 3 || s.twin.lost, rBADSTATE)]) fun s =>
    (s.updTwin fun t => { t with reAsked := some c.k, resolving := true }).sendCopy

/-- TWIN_ACK of the SHADOW (R406): a command late for its point takes effect at a boundary four frames ahead or more, told by
an effect notice; a reply may be delivered. -/
def State.twinAck (s : State) (reply : Bool) (stream seq : Nat) : State :=
  let s := s.updTwin fun t => { t with
    heardAt := s.now
    fwd := t.fwd.filter fun f => !(f.reply = reply && f.stream = stream && f.seq = seq) }
  if reply then
    s.updStream 0 stream fun q => { q with slots := q.slots.map fun (sl : Slot) =>
      if sl.seq = seq ∧ sl.mirror = 1 then { sl with mirror := 2 } else sl }
  else match s.twin.held.find? fun h => h.stream = stream && h.seq = seq && !h.acked with
  | none => s
  | some h =>
    let late := s.now > h.due
    let due := if late then s.framesAhead 4 else h.due
    let s := s.updTwin fun t => { t with held := t.held.map fun (x : Held) =>
      if x.stream = stream ∧ x.seq = seq then { x with due := due, acked := true } else x }
    if late then s.put (.twin 3 (le 1 stream ++ le 4 seq ++ le 8 due)) else s

end Sys2Proof.Machine
end

