-- ==== Sys2Proof/Machine/Gate.lean ====
section
/-!
DEFINITION. Block clock gating (R32-R36, R508): which blocks can gate, when one is idle, which block a command reaches, and
CLK_STATE.
-/
namespace Sys2Proof.Machine

open Sys2Proof

/-- The clock domain of a region's blocks runs (R31): EXP, MOT and VIS in READY and EXPOSE, STO and MGT from IDLE upward. -/
def State.domainRuns (s : State) (region : Nat) : Bool :=
  if region = 0 ∨ region = 4 then 2 ≤ s.power.state && s.power.state ≤ 4 else s.expRuns

/-- The blocks that can gate (R508). -/
def gateable (region block : Nat) : Bool :=
  match region with
  | 1 => block < 6 || block = 8
  | 2 => block < 4
  | 3 => block < 2
  | 4 => block = 4
  | _ => false

def blkKey (region block : Nat) : Nat := region * 256 + block

/-- The gating state of a block; one not listed runs. -/
def State.blk (s : State) (region block : Nat) : BlkSt := (assocGet s.blks (blkKey region block)).getD ⟨2, 0, 0⟩

def State.setBlk (s : State) (region block : Nat) (b : BlkSt) : State :=
  { s with blks := assocPut s.blks (blkKey region block) b }

/-- Work reaches a block: its idle time begins anew, and a gated one starts to run (R34). -/
def BlkSt.ask (b : BlkSt) (t : TS) : BlkSt :=
  if b.clk = 0 then ⟨1, t, t⟩ else { b with idleAt := t }

/-- CLK_STATE (R36, R508): 0 gated or the domain stopped, 1 ungating, 2 running. -/
def State.clkState (s : State) (region block : Nat) : Nat :=
  if !s.domainRuns region then 0 else if gateable region block then (s.blk region block).clk else 2

/-- The block a parameter's cell lies in, if it can gate. -/
def pidBlocks (pid : Nat) : List (Nat × Nat) :=
  let i := pidInst pid
  let per4 (region blocks : Nat) : List (Nat × Nat) :=
    if i = 0xFF then (List.range blocks).map fun b => (region, b) else [(region, i / 4)]
  match pidRegion pid, pidClass pid with
  | 1, 0 | 1, 1 => per4 1 6
  | 1, 6 => [(1, 8)]
  | 2, 0 | 2, 1 => per4 2 2
  | 2, 2 | 2, 3 | 2, 4 | 2, 5 => [(2, 2)]
  | 2, 6 | 2, 7 => [(2, 3)]
  | 3, 0 => per4 3 2
  | 4, 4 => [(4, 4)]
  | r, 8 => if i = 0xFF then (List.range 9).map fun b => (r, b) else [(r, i)]
  | _, _ => []

/-- A read of a parameter of the block itself is answered while the block is gated, or CLK_STATE 0 could never be read (log entry 72);
every other access reaches the block. -/
def readsBlock (op pid : Nat) : Bool := (op = 0x0100 || op = 0x0102) && pidClass pid = 8

/-- The PIDs a parameter command names. -/
def pidsOf (op : Nat) (p : List Byte) : List Nat :=
  match op with
  | 0x0100 | 0x0101 => [u32 p 0]
  | 0x0102 => (List.range (min 64 (u32 p 0))).map fun k => u32 p (4 + 4 * k)
  | 0x0103 => (List.range (min 64 (u32 p 0))).map fun k => u32 p (4 + 8 * k)
  | _ => []

/-- The blocks that can gate which a command reaches (R34). -/
def blocksOf (stream op : Nat) (p : List Byte) : List (Nat × Nat) :=
  let own : List (Nat × Nat) :=
    if 1 ≤ stream ∧ stream ≤ 24 then [(1, (stream - 1) / 4)]
    else match op / 256 with
    | 0x20 => if op = 0x2006 ∨ op = 0x2007 then [(2, u8 p 0 / 4)] else [(2, 2)]
    | 0x28 => [(2, 3)]
    | 0x30 => [(3, u8 p 0 / 4)]
    | 0x40 => [(4, 4)]
    | _ => []
  (own ++ ((pidsOf op p).filter fun q => !readsBlock op q).flatMap pidBlocks).filter fun g => gateable g.1 g.2

/-- The blocks that the commands which wait in the streams reach: a queued command keeps its block from gating (R33), and a block that
has gated meanwhile is asked again (R34). -/
def State.askedBlocks (s : State) : List (Nat × Nat) :=
  s.host.sessions.flatMap fun x => x.streams.zipIdx.flatMap fun q => q.1.waiting.flatMap fun w => blocksOf q.2 w.op w.payload

/-- A beam cell has queued or running work (R33). -/
def State.beamBusy (s : State) (n : Nat) : Bool :=
  let b := s.beam n
  !b.cmds.isEmpty || !b.ctl.isEmpty || b.arming.isSome || b.st = 1 || b.st = 3 || b.st = 4 || !b.ras.halts.isEmpty

/-- A parameter write waits for its boundary at a block (R26, R33). -/
def State.writesAt (s : State) (region block : Nat) : Bool :=
  s.writes.any fun w => w.writes.any fun q => (pidBlocks q.1).contains (region, block)

/-- A block has work, so that it is not idle (R33, R508); `asked`: the blocks that waiting commands reach. -/
def State.blockBusy (s : State) (asked : List (Nat × Nat)) (region block : Nat) : Bool :=
  let cells := (List.range 4).map fun k => 4 * block + k
  asked.contains (region, block) || s.writesAt region block || match region, block with
  | 1, 8 => (List.range 4).any fun q => s.rg P.XY2_BEAM q < 24
  | 1, _ => cells.any fun n => s.beamBusy n
  | 2, 2 => (List.range 8).any fun a => (s.prf a).st ≠ 0
  | 2, 3 => s.lamp.st ≠ 0 || !s.lamp.xfers.isEmpty
  | 2, _ => cells.any fun n => s.rg P.FBK_TYPE n ≠ 0 || s.rg P.OUT_MODE n ≠ 0 ||
      (List.range 2).any fun k => bits (s.rg (P.FBK_LATCH_SRC + k) n) 5 0 ≠ 0
  | 3, _ => cells.any fun p => (s.pipe p).run || !(s.pipe p).commits.isEmpty || !(s.pipe p).xfers.isEmpty
  | 4, 4 => s.store.zips.any fun z => !z.jobs.isEmpty || !z.pipe.isEmpty || z.running.isSome
  | _, _ => true

/-- The blocks that can gate, on the larger grade. -/
def gateBlocks : List (Nat × Nat) :=
  [(1, 0), (1, 1), (1, 2), (1, 3), (1, 4), (1, 5), (1, 8), (2, 0), (2, 1), (2, 2), (2, 3), (3, 0), (3, 1), (4, 4)]

/-- Keep the gating states: a stopped domain keeps none; a started one runs; a busy block's idle time has not begun, and a
gated one that has work ungates. -/
def State.gateRefresh (s : State) : State :=
  let asked := s.askedBlocks
  forEach gateBlocks (fun (g : Nat × Nat) s =>
    let key := blkKey g.1 g.2
    if !s.domainRuns g.1 then { s with blks := assocDel s.blks key }
    else
      let listed := (assocGet s.blks key).isSome
      let b := s.blk g.1 g.2
      if s.blockBusy asked g.1 g.2 then s.setBlk g.1 g.2 (b.ask s.now)
      else if listed then s else s.setBlk g.1 g.2 ⟨2, s.now, 0⟩) s

/-- BLOCK_GATE: idle for longer than IDLE_GATE (R33). -/
def State.blockGate (s : State) (region block : Nat) : State :=
  let gate := s.reg (mkPid region 8 block P.BLK_IDLE_GATE)
  let b := s.blk region block
  if gateable region block ∧ s.domainRuns region ∧ gate ≠ 0 ∧ b.clk = 2 ∧ !s.blockBusy s.askedBlocks region block ∧
      s.now > b.idleAt + gate * 1000
  then s.setBlk region block { b with clk := 0 } else s

/-- BLOCK_UNGATE: the block runs again (R32). -/
def State.blockUngate (s : State) (region block : Nat) : State :=
  let b := s.blk region block
  if gateable region block ∧ s.domainRuns region ∧ b.clk = 1 then s.setBlk region block { b with clk := 2, idleAt := s.now } else s

/-- A command reaches a block whose clocks do not run (R34). -/
def State.gateHolds (s : State) (stream op : Nat) (p : List Byte) : Bool :=
  (blocksOf stream op p).any fun g => s.domainRuns g.1 && s.clkState g.1 g.2 ≠ 2

/-- A command arrives at its blocks: the idle time begins anew, and a gated block is asked to run. -/
def State.gateTouch (s : State) (stream op : Nat) (p : List Byte) : State :=
  forEach (blocksOf stream op p) (fun (g : Nat × Nat) s =>
    if !s.domainRuns g.1 then s
    else
      let b := s.blk g.1 g.2
      s.setBlk g.1 g.2 (b.ask s.now)) s

end Sys2Proof.Machine
end

