-- ==== Sys2Proof/Machine/Reply.lean ====
section
/-!
DEFINITION. How replies leave (R43, R44, R51-R57, R61-R64, R80): readiness and moderation, the reply rings, the status word, and
the attention set.
-/
namespace Sys2Proof.Machine

open Sys2Proof

/-! ## Credit and the status word -/

/-- Slots of a stream that hold neither an undecided command nor an undelivered reply (R52). -/
def StreamSt.freeSlots (x : StreamSt) : Nat := 4096 - (x.slots.filter fun sl => !sl.delivered).length
/-- R52. -/
def StreamSt.credit (x : StreamSt) : Nat := min 255 (x.freeSlots / 16)
/-- Consumed and not yet decided; decided and not yet delivered (PENDING, UNDELIV). -/
def StreamSt.pendingCount (x : StreamSt) : Nat := (x.slots.filter fun sl => sl.dec.isNone).length
def StreamSt.undelivered (x : StreamSt) : Nat := (x.slots.filter fun sl => sl.dec.isSome && !sl.delivered).length

/-- R53, R87: the status word of a reply of a generation. -/
def State.statusWord (s : State) (gen result credit : Nat) : Nat :=
  result * 2 ^ 24 + s.host.attention * 2 ^ 16 + (if gen = 2 then 0 else s.host.epoch % 256 * 256) + credit

/-! ## Packets (R38, R43, R87) -/

/-- The bytes of a reply packet. -/
def replyBytes (gen stream op seq flags status : Nat) (acc eff : TS) (payload : List Byte) : List Byte :=
  let body := if gen = 2 then le 4 status ++ le 8 eff ++ payload else le 4 status ++ le 8 acc ++ le 8 eff ++ payload
  let head := if gen = 2
    then le 1 2 ++ le 1 flags ++ le 1 stream ++ le 2 op ++ le 2 seq ++ le 2 body.length ++ zeros 1
    else le 1 3 ++ le 1 flags ++ le 1 stream ++ zeros 1 ++ le 2 op ++ le 4 seq ++ le 4 body.length
  let whole := head ++ le 2 (crc16 head) ++ body
  whole ++ le 4 (crc32c whole)

/-! ## Reply rings (R61) -/

def ReplyRing.bytes (r : ReplyRing) : Nat := 2 ^ (16 + r.size)

/-- Bytes that may still be written: 64 stay free between the tail and the head. -/
def ReplyRing.room (r : ReplyRing) : Nat := r.bytes - 64 - (r.tail + r.bytes - r.headDb) % r.bytes

/-- A reply's place in the ring, in whole 64 bytes, and whether a pad goes before it. -/
def ReplyRing.place (r : ReplyRing) (n : Nat) : Nat × Bool := (ceilDiv n 64 * 64, r.tail + n > r.bytes)

def ReplyRing.fits (r : ReplyRing) (n : Nat) : Bool :=
  let (m, pad) := r.place n
  if pad then r.bytes - r.tail + m ≤ r.room else m ≤ r.room

/-- The ring after a reply of n bytes has been written. -/
def ReplyRing.after (r : ReplyRing) (n : Nat) : ReplyRing :=
  let (m, pad) := r.place n
  let at_ := if pad then 0 else r.tail
  let wraps := if pad then r.wraps + 1 else r.wraps
  if at_ + m = r.bytes then { r with tail := 0, wraps := (wraps + 1) % 2 ^ 32 }
  else { r with tail := at_ + m, wraps := wraps % 2 ^ 32 }

def State.ring (s : State) (q : Nat) : ReplyRing := s.host.rings.getD q ⟨0, 0, false, 0, 0, 0, 0⟩
def State.updRing (s : State) (q : Nat) (f : ReplyRing → ReplyRing) : State :=
  s.updHost fun h => { h with rings := h.rings.modify q f }

/-- A pad header: stream 0xFF; the fields the manual leaves open are free (log entry 41). -/
def State.padHeader (s : State) : List Byte × State :=
  let (v, s) := s.draw
  let head := le 1 3 ++ le 1 v ++ le 1 0xFF ++ zeros 1 ++ le 10 (v / 256)
  (head ++ le 2 (crc16 head), s)

/-- Write a packet to a ring. -/
def State.ringWrite (s : State) (q : Nat) (b : List Byte) : State :=
  let r := s.ring q
  let (_, pad) := r.place b.length
  let s := if pad then
      let (h, s) := s.padHeader
      s.put (.hostWrite (r.base + r.tail) h)
    else s
  (s.put (.hostWrite (r.base + (if pad then 0 else r.tail)) b)).updRing q fun r => r.after b.length

/-- R61: the tail of a ring is written back. -/
def State.tailBack (s : State) (q : Nat) : State :=
  let r := s.ring q
  s.put (.hostWrite r.tailWb (le 4 r.tail ++ le 4 r.wraps))

/-! ## Readiness and moderation (R62, R63) -/

/-- Streams that moderation may hold. -/
def moderated (stream : Nat) : Bool := 1 ≤ stream && stream ≤ 27

/-- Decided replies at the front of a stream that have not been delivered and may be (R80, R406). -/
def StreamSt.front (x : StreamSt) : List Slot :=
  (x.slots.filter fun sl => !sl.delivered).takeWhile fun sl => sl.dec.isSome && sl.mirror = 2

/-- A reply ends moderation at once (R63). -/
def Slot.urgent (sl : Slot) : Bool :=
  bit sl.flags 1 || sl.op = 0x0008 || sl.op = 0x0001 ||
  (match sl.dec with | some d => d.result ≠ rOK && d.result ≠ rQUEUED | none => false)

/-- The batch of a stream is triggered. -/
def State.triggered (s : State) (x : Session) (stream : Nat) (waiting : List Slot) (all : Bool) : Bool :=
  !moderated stream || x.gen ≠ 3 || all || waiting.length ≥ s.rg P.STREAM_MOD_N stream || waiting.any (·.urgent) ||
  waiting.any fun sl => match sl.dec with
    | some d => s.now ≥ d.stamp + s.rg P.STREAM_MOD_T stream * 1000
    | none => false

/-- A reply of a session may leave: the session is open, or the command came before the SESSION_CLOSE that closed it. -/
def Session.mayLeave (x : Session) (sl : Slot) : Bool := x.isOpen || sl.ord < x.lastOrd

/-- Mark the replies of a stream of a session that become ready to write. -/
def State.markReady (s : State) (all : Bool) (sess stream : Nat) : State :=
  let x := s.session sess
  let waiting := ((x.stream stream).front).filter fun sl => sl.ready.isNone && x.mayLeave sl
  if waiting.isEmpty || !s.triggered x stream waiting all then s
  else
    let n := s.host.readyCount
    let seqs := waiting.map (·.seq)
    let s := s.updStream sess stream fun q => { q with slots := q.slots.map fun (sl : Slot) =>
      if !sl.delivered && sl.ready.isNone && seqs.contains sl.seq then { sl with ready := some (n + seqs.idxOf sl.seq) } else sl }
    s.updHost fun h => { h with readyCount := n + seqs.length }

/-! ## Leaving -/

/-- A reply that waits to leave, from a slot or not. -/
structure Leave where
  loose : Loose
  slot : Bool
  deriving DecidableEq, Repr, Inhabited

/-- What waits to leave, in the order in which it became ready. -/
def State.leaving (s : State) : List Leave :=
  let slots : List Leave := (List.range 8).flatMap fun i =>
    let x := s.session i
    (List.range 32).flatMap fun k => (x.stream k).slots.filterMap fun sl =>
      match sl.ready, sl.dec with
      | some o, some d =>
        if sl.delivered || !x.mayLeave sl then (none : Option Leave)
        else some ⟨⟨o, x.ep, x.gen, k, sl.op, sl.seq, sl.flags, some i, d.result, none, sl.accepted, d.eff, d.payload, false⟩, true⟩
      | _, _ => none
  sortBy (fun (a b : Leave) => a.loose.order ≤ b.loose.order) (slots ++ s.host.loose.map fun l => (⟨l, false⟩ : Leave))

/-- The SHP1 address of a stream (R89). -/
def shp1Address (stream : Nat) : Nat := if stream = 0 then 0xFF else stream - 1

/-- A reply leaves: its slot becomes delivered, its status word is filled in, and it goes to its endpoint (R51, R53). The credit it
carries counts it as delivered (log entry 99). Only a re-delivery carries the status of the first delivery, and REPLAY (R39, R80). -/
def State.leave (s : State) (v : Leave) (ring : Option Nat) : State :=
  let l := v.loose
  let sess := l.sess.getD 0
  let s := if v.slot then
      s.updStream sess l.stream fun q => { q with slots := q.slots.map fun (sl : Slot) =>
        if sl.seq = l.seq ∧ !sl.delivered then { sl with delivered := true } else sl }
    else s.updHost fun h => { h with loose := h.loose.filter fun (x : Loose) => x.order ≠ l.order }
  let credit := match l.sess with | some i => ((s.session i).stream l.stream).credit | none => 0
  let kept := if l.replay then l.sess.bind fun i => (((s.session i).stream l.stream).slot? l.seq).bind (·.status) else none
  let w := kept.getD (l.status.getD (s.statusWord l.gen l.result credit))
  -- the status that a later delivery of the same reply carries again (R80)
  let s := if v.slot || l.replay then
      s.updStream sess l.stream fun q => { q with slots := q.slots.map fun (sl : Slot) =>
        if sl.seq = l.seq then { sl with status := some (sl.status.getD w) } else sl }
    else s
  if l.gen = 1 then s.put (.shp1 l.ep (shp1Address l.stream) (l.seq % 256) (l.result < 0x10) l.result (bits w 23 16))
  else
    -- R39: RSP, IMM and CHAIN as in the command, REPLAY
    let flags := 1 + bits l.flags 2 1 * 2 + b2n l.replay * 8
    let seq := if l.gen = 2 then l.seq % 65536 else l.seq
    let s := s.put (.reply l.ep l.stream l.op seq flags w l.acc l.eff l.payload)
    match ring with
    | some q => s.ringWrite q (replyBytes l.gen l.stream l.op seq flags w l.acc l.eff l.payload)
    | none => s

/-- Bytes of a reply packet on the wire. -/
def Loose.wire (l : Loose) : Nat := if l.gen = 2 then 12 + 12 + l.payload.length + 4 else 16 + 20 + l.payload.length + 4

/-- Replies leave in order; a PCIe reply waits for its ring, and the later ones of that ring behind it (R62). Over UDP each goes in a
datagram of its own (R66, log entry 100). -/
def State.leaveAll (s : State) : State :=
  let r := s.leaving.foldl (fun (a : State × List Nat × List Nat) v =>
    let (s, stuck, used) := a
    let l := v.loose
    match l.ep with
    | .pcie =>
      let q := s.rg P.STREAM_RQ l.stream
      let r := s.ring q
      if stuck.contains q || !s.host.pcieUp || !r.enabled || !r.fits l.wire then (s, q :: stuck, used)
      else (s.leave v (some q), stuck, if used.contains q then used else used ++ [q])
    -- a datagram gives way to a launch on its port (R388)
    | .udp _ _ p _ =>
      if stuck.contains (256 + p) || s.macBusy p (42 + l.wire) then (s, (256 + p) :: stuck, used) else (s.leave v none, stuck, used)
    | .serial => (s.leave v none, stuck, used)) (s, [], [])
  r.2.2.foldl State.tailBack r.1

/-- Decided replies become ready, and leave. -/
def State.replyRound (s : State) (all : Bool) : State :=
  let s := forEach (List.range 8) (fun i s => forEach (List.range 32) (fun k s => s.markReady all i k) s) s
  s.leaveAll

/-! ## The attention set (R55, R56) -/

/-- A reply outside the slots waits for room in its ring: the first reply that waits there does not fit, or the ring is not up. -/
def State.waitsForRoom (s : State) (l : Loose) : Bool :=
  l.ep = .pcie &&
    (let q := s.rg P.STREAM_RQ l.stream
     let r := s.ring q
     !s.host.pcieUp || !r.enabled ||
     match s.leaving.find? fun (v : Leave) => v.loose.ep = .pcie && s.rg P.STREAM_RQ v.loose.stream = q with
     | some v => !r.fits v.loose.wire
     | none => false)

/-- STREAM attention (R55): a stream of the open owner session has credit 0, holds replies that wait for room, or has a stopped
submission ring. Rings belong to the owner session while it is the one on PCIe (log entry 98). -/
def State.streamAttention (s : State) : Bool :=
  let x := s.session 0
  x.isOpen &&
    ((x.streams.any fun q => q.credit = 0 || q.slots.any fun sl => sl.ready.isSome && !sl.delivered) ||
     (x.ep = .pcie && s.host.sub.any fun r => r.stopped) || s.host.loose.any fun l => l.sess = some 0 && s.waitsForRoom l)

/-- FAULT attention (R55, R418, R456). -/
def State.faultAttention (s : State) : Bool := s.chipClass ≥ clsDegraded || s.mram.calBad || s.twin.cold

/-- The attention conditions FAULT to SAFETY, bits 1 to 7 (R55). -/
def State.attentionConds (s : State) : List Bool :=
  [s.faultAttention, s.thermAttention, s.twinAttention, s.timeAttention, s.streamAttention, s.logAttention, s.power.safety]

/-- The attention set: EVENT stands in bit 0. The conditions are Docent sources 91-97 as well. -/
def State.attentionNow (s : State) : Nat × State :=
  let cs := s.attentionConds
  let s := forEach (List.range 7) (fun k s => s.docLevel (91 + k) (cs.getD k false)) s
  (((List.range 7).map fun k => b2n (cs.getD k false) * 2 ^ (k + 1)).sum + b2n s.docEvent, s)

/-- Bring the attention set up to date; the changes of one instant add one to the epoch (R56). -/
def State.attentionRefresh (s : State) : Bool × State :=
  let (a, s) := s.attentionNow
  if a = s.host.attention then (false, s)
  else
    let now := s.now
    (true, s.updHost fun h =>
      { h with attention := a, epoch := if h.epochAt = some now then h.epoch else (h.epoch + 1) % 2 ^ 32, epochAt := some now })

/-- R56, R63: the attention set is brought up to date before and after; a change ends moderation on every stream. -/
def State.replyPump (s : State) : State :=
  let (c, s) := s.attentionRefresh
  let s := s.replyRound c
  let (c, s) := s.attentionRefresh
  if c then s.replyRound true else s

/-- Queue a reply that belongs to no slot. -/
def State.loose (s : State) (ep : Endpoint) (gen stream op seq flags : Nat) (sess : Option Nat) (result : Nat)
    (payload : List Byte) : State :=
  let n := s.host.readyCount
  s.updHost fun h =>
    { h with
      readyCount := n + 1
      loose := h.loose ++ [⟨n, ep, gen, stream, op, seq, flags, sess, result, none, s.now, s.now, payload, false⟩] }

/-- Queue a re-delivery of a retained reply, with REPLAY set (R48, R80). -/
def State.redeliver (s : State) (sess stream : Nat) (sl : Slot) : State :=
  match sl.dec with
  | none => s
  | some d =>
    let x := s.session sess
    let n := s.host.readyCount
    s.updHost fun h =>
      { h with
        readyCount := n + 1
        loose := h.loose ++ [⟨n, x.ep, x.gen, stream, sl.op, sl.seq, sl.flags, some sess, d.result, sl.status,
          sl.accepted, d.eff, d.payload, true⟩] }

end Sys2Proof.Machine
end

