-- ==== Sys2Proof/Machine/Views.lean ====
section
/-!
DEFINITION. What a parameter reads as: the register file, and the parameters whose value is another part of the state seen
through a PID (R75, R76).
-/
namespace Sys2Proof.Machine

open Sys2Proof

/-- One word of a signed quantity of two words (R75). -/
def wordOf (v : Int) (hi : Bool) : Nat :=
  let u := ofSigned 64 v
  if hi then u / 2 ^ 32 else u % 2 ^ 32

def word64 (v : Nat) (hi : Bool) : Nat := if hi then v / 2 ^ 32 % 2 ^ 32 else v % 2 ^ 32

/-- MGT.SYS. -/
def State.viewSys (s : State) (num : Nat) : Option Nat :=
  match num with
  | 0x01 => some s.power.state
  | 0x03 => some (s.straps.boot % 4 + 4 * b2n s.straps.roleB + 8 * b2n s.straps.serialHost)
  | 0x05 => some s.mram.powerups
  | 0x12 => some s.wakeEn
  | 0x20 => some s.power.fwRun
  | 0x21 => some s.mram.fwPref
  | 0x24 => some (s.fwVersion 0)
  | 0x25 => some (s.fwVersion 1)
  | _ => none

/-- MGT.STREAM: of the owner session. -/
def State.viewStream (s : State) (inst num : Nat) : Option Nat :=
  let q := (s.session 0).stream inst
  match num with
  | 0x04 => some q.expected
  | 0x05 => some q.pendingCount
  | 0x06 => some q.undelivered
  | _ => none

/-- MGT.DOC. -/
def State.viewDoc (s : State) (num : Nat) : Option Nat :=
  if num = 0x02 then some ((s.docLevelOf s.doc.stackH).getD 0x1F)
  else if num = 0x03 then some s.doc.stackH.length
  else if 0x08 ≤ num ∧ num < 0x10 then some (s.doc.stackH.reverse.getD (num - 0x08) 0)
  else if 0x800 ≤ num ∧ num < 0x810 then
    some ((List.range 32).map fun j =>
      let id := 32 * (num - 0x800) + j
      b2n (1 ≤ id && id ≤ 510 && s.docPending id) * 2 ^ j).sum
  else none

/-- MGT.TIME. -/
def State.viewTime (s : State) (num : Nat) : Option Nat :=
  match num with
  | 0x02 => some s.time.st
  | 0x03 => some s.timeFlags
  | _ => none

/-- MGT.CAT. -/
def State.viewCat (s : State) (num : Nat) : Option Nat :=
  match num with
  | 0x10 => some (match s.log.openSeg with | some g => g.number | none => s.log.nextSeg)
  | 0x11 => some s.catHeld
  | 0x12 => some (s.log.lost % 2 ^ 32)
  | _ => none

/-- MGT.TWIN. -/
def State.viewTwin (s : State) (num : Nat) : Option Nat :=
  match num with
  | 0x02 => some s.twin.state
  | 0x03 => some (b2n s.straps.roleB)
  | 0x04 => some s.twin.partner
  | 0x05 => some s.twinPins
  | 0x20 => some s.fwdPend
  | _ => none

/-- MGT.LOG. -/
def State.viewLog (s : State) (num : Nat) : Option Nat :=
  match num with
  | 0x01 => some s.log.head
  | 0x02 => some s.log.recs.length
  | 0x03 => some s.log.mark
  | 0x06 => some s.log.clears
  | _ => none

/-- MGT.KEY. -/
def State.viewKey (s : State) (inst num : Nat) : Option Nat :=
  match s.mram.keys[inst]? with
  | none => none
  | some k => match num with
    | 0x01 => some k.level
    | 0x02 => some (word64 k.written false)
    | 0x03 => some (word64 k.written true)
    | 0x04 => some k.writer
    | _ => none

/-- MGT.IO. -/
def State.viewIo (s : State) (num : Nat) : Option Nat :=
  match num with
  | 0x02 => some s.gpoOwned
  | 0x03 => some s.gpoPins
  | 0x06 => some ((List.range 4).map fun k => b2n (s.ilkLevel k) * 2 ^ k).sum
  | 0x07 => some (b2n s.power.laserEnA + 2 * b2n s.power.laserEnB)
  | _ => none

/-- MGT. -/
def State.viewMgt (s : State) (cls inst num : Nat) : Option Nat :=
  match cls with
  | 0 => s.viewSys num
  | 1 => s.viewStream inst num
  | 2 => s.viewDoc num
  | 3 => if num = 1 then some (if (s.session inst).isOpen then (s.session inst).level else 7) else none
  | 5 => s.viewTime num
  | 7 => s.viewCat num
  | 9 => s.viewTwin num
  | 10 => s.viewLog num
  | 11 => s.viewKey inst num
  | 13 => s.viewIo num
  | 14 => if num > 0x1000 then some (s.calWord (num - 0x1000)) else none
  | _ => none

/-- EXP. -/
def State.viewExp (s : State) (cls inst num : Nat) : Option Nat :=
  match cls, num with
  | 0, 0x01 => some (s.beam inst).st
  | 0, 0x53 => some (s.beam inst).bufFill
  | 0, 0x70 => some (b2n (s.beam inst).holdNow)
  | 1, 0x0D => some (s.laserPins inst)
  | 3, 0x01 | 4, 0x01 | 5, 0x01 =>
    let c := s.slotOf inst
    some (c.a + 256 * c.b + 65536 * c.kind)
  | 3, 0x02 | 4, 0x02 | 5, 0x02 => some (s.slotOf inst).modeWord
  | 9, 0x06 => some s.gal.acc
  | _, _ => none

/-- A feedback port. -/
def State.viewFbk (s : State) (inst num : Nat) : Option Nat :=
  let p := s.port inst
  match num with
  | 0x09 => some (b2n p.armed)
  | 0x20 => some (wordOf p.pos false)
  | 0x21 => some (wordOf p.pos true)
  | 0x22 => some (wordOf p.raw false)
  | 0x23 => some (wordOf p.raw true)
  | 0x25 => some p.flags
  | _ => none

/-- A profile cell. With no move running, TARGET keeps the last one's target. -/
def State.viewPrf (s : State) (inst num : Nat) : Option Nat :=
  let p := s.prf inst
  let target := match p.run with | some m => m.target | none => p.lastTarget.getD 0
  let e := p.evalAt s.tick
  match num with
  | 0x01 => some p.st
  | 0x02 => some (wordOf target false)
  | 0x03 => some (wordOf target true)
  | 0x04 => some (wordOf (e.1 / 65536) false)
  | 0x05 => some (wordOf (e.1 / 65536) true)
  | 0x06 => some (ofSigned 32 (roundDiv e.2.1 (2 ^ 32)))
  | 0x07 => some p.queue.length
  | _ => none

/-- MOT. -/
def State.viewMot (s : State) (cls inst num : Nat) : Option Nat :=
  match cls, num with
  | 0, _ => s.viewFbk inst num
  | 1, 0x07 => let g := s.mot.outs.getD inst outReset; some (ofSigned 32 g.owed.sum)
  | 2, _ => s.viewPrf inst num
  | 3, 0x10 => some (s.stp inst).stat
  | 3, 0x11 => some (s.stp inst).phase
  | 4, 0x05 => some (s.sdPins inst)
  | _, _ => none

/-- STO. Nothing is allocated in pool 7, whose USED, LIVE and NEXT_INDEX stay at the table's 0 (R369; log entry 12). -/
def State.viewSto (s : State) (cls inst num : Nat) : Option Nat :=
  match cls, num with
  | 0, 0x10 => some (s.refi inst)
  | 2, 0x02 => some (42 - s.rg P.SF_PIN_P5 0)
  | 3, 0x02 => some (s.poolUsed inst)
  | 3, 0x03 => some (s.store.accs.filter fun a => accPool a.1 = inst && inst ≠ 7).length
  | 3, 0x04 => some (s.store.accs.filter fun a => accPool a.1 = inst && a.2.state = 3).length
  | 3, 0x05 => some (s.store.next.getD inst 0)
  | 4, 0x01 => some ((s.zip inst).jobs.length + 256 * (s.zip inst).pipe.length)
  | _, _ => none

/-- Block and region classes (R36). -/
def State.viewBlock (s : State) (region inst num : Nat) : Option Nat :=
  match num with
  | 0x11 => some (s.clkState region inst)
  | 0x12 => some (s.blockClass region inst)
  | _ => none

/-- R76: what a PID reads as. Above a signed field stand copies of its sign (R75). -/
def State.paramValue (s : State) (pid : Nat) : Nat :=
  let region := pidRegion pid
  let cls := pidClass pid
  let inst := pidInst pid
  let num := pidNum pid
  let v : Option Nat :=
    if cls = 8 then s.viewBlock region inst num
    else if cls = 15 then (if num = 0x12 then some (s.regionClass region) else none)
    else match region with
      | 0 => s.viewMgt cls inst num
      | 1 => s.viewExp cls inst num
      | 2 => s.viewMot cls inst num
      | 4 => s.viewSto cls inst num
      | _ => none
  match rowOf pid with
  | some d =>
    let x := v.getD (s.reg pid)
    if d.acc = .wo then 0 else if d.signed then ofSigned 32 (toSigned d.width x) else x
  | none => 0

end Sys2Proof.Machine
end

