-- ==== Sys2Proof/Machine/Param.lean ====
section
/-!
DEFINITION. Parameter access (R26, R74-R78, R506): which PIDs a command reaches, the checks of a write in their order, what a
write does when it takes effect, and the opcodes of group 0x01xx.
-/
namespace Sys2Proof.Machine

open Sys2Proof

/-! ## The PID (R4, R5, R74-R77, R177) -/

/-- Another parameter number of the same cell. -/
def sibling (pid num : Nat) : Nat := pid - pidNum pid + num

/-- The same parameter in another instance. -/
def inInst (pid i : Nat) : Nat := pid - pidInst pid * 2 ^ 16 + i * 2 ^ 16

/-- A slot's parameters are reached in the class of its kind only (R177). -/
def State.slotClassOk (s : State) (pid : Nat) : Bool :=
  match pidRegion pid, pidClass pid with
  | 1, 3 => (s.slotOf (pidInst pid)).kind = 1
  | 1, 4 => (s.slotOf (pidInst pid)).kind = 2
  | 1, 5 => (s.slotOf (pidInst pid)).kind = 3
  | _, _ => true

/-- A PID with an instance is defined. -/
def State.pidDefined (s : State) (pid : Nat) : Bool :=
  pidRegion pid < 5 && pidInst pid < classInsts (pidRegion pid) (pidClass pid) && (rowOf pid).isSome && s.slotClassOk pid

/-- The instance of a PID is present on the grade (R4). -/
def State.pidPresent (s : State) (pid : Nat) : Bool := s.instPresent (pidRegion pid) (pidClass pid) (pidInst pid)

/-- R75: the streams that reach a PID. -/
def State.pidReached (s : State) (stream pid : Nat) : Bool :=
  let region := pidRegion pid
  let cls := pidClass pid
  if stream = 0 ∨ 28 ≤ stream then true
  else if stream = 25 then region = 2
  else if stream = 26 then region = 3
  else if stream = 27 then region = 4
  else
    region = 1 && pidInst pid ≠ 0xFF &&
    ((cls ≤ 2 && pidInst pid + 1 = stream) ||
     (3 ≤ cls && cls ≤ 4 && (s.slotOf (pidInst pid)).a + 1 = stream))

/-- Whether a PID names every instance. -/
def isBroadcast (pid : Nat) : Bool := pidInst pid = 0xFF

/-- The instances a write reaches: the one it names, or for a broadcast those present for which the parameter is defined (R5). -/
def State.targets (s : State) (pid : Nat) : List Nat :=
  if isBroadcast pid then
    ((List.range (classInsts (pidRegion pid) (pidClass pid))).map (inInst pid)).filter fun q => s.pidDefined q && s.pidPresent q
  else [pid]

/-! ## Conditions on a value (R76, R506 step 4) -/

/-- The channel tables put temperature on 0-19 and supplies and fans from 20 on (R457, R460, R479). -/
def State.hkBad (s : State) (pid v : Nat) : Bool :=
  let c := pidInst pid
  let f (k : Nat) : Nat := s.reg (sibling pid k)
  match pidNum pid with
  | 0x10 => c ≥ 19 || !fLt v (f 0x11)
  | 0x11 => c ≥ 19 || !fLt (f 0x10) v || fLt (fAdd (regReset s.straps.roleB pid) 0x40A00000) v
  | 0x12 => c ≥ 19 || !fLt v (f 0x13)
  | 0x13 => c ≥ 19 || !fLt (f 0x12) v
  | 0x14 => c ≥ 19
  | 0x15 | 0x16 => c < 19
  | _ => false

/-- An entry of the calibration table: binary32 finite, packed deskew bits, or reserved (R453). -/
def calBad (e v : Nat) : Bool := (calFloat e && !fFinite v) || (247 ≤ e && e ≤ 254 && v ≥ 2 ^ 30) || (e = 255 && v ≠ 0)

/-- MGT. `s` is the register file as the write, or the whole block, leaves it (R77). -/
def State.tiedMgt (s : State) (pid v : Nat) : Bool :=
  let i := pidInst pid
  let num := pidNum pid
  let f (k : Nat) : Nat := s.reg (sibling pid k)
  match pidClass pid with
  | 1 => num = 1 && v ≠ 1 && (i = 0 || i ≥ 28)
  | 2 => num > 0x1000 && docSrcBad (num - 0x1000) v = some rBADPARAM
  | 3 => num = 2 && v ≠ 0 && v < 10
  | 5 => ((num = 0x12 || num = 0x13) && f 0x13 > f 0x12) || ((num = 0x15 || num = 0x17) && f 0x17 ≤ f 0x15) ||
      ((num = 0x22 || num = 0x23) && f 0x22 ≥ f 0x23)
  | 7 => num = 1 && v % 4 ≠ 0
  | 9 => num = 0x13 && v % 2560 ≠ 0
  | 12 => s.hkBad pid v
  | 14 => (num = 1 && s.calExportBad v) || (num > 0x1000 && calBad (num - 0x1000) v)
  | _ => false

/-- DIM (R185, R189, R236). -/
def dimBad (cls v : Nat) : Bool :=
  let n := bits v 2 0
  let m := bits v 4 3
  let p := bits v 6 5
  let row := bits v 11 10
  n < 1 || n > 6 || m < 1 || m > 2 || p < 1 || bits v 9 8 > 2 || row > 2 || row ≥ p ||
  m ≠ 1 || row ≠ 0 || (cls = 3 && p > 2)

/-- EXP. -/
def State.tiedExp (s : State) (pid v : Nat) : Bool :=
  let i := pidInst pid
  let num := pidNum pid
  let cls := pidClass pid
  let f (k : Nat) : Nat := s.reg (sibling pid k)
  match cls with
  | 0 => (num = 0x85 || num = 0x86) && !fLt (f 0x85) (f 0x86)
  | 1 => (num = 3 && v ≠ 0 && v < 1000) || ((num = 5 || num = 6) && f 6 < f 5)
  | 3 | 4 =>
    (num = 3 && dimBad cls v) || ((num = 0x1C2 || num = 0x1C4) && fLt (f 0x1C4) (f 0x1C2)) ||
    ((num = 0x1C3 || num = 0x1C5) && fLt (f 0x1C5) (f 0x1C3)) ||
    (cls = 4 && num = 0x42 && (bits v 2 0 ≥ s.nPipes || bits v 4 3 = 3 || bits v 6 5 ≠ 0))
  | 6 => num = 1 && v ≠ 0xFF && (v ≥ s.nBeams || (List.range 4).any fun q => q ≠ i && s.rg P.XY2_BEAM q = v)
  | _ => false

/-- R264: the read of an absolute encoder does not fit its period. -/
def State.absTimeBad (s : State) (pid : Nat) : Bool :=
  let f (k : Nat) : Nat := s.reg (sibling pid k)
  f 0x11 * 2560 * f 0x10 < (f 0x0F + 10) * 1000000 + f 0x15 * 1000 * f 0x10

/-- MOT; a pipeline that the grade does not have is named by no source (R4). -/
def State.tiedMot (s : State) (pid v : Nat) : Bool :=
  let num := pidNum pid
  let f (k : Nat) : Nat := s.reg (sibling pid k)
  match pidClass pid with
  | 0 => (num = 1 && v ≥ 6) || ((num = 0x0C || num = 0x0D) && f 0x0D ≤ f 0x0C) ||
      ((num = 0x0F || num = 0x10 || num = 0x11 || num = 0x15) && s.absTimeBad pid) ||
      ((num = 0x18 || num = 0x19) && (bits v 5 0 ≥ 30 + s.nPipes || bits v 7 6 = 3))
  | 1 => (num = 1 && v = 2 && s.rg P.FBK_TYPE (pidInst pid) ≠ 1) || ((num = 3 || num = 5) && f 5 ≥ f 3)
  | 2 => (num = 0x12 && v = 0) || (num = 0x11 && 8 ≤ v && v < 15)
  | 6 => 2 ≤ num && num ≤ 5 && v > (if s.rg P.LAMP_COMPAT 0 = 1 then 2 ^ s.rg P.LAMP_COMPAT_BITS 0 - 1 else 4095)
  | 7 => ((num = 0x10 || num = 0x11) && !fLt (f 0x10) (f 0x11)) || (num = 0x26 && v ≠ 100 && v ≠ 400 && v ≠ 1000) ||
      (0x30 ≤ num && num ≤ 0x33 && (List.range 4).any fun k => 0x30 + k ≠ num && Nat.land v (f (0x30 + k)) ≠ 0) ||
      (num = 0x50 && bits v 2 0 ≥ s.nPipes) || (num = 0x55 && Nat.land v 0x88888888 ≠ 0)
  | _ => false

/-- VIS. -/
def State.tiedVis (s : State) (pid v : Nat) : Bool :=
  let num := pidNum pid
  let f (k : Nat) : Nat := s.reg (sibling pid k)
  if pidClass pid ≠ 0 then false
  else match num with
  | 0x02 => v ≥ s.nPipes
  | 0x05 => v = 3
  | 0x07 | 0x08 => v % 4 ≠ 0
  | 0x0F => v ≠ 100 && v ≠ 400 && v ≠ 1000
  | 0x1C => v ≠ noAcc && accPool v ≠ 5
  | 0x33 | 0x34 => !fLt (f 0x33) (f 0x34)
  | 0x3D | 0x3E => f 0x3E < f 0x3D
  | 0x41 | 0x42 => f 0x42 ≥ f 0x41
  | _ => false

/-- STO. -/
def State.tiedSto (s : State) (pid : Nat) : Bool :=
  let num := pidNum pid
  let f (k : Nat) : Nat := s.reg (sibling pid k)
  match pidClass pid with
  | 3 => num = 1 && pidInst pid = 7
  | 15 => ((num = 0x40 || num = 0x41) && f 0x41 ≥ f 0x40) || ((num = 0x43 || num = 0x44) && f 0x44 ≤ f 0x43)
  | _ => false

/-- A condition of a table or a chapter on a value fails. -/
def State.tiedBad (s : State) (pid v : Nat) : Bool :=
  match pidRegion pid with
  | 0 => s.tiedMgt pid v
  | 1 => s.tiedExp pid v
  | 2 => s.tiedMot pid v
  | 3 => s.tiedVis pid v
  | _ => s.tiedSto pid

/-- R112: a write of FC_ACC or HM_ACC names an accession that fails one of its checks, those of R340 among them. -/
def State.tableBad (s : State) (pid v : Nat) : Bool :=
  let p := inInst pid 0
  v ≠ noAcc && (p = P.BEAM_FC_ACC || p = P.BEAM_HM_ACC) &&
    ((s.loanCheck v).isSome || (if p = P.BEAM_FC_ACC then s.fcCheck v else s.hmCheck v).isSome)

/-! ## Conditions on the state of the device (R506 step 5) -/

/-- A profile cell that a feedback port feeds moves (R252). -/
def State.portMoves (s : State) (n : Nat) : Bool :=
  (List.range 8).any fun a => s.rg P.PRF_MAP_PORT a = n && 2 ≤ (s.prf a).st && (s.prf a).st ≤ 4

/-- Parameters of a pipeline that can be written only while it is STOPPED (R305). -/
def pipeStoppedOnly (num : Nat) : Bool :=
  (2 ≤ num && num ≤ 0x0C) || num = 0x38 || num = 0x39 || (0x40 ≤ num && num ≤ 0x46)

/-- EXP (R134, R170, R185, R210, R229, R244). -/
def State.stateBadExp (s : State) (pid v : Nat) : Bool :=
  let i := pidInst pid
  let num := pidNum pid
  match pidClass pid with
  | 0 => ((0x40 ≤ num && num ≤ 0x42) || (0x44 ≤ num && num ≤ 0x46)) && s.rasterBusy i
  | 1 => (num = 1 || num = 9 || num = 0x0A) && (s.beam i).st ≠ 0
  | 2 =>
    ((num = 1 || num = 2) && (s.beam i).st ≠ 0) || (num = 1 && v ≠ 0 && (s.xy2Of i).isSome) ||
    (num = 2 && v = 1 && !(s.rg P.HP_GEN i = 1 && (s.head i).state = 3 && bit (s.rg P.HP_ID_CAPS i) 0)) ||
    (num = 4 && bit v 0 && s.rg P.HP_FAULT i = 1 && !s.faultClearable i)
  | 3 | 4 => num = 3 && (s.slotOf i).mode ≠ 0
  | 6 =>
    let old := s.rg P.XY2_BEAM i
    num = 1 && ((old < 24 && (s.beam old).st ≠ 0) || (v < 24 && ((s.beam v).st ≠ 0 || s.rg P.HP_MODE v = 1)))
  | 9 => (num = 1 || num = 2 || num = 3) && s.anyRunning
  | 10 => s.anyRunning
  | _ => false

/-- MOT (R252, R288, R291, R335). -/
def State.stateBadMot (s : State) (pid v : Nat) : Bool :=
  let i := pidInst pid
  let num := pidNum pid
  match pidClass pid with
  | 0 => (num = 1 && s.portMoves i) || (num = 0x29 && bit v 0 && (s.port i).fault && s.portCauseStays i)
  | 2 => num = 0x1E && bit v 0 && s.prfFaultStays i
  | 3 => num = 4 && (s.prf i).st ≠ 0
  | 5 =>
    let p := s.prf (s.rg P.SW_CELL i)
    (num = 1 || num = 2 || num = 3) && (p.st = 2 || p.st = 4)
  | 7 => 2 ≤ num && num ≤ 7 && s.lamp.st ≠ 0
  | _ => false

/-- A condition on the state fails. -/
def State.stateBad (s : State) (pid v : Nat) : Bool :=
  let num := pidNum pid
  match pidRegion pid, pidClass pid with
  | 0, 0 => num = 0x23 && !s.power.recovery && s.power.fwRun = v
  | 0, 2 => num > 0x1000 && docSrcBad (num - 0x1000) v = some rBADSTATE
  | 0, 13 => num = 1 && s.gpoBad v
  | 0, 14 => num > 0x1000 && s.twin.state ≠ 0
  | 1, _ => s.stateBadExp pid v
  | 2, _ => s.stateBadMot pid v
  | 3, 0 => pipeStoppedOnly num && (s.pipe (pidInst pid)).run
  | 4, 2 => num = 1 && s.store.accs.any fun a => a.2.pinned && accPool a.1 = 5
  | _, _ => false

/-! ## The checks of a write (R506) -/

/-- R11, R454, R479: the access code allows the write in this session. -/
def State.accessOk (s : State) (sess pid : Nat) : Bool :=
  match rowOf pid with
  | none => false
  | some d =>
    let level := (s.session sess).level
    d.acc ≠ .ro && !(d.acc = .rwl && s.host.locked) && (!d.integ || level = 2) && (level ≠ 0 || pid = P.CAL_EXPORT)

/-- The value of a write of one instance: its bits, its range, and what ties it to other parameters. `after`: the register file as the
whole command leaves it (R77). -/
def State.valueBad (s after : State) (pid v : Nat) : Bool :=
  match rowOf pid with
  | none => true
  | some d => !d.bitsOk v || !d.rangeOk v || after.tiedBad pid v || s.tableBad pid v

/-- An entry of a write: its PID, the grade, then access, value and state, each step on every instance it reaches (R506). -/
def State.entryBad (s after : State) (sess stream pid v : Nat) : Option Nat :=
  let known := if isBroadcast pid then
      (List.range (classInsts (pidRegion pid) (pidClass pid))).any fun i => s.pidDefined (inInst pid i)
    else s.pidDefined pid
  let ts := s.targets pid
  firstBad
    [(!known || !s.pidReached stream pid || ts.isEmpty || !ts.all s.pidPresent, rBADPARAM),
     (ts.any fun q => !s.accessOk sess q, rNOAUTH),
     (ts.any fun q => s.valueBad after q v, rBADPARAM),
     (ts.any fun q => s.stateBad q v, rBADSTATE)]

/-- The register file as entries leave it. -/
def State.afterWrites (s : State) (ws : List (Nat × Nat)) : State :=
  ws.foldl (fun s w => (s.targets w.1).foldl (fun s q => s.setReg q w.2) s) s

/-! ## Taking effect -/

/-- A write of a table or of ADV waits for a pause point (R91, R112). -/
def tableParam (pid : Nat) : Bool :=
  let p := inInst pid 0
  p = P.BEAM_FC_ACC || p = P.BEAM_HM_ACC || p = P.BEAM_FOCUS_K || p = P.BEAM_ADV

/-- A power scale or a shape of a beam's pixels (R150). -/
def scaleParam (pid : Nat) : Bool :=
  let p := inInst pid 0
  p = P.BEAM_RAS_PSCALE || (P.BEAM_RAS_SHAPE ≤ p && p < P.BEAM_RAS_SHAPE + 4)

def State.applyExp (s : State) (pid v : Nat) : State :=
  let i := pidInst pid
  let p := inInst pid 0
  if tableParam pid then s.latchAt i p v
  else if scaleParam pid then s.scaleWrite i pid v
  else if p = P.BEAM_WRD_HOLD_MAX then (if bit v 0 then s.setReg pid 0 else s)
  else if p = P.HP_GEN then
    let old := s.rg P.HP_GEN i
    (s.setReg pid v).headGen i old
  else if p = P.HP_FAULT then (if bit v 0 then s.headFaultClear i else s)
  else if p = P.XY2_BEAM then
    let old := s.rg P.XY2_BEAM i
    (s.setReg pid v).xy2Assigned i old
  else if p = P.GAL_ORG_X ∨ p = P.GAL_ORG_Y ∨ p = P.GAL_CELL then (s.setReg pid v).galClearBy 2
  else if p = P.WRD_ENABLE then s.warderEnable v
  else s.setReg pid v

def State.applyMot (s : State) (pid v : Nat) : State :=
  let i := pidInst pid
  let p := inInst pid 0
  if p = P.FBK_TYPE then s.fbkTypeWrite i v
  else if p = P.FBK_IDX_MODE then (s.setReg pid v).updPort i fun q => { q with armed := false }
  else if p = P.FBK_FAULT then (if bit v 0 then s.portFaultClear i else s)
  else if p = P.OUT_MODE then s.outModeWrite i v
  else if p = P.SW_POL then ((s.setReg pid v).switchLevel i s.now).switchAccept i
  else if p = P.PRF_FAULT then (if bit v 0 then s.prfFaultClear i else s)
  else if pidClass pid = 6 then (s.setReg pid v).lampChanged
  else if p = P.STP_MSTEP then (s.setReg pid v).updPrf i fun c => { c with reach := s.prfPosAt i s.now }
  else if pidClass pid = 3 then (s.setReg pid v).putCoils i
  else s.setReg pid v

def State.applyMgt (s : State) (k : Ticket) (block : Bool) (pid v : Nat) : State :=
  let num := pidNum pid
  if pid = P.SYS_WAKE_EN then s.setWakeEn v
  else if pid = P.SYS_ILK_POL then
    let s := s.setReg pid v
    forEach (List.range 4) (fun j s => s.docLevel (17 + j) (s.ilkLevel j)) s
  else if pid = P.SYS_FW_PREF then s.updMram fun m => { m with fwPref := v }
  else if pid = P.SYS_FW_LOAD then s.fwLoadBegin k v block
  else if pid = P.SYS_PRESET_SAVE then (if v = 1 then s.presetSave else s)
  else if pid = P.SYS_PRESET_FACTORY then (if v = 1 then s.presetFactory else s)
  else if pid = P.DOC_DIS then (s.setReg pid v).docNote
  else if pid = P.DOC_SOFT then s.docSoft v
  else if pidClass pid = 2 ∧ num > 0x1000 then s.docSrcWrite (num - 0x1000) v
  else if pid = P.TIME_SRC then
    let old := s.servoSrc
    (s.setReg pid v).servoSrcSet old
  else if pid = P.CAL_EXPORT then s.calExport v
  else if pidClass pid = 14 then s.calWrite (num - 0x1000) v (s.session k.sess).slotKey
  else s.setReg pid v

/-- A write of one instance takes effect. -/
def State.applyParam (s : State) (k : Ticket) (block : Bool) (pid v : Nat) : State :=
  match pidRegion pid with
  | 0 => s.applyMgt k block pid v
  | 1 => s.applyExp pid v
  | 2 => s.applyMot pid v
  | _ => s.setReg pid v

/-- The payload of a write's reply: the value as now held, or no failing entry (R77). -/
def State.writeReply (s : State) (op : Nat) (writes : List (Nat × Nat)) : List Byte :=
  if op = 0x0103 then le 4 0xFFFFFFFF
  else match writes with
    | [] => le 4 0
    | w :: _ => le 4 (s.paramValue w.1)

/-- Every write of a command takes effect at one instant (R77), FW_LOAD behind the others: its slot is decided when the load has ended
(R452). -/
def State.applyWrites (s : State) (k : Ticket) (op : Nat) (writes : List (Nat × Nat)) : State :=
  let load (w : Nat × Nat) : Bool := w.1 = P.SYS_FW_LOAD
  let s := ((writes.filter fun w => !load w) ++ writes.filter load).foldl (fun s w => s.applyParam k (op = 0x0103) w.1 w.2) s
  if writes.any load then s else s.decide k rOK s.now (s.writeReply op writes)

/-- A command that waits for its boundary takes effect. -/
def State.applyOne (s : State) (w : PendingWrite) : State :=
  if w.op = 0x0101 ∨ w.op = 0x0103 then s.applyWrites ⟨w.sess, w.stream, w.seq⟩ w.op w.writes else s.applyCnsWrite w

/-- The tables and advances that a command writes. -/
def PendingWrite.tables (w : PendingWrite) : List Nat := (w.writes.map (·.1)).filter tableParam

/-- Every beam whose table or advance a command writes stands at a pause point, or passes one (R91, R112). A command that names several
waits for an instant at which all of them do (log entry 80). -/
def State.tablesReady (s : State) (w : PendingWrite) : Bool :=
  w.tables.all fun p => (s.beam (pidInst p)).frontPause.isSome

/-- Of the commands whose boundary has come, in the order of their acceptance, those that `pick` picks take effect, behind those of
their stream (R26, R77, R112, R195). -/
def State.applyPicked (s : State) (pick : PendingWrite → Bool) : State :=
  let r := s.writes.foldl (fun (a : List PendingWrite × State) w =>
    let behind := a.1.any fun x => x.sess = w.sess && x.stream = w.stream
    if s.now < w.due ∨ behind ∨ !pick w ∨ !a.2.tablesReady w then (a.1 ++ [w], a.2) else (a.1, a.2.applyOne w))
    ([], { s with writes := [] })
  { r.2 with writes := r.1 ++ r.2.writes }

/-- Writes and commands due at a tick take effect. -/
def State.applyDue (s : State) : State := s.applyPicked fun _ => true

/-- Between ticks, those that write a table or an advance of a beam (R112). -/
def State.applyTables (s : State) (n : Nat → Bool) : State := s.applyPicked fun w => w.tables.any fun p => n (pidInst p)

/-! ## The opcodes of group 0x01xx -/

/-- Parameters whose writes act only on the module that receives them: MGT.ETH, RS485_BAUD and PRESET_FACTORY (R78). -/
def ownPid (pid : Nat) : Bool :=
  (pidRegion pid = 0 && pidClass pid = 4) || inInst pid 1 = P.BLK_RS485_BAUD || pid = P.SYS_PRESET_FACTORY

/-- A write that has passed its checks: at once where every parameter is of MGT, else at the boundary (R26, R77). What acts only on the
module that the host has written to is not written by a forwarded block (R78). -/
def State.acceptWrites (c : Ctx) (entries : List (Nat × Nat)) (s : State) : State :=
  let writes := (entries.filter fun e => !(c.twin && ownPid e.1)).flatMap fun (e : Nat × Nat) => (s.targets e.1).map fun q => (q, e.2)
  if entries.all fun e => pidRegion e.1 = 0 then s.applyWrites c.k c.op writes else s.atBoundary c writes

/-- PARAM_WRITE. -/
def State.bodyParamWrite (c : Ctx) (s : State) : State :=
  let pid := u32 c.payload 0
  let v := u32 c.payload 4
  s.unless c (s.entryBad (s.afterWrites [(pid, v)]) c.sess c.stream pid v) fun s => s.acceptWrites c [(pid, v)]

/-- The entries of a block. -/
def blockEntries (p : List Byte) : List (Nat × Nat) := (List.range (u32 p 0)).map fun i => (u32 p (4 + 8 * i), u32 p (8 + 8 * i))

/-- The first entry that fails, with its result. -/
def firstFailing {α : Type} (check : α → Option Nat) : Nat → List α → Option (Nat × Nat)
  | _, [] => none
  | i, e :: r => match check e with
    | some code => some (i, code)
    | none => firstFailing check (i + 1) r

/-- R77, R452: the first load of a firmware slot in a block whose image, as the block names it, fails its verification. -/
def State.blockLoadBad (after : State) (es : List (Nat × Nat)) : Option (Nat × Nat) :=
  match firstFailing (fun (e : Nat × Nat) => if e.1 = P.SYS_FW_LOAD then some e.2 else none) 0 es with
  | some (i, slot) => if (after.fwImage (after.rg P.SYS_FW_ACC 0)).isSome then none else some (i, slot)
  | none => none

/-- The record of such a load (R478). -/
def State.loadRefused (after s : State) (slot : Nat) : State :=
  s.fwRecord slot rCHECKFAIL (u32 (after.fwBytes (after.rg P.SYS_FW_ACC 0)) 8)

/-- PARAM_WRITE_BLOCK (R77). -/
def State.bodyParamWriteBlock (c : Ctx) (s : State) : State :=
  let es := blockEntries c.payload
  if es.isEmpty ∨ es.length > 64 then s.reject c rBADPARAM
  else
    let after := s.afterWrites es
    match firstFailing (fun (e : Nat × Nat) => s.entryBad after c.sess c.stream e.1 e.2) 0 es with
    | some (i, code) => s.decide c.k code s.now (le 4 i)
    | none =>
      match after.blockLoadBad es with
      | some (i, slot) => (after.loadRefused s slot).decide c.k rCHECKFAIL s.now (le 4 i)
      | none => s.acceptWrites c es

/-- R76: a read is rejected where its PID is not defined, not reached or absent. -/
def State.readBad (s : State) (stream pid : Nat) : Option Nat :=
  firstBad [(isBroadcast pid || !s.pidDefined pid || !s.pidReached stream pid || !s.pidPresent pid, rBADPARAM)]

/-- PARAM_READ. -/
def State.bodyParamRead (c : Ctx) (s : State) : State :=
  let pid := u32 c.payload 0
  s.unless c (s.readBad c.stream pid) fun s =>
    s.ok c (le 4 (s.paramValue pid))

/-- PARAM_READ_BLOCK (R77). -/
def State.bodyParamReadBlock (c : Ctx) (s : State) : State :=
  let pids := (List.range (u32 c.payload 0)).map fun i => u32 c.payload (4 + 4 * i)
  if pids.isEmpty ∨ pids.length > 64 then s.reject c rBADPARAM
  else match firstFailing (s.readBad c.stream) 0 pids with
    | some (i, code) => s.decide c.k code s.now (le 4 i)
    | none =>
      s.ok c (pids.flatMap fun pid => le 4 (s.paramValue pid))

end Sys2Proof.Machine
end

