-- ==== Sys2Proof/Machine/Flush.lean ====
section
/-!
DEFINITION. STREAM_FLUSH (R86): what of a stream of the owner session has been consumed and has not taken effect, in each
interpreter, and its cancellation. SESSION_OPEN discards an owner session by the same operation (R70).
-/
namespace Sys2Proof.Machine

open Sys2Proof

/-- Undecided commands are decided CANCELLED; their sequences with those cancelled so far. -/
def State.cancelSeqs (s : State) (stream : Nat) (seqs : List Nat) : State :=
  seqs.foldl (fun s q => s.decideNow ⟨0, stream, q⟩ rCANCELLED) s

/-- A ticket of a stream of the owner session. -/
def Ticket.on (k : Ticket) (stream : Nat) : Bool := k.sess = 0 && k.stream = stream

/-- Commands that wait at the interpreter, and parameter writes that wait for their boundary (R26, R112). -/
def State.flushWaiting (s : State) (stream : Nat) : List Nat × State :=
  let ws := ((s.session 0).stream stream).waiting.map (·.seq)
  let ps := (s.writes.filter fun w => w.sess = 0 && w.stream = stream).map (·.seq)
  let seqs := (ws ++ ps).foldl (fun (acc : List Nat) q => if acc.contains q then acc else acc ++ [q]) []
  let s := s.cancelSeqs stream seqs
  let s := s.updStream 0 stream fun q => { q with waiting := [] }
  let s := s.updTwin fun t => { t with held := t.held.filter fun h => h.stream ≠ stream }
  (seqs, { s with writes := s.writes.filter fun w => !(w.sess = 0 && w.stream = stream) })

/-- Stream 25: queued moves keep OK_QUEUED and end with a record; changes, stops and lamp commands that have not begun are
decided CANCELLED. With `abort`, a running move stops at QSTOP_DEC (log entry 44). -/
def State.flushMotion (s : State) (abort : Bool) : List Nat × State :=
  let (seqs, s) := (List.range 8).foldl (fun (a : List Nat × State) n =>
    let s := a.2
    let p := s.prf n
    let stops : List Nat := if p.stopAsk.isSome ∧ p.st ≠ 3 then (p.stoppers ++ p.offs).map (·.seq) else []
    let waits := p.changes.map (·.k.seq) ++ stops
    let run : List Nat := if abort then (p.run.toList).map (·.seq) else []
    let s := (s.flushMoves n).cancelSeqs 25 waits
    let s := s.updPrf n fun p =>
      let p := { p with changes := [] }
      if stops.isEmpty then p else { p with stoppers := [], offs := [], stopAsk := none }
    let s := if abort && (s.prf n).moving then s.prfQuick n 1 else s
    (a.1 ++ p.queue.map (·.seq) ++ waits ++ run, s)) ([], s)
  let sets := s.lamp.sets.map (·.1.seq)
  let xs := (s.lamp.xfers.filter fun x => !x.begun).map (·.k.seq)
  let tests : List Nat := match s.lamp.test with | some t => if abort then [t.k.seq] else [] | none => []
  let s := s.cancelSeqs 25 (sets ++ xs ++ tests)
  let s := s.updLamp fun l => { l with sets := [], xfers := l.xfers.filter (·.begun) }
  let s := if tests.isEmpty then s else
    let back := (s.lamp.test.map (·.back)).getD 0
    let s := s.updLamp fun l => { l with test := none }
    if back ≥ 2 then s.lampRestore else s.lampTo 0
  (seqs ++ sets ++ xs ++ tests, s)

/-- A commit that is cancelled keeps its generation; one decided OK_QUEUED is reported by VIS_GEN with no write made and no frame
(log entry 82). -/
def State.commitCancelled (s : State) (p : Nat) (m : Commit) : State :=
  match m.k with
  | some k => s.decideNow k rCANCELLED
  | none => s.record (s.pipeSrc p) 0x3003 (le 4 m.gen ++ le 4 0xFFFFFFFF ++ le 4 0xFFFFFFFF ++ zeros 12)

/-- Stream 26: commits and transfers whose writes have not begun, and stops that wait for the end of a frame. What runs has no
cancellation of its own and ends as it would: writes on the bus, a pipeline (log entry 44). -/
def State.flushVision (s : State) : List Nat × State :=
  (List.range s.nPipes).foldl (fun (a : List Nat × State) p =>
    let s := a.2
    let q := s.pipe p
    let cs := q.commits.filter fun c => !c.begun
    let s := cs.foldl (fun s m => s.commitCancelled p m) s
    let xs := (q.xfers.filter fun x => !x.begun).map (·.k.seq)
    let stops := q.stops.map (·.seq)
    let s := s.cancelSeqs 26 (xs ++ stops)
    let s := s.updPipe p fun q =>
      { q with commits := q.commits.filter (·.begun), xfers := q.xfers.filter (·.begun), stops := [] }
    (a.1 ++ cs.map (·.seq) ++ xs ++ stops, s)) ([], s)

/-- Stream 27: host jobs of the engines, transfers and pin copies that have not begun; with `abort`, running jobs and
transfers as well. -/
def State.flushStore (s : State) (abort : Bool) : List Nat × State :=
  let (seqs, s) := [0, 1, 2].foldl (fun (a : List Nat × State) e =>
    let s := a.2
    let z := s.zip e
    let run := z.running.toList.filter fun j => abort && j.kind ≤ 1
    let js := run ++ z.jobs
    let s := s.updZip e fun z => { z with running := if run.isEmpty then z.running else none, jobs := [] }
    let s := js.foldl (fun s j => s.zipCancel e j) s
    (a.1 ++ js.map (·.seq), s.zipNext e)) ([], s)
  let dma := if abort then s.store.dma else s.store.dma.drop 1
  let pins := s.store.pins.drop 1
  let s := s.cancelSeqs 27 ((dma ++ pins).map (·.seq))
  let s := pins.foldl (fun s j =>
    let n := ((s.acc? j.acc).map (·.granules)).getD 0
    (s.setRg P.SF_PIN_USED 0 (s.rg P.SF_PIN_USED 0 - n * 4096)).returnLoan j.acc) s
  let s := s.updStore fun st => { st with dma := if abort then [] else st.dma.take 1, pins := st.pins.take 1 }
  (seqs ++ (dma ++ pins).map (·.seq), s)

/-- Streams 0 and 28-31: a power request that has not come to its steps, a step of the time base, launches, snapshots behind the
first, and a trace whose first frame has not come. With `abort`, a trace under way ends. -/
def State.flushCurator (s : State) (stream : Nat) (abort : Bool) : List Nat × State :=
  let (power, s) : List Nat × State := match s.power.req with
    | some q => if q.k.on stream && !q.leaving then
        ([q.k.seq], (s.decide q.k rCANCELLED s.now (le 1 s.power.state ++ zeros 3)).updPower fun p => { p with req := none })
      else ([], s)
    | none => ([], s)
  let (step, s) : List Nat × State := match s.time.step with
    | some q => match q.k with
      | some k => if k.on stream then
          ([k.seq], ((s.decideNow k rCANCELLED).updTime fun t => { t with step := none }).setRg2 P.TIME_STEP_PEND 0 0)
        else ([], s)
      | none => ([], s)
    | none => ([], s)
  let (launches, s) := [0, 1, 2].foldl (fun (a : List Nat × State) p =>
    let s := a.2
    let mine := (s.launchesOf p).filter fun l => l.stream = stream
    let s := s.updLaunches p fun ls => ls.filter fun l => l.stream ≠ stream
    (a.1 ++ mine.map (·.seq), mine.foldl (fun s l => s.launchRecord p 3 l 0) s)) ([], s)
  let snaps := (s.gal.snaps.drop 1).filter fun x => x.1.on stream
  let s := snaps.foldl (fun s x => (s.returnLoan x.2).decideNow x.1 rCANCELLED) s
  let kept := s.gal.snaps.take 1 ++ (s.gal.snaps.drop 1).filter fun (x : Ticket × Nat) => !(x.1.on stream)
  let s := { s with gal := { s.gal with snaps := kept } }
  let (trace, s) : List Nat × State := match s.cns.trace with
    | some t =>
      if t.sess ≠ 0 ∨ t.stream ≠ stream ∨ (t.written > 0 ∧ !abort) then ([], s)
      else ([t.seq], (s.decideNow ⟨0, stream, t.seq⟩ rCANCELLED).traceEnd true)
    | none => ([], s)
  (power ++ step ++ launches ++ snaps.map (·.1.seq) ++ trace, s)

/-- Cancel what a flush of a stream of the owner session cancels: the sequences cancelled. -/
def State.flushStream (s : State) (stream : Nat) (abort : Bool) : List Nat × State :=
  let (ws, s) := s.flushWaiting stream
  let (qs, s) : List Nat × State :=
    if 1 ≤ stream ∧ stream ≤ 24 then
      let (a, s) := s.flushBeam (stream - 1) abort
      -- a loop slot's trace can be asked for on its beam's stream
      let (b, s) := s.flushCurator stream abort
      (a ++ b, s)
    else if stream = 25 then s.flushMotion abort
    else if stream = 26 then s.flushVision
    else if stream = 27 then s.flushStore abort
    else s.flushCurator stream abort
  (ws ++ qs, s)

/-- The first and the last of some sequences in the order of a stream that expects `e` next. -/
def seqEnds (e : Nat) (seqs : List Nat) : Nat × Nat :=
  let back (q : Nat) : Nat := (e + 2 ^ 32 - q % 2 ^ 32) % 2 ^ 32
  match seqs with
  | [] => (0xFFFFFFFF, 0xFFFFFFFF)
  | q :: r => (r.foldl (fun a x => if back x > back a then x else a) q, r.foldl (fun a x => if back x < back a then x else a) q)

/-- STREAM_FLUSH. -/
def State.bodyStreamFlush (c : Ctx) (s : State) : State :=
  let stream := u8 c.payload 0
  s.unless c (firstBad [(stream = 0 || stream > 31, rBADPARAM)]) fun s =>
    let (seqs, s) := s.flushStream stream (bit (u8 c.payload 1) 0)
    let e := ((s.session 0).stream stream).expected
    let ends := seqEnds e seqs
    s.ok c (le 4 seqs.length ++ le 4 ends.1 ++ le 4 ends.2)

end Sys2Proof.Machine
end

