-- ==== Sys2Proof/Machine/Host.lean ====
section
/-!
DEFINITION. Packets from the host up to the interpreters (R38-R50, R66-R68, R87-R89): discarding, sessions, sequence handling,
consumption and forwarding; the session opcodes of group 0x00xx (R69-R73, R85); SHP1; BAR0 (R59, R60).
-/
namespace Sys2Proof.Machine

open Sys2Proof

/-! ## Transports (R42, R58, R65, R451) -/

/-- UDP ports of SHP3, SHP2 and SHP1. -/
def udpShp3 : Nat := 47210
def udpShp2 : Nat := 47211
def udpShp1 : Nat := 47212

/-- A generation is accepted on a transport. -/
def genAccepted (ep : Endpoint) (gen : Nat) : Bool :=
  match ep with
  | .pcie => gen = 3 || gen = 2
  | .udp _ _ _ port => (port = udpShp3 && gen = 3) || (port = udpShp2 && gen = 2)
  | .serial => false

/-- A controller port that the endpoint names exists. -/
def Endpoint.known (ep : Endpoint) : Bool := match ep with | .udp _ _ port _ => port < 3 | _ => true

/-- A port carries SHP: its address is set, and in recovery only PCIe and the management port do (R65, R77, R451). -/
def State.portCarries (s : State) (ep : Endpoint) (udpPorts : List Nat) : Bool :=
  match ep with
  | .udp _ _ port dst =>
    let ip := if s.power.recovery && port = 2 then 0xC0A8003C else s.rg P.ETH_IPV4 port
    udpPorts.contains dst && ip ≠ 0 && (!s.power.recovery || port = 2)
  | .pcie => true
  | .serial => !s.power.recovery

/-- Bytes of a packet on the wire (R38, R87). -/
def packetWire (p : Packet) : Nat := (if p.gen = 2 then 12 else 16) + p.payload.length + 4

/-- The longest payload of a datagram that a port takes (R65). -/
def State.datagramMax (s : State) (ep : Endpoint) : Nat :=
  match ep with
  | .udp _ _ port _ => if s.rg P.ETH_JUMBO port = 1 then 8972 else 1472
  | _ => 2 ^ 32

/-- R42, R65: the packet is discarded, and counted. -/
def State.packetDiscarded (s : State) (p : Packet) : Bool :=
  !genAccepted p.ep p.gen || p.stream > 31 || p.payload.length > (if p.gen = 2 then 65535 else 1048576) || packetWire p > s.datagramMax p.ep

def State.discard (s : State) : State := s.bump P.BLK_FRAME_ERR 0

/-! ## Sessions -/

/-- The open session of an endpoint. -/
def State.sessionAt (s : State) (ep : Endpoint) : Option Nat :=
  (List.range 8).find? fun i => (s.session i).isOpen && (s.session i).ep = ep

/-- SESSION_CLOSED (R478). -/
def State.sessionClosed (s : State) (i cause act : Nat) : State :=
  let x := s.session i
  s.record s.curatorSrc 0x000C (le 1 i ++ le 1 x.level ++ le 1 cause ++ le 1 act ++ le 4 x.ep.ip ++ zeros 16)

/-- A session closes (R71): an owner is kept for RESUME, the lock ends (R72), and TMO_ACT decides what follows. Replies of
commands before `lastOrd` still leave. -/
def State.closeSession (s : State) (i cause lastOrd : Nat) : State :=
  if i ≠ 0 then
    (s.sessionClosed i cause 0xFF).updSession i fun x => { x with isOpen := false, lastOrd := lastOrd }
  else
    let act := s.rg P.SESS_TMO_ACT 0
    let s := s.sessionClosed 0 cause act
    let closed := s.log.lastTs
    let s := s.updSession 0 fun x => { x with isOpen := false, held := true, lastOrd := lastOrd }
    let s := s.updHost fun h => { h with locked := false }
    let s := if s.forwards then s.put (.twin 16 []) else s
    if act = 1 then s.causedBy closed fun s => forEach (List.range s.nBeams) (fun n s => s.pauseBeam n) s else s

/-- SESSION_TIMEOUT: no packet for TMO (R71). -/
def State.sessionTimeout (s : State) (i : Nat) : State :=
  let x := s.session i
  let tmo := s.rg P.SESS_TMO i
  if x.isOpen ∧ tmo ≠ 0 ∧ s.now ≥ x.lastAt + tmo * 1000000 then s.closeSession i 2 0 else s

/-- No session: an instance that holds none. -/
def noSession : Nat := 8

/-- Work that still runs for a discarded owner session is no one's: its tickets name no session any more (R70). -/
def State.orphan (s : State) : State :=
  let t (k : Ticket) : Ticket := if k.sess = 0 then { k with sess := noSession } else k
  let c (x : CtlCmd) : CtlCmd := if x.sess = 0 then { x with sess := noSession } else x
  let j (x : StoreJob) : StoreJob := if x.sess = 0 then { x with sess := noSession } else x
  let z (x : ZipJob) : ZipJob := if x.sess = 0 then { x with sess := noSession } else x
  let i (x : I2cXfer) : I2cXfer := { x with k := t x.k }
  let r (x : PowerReq) : PowerReq := { x with k := t x.k }
  let l (x : LampTest) : LampTest := { x with k := t x.k }
  let q (x : StepReq) : StepReq := { x with k := x.k.map t }
  let d (x : Trace) : Trace := if x.sess = 0 then { x with sess := noSession } else x
  let fw (x : FwJob) : FwJob := { x with k := t x.k }
  let sn (x : Ticket × Nat) : Ticket × Nat := (t x.1, x.2)
  { s with
    beams := s.beams.map fun b => { b with arming := b.arming.map c, closers := b.closers.map c }
    power := { s.power with req := s.power.req.map r, fwJob := s.power.fwJob.map fw }
    time := { s.time with step := s.time.step.map q }
    twin := { s.twin with seize := s.twin.seize.map t, reAsked := s.twin.reAsked.map t }
    gal := { s.gal with snaps := s.gal.snaps.map sn }
    cns := { s.cns with trace := s.cns.trace.map d }
    mot := { s.mot with cells := s.mot.cells.map fun p => { p with stoppers := p.stoppers.map t, offs := p.offs.map t } }
    lamp := { s.lamp with test := s.lamp.test.map l, xfers := s.lamp.xfers.map i }
    pipes := s.pipes.map fun p =>
      { p with
        commits := p.commits.map fun (m : Commit) => { m with k := m.k.map t }
        xfers := p.xfers.map i
        ending := p.ending.map t }
    store := { s.store with
      dma := s.store.dma.map j
      pins := s.store.pins.map j
      zips := s.store.zips.map fun e => { e with jobs := e.jobs.map z, running := e.running.map z } } }

/-- An earlier owner session is discarded, as if STREAM_FLUSH had been sent on every stream (R70). -/
def State.discardOwner (s : State) : State :=
  let s := if (s.session 0).isOpen then s.sessionClosed 0 4 0 else s
  let s := s.updHost fun h => { h with locked := false }
  let s := forEach (List.range 32) (fun k s => (s.flushStream k false).2) s
  (s.orphan).updSession 0 fun _ => sessionReset

/-- A new session: every expected sequence is the requested one. -/
def State.newSession (s : State) (i level gen slot first : Nat) (ep : Endpoint) : State :=
  s.updSession i fun _ =>
    { isOpen := true, held := false, level := level, ep := ep, gen := gen, slotKey := if level = 0 then 0xFF else slot,
      lastAt := s.now, streams := List.replicate 32 { streamReset with expected := first }, lastOrd := 0 }

/-- The reply payload of SESSION_OPEN (R85). -/
def State.openReply (s : State) (i : Nat) : List Byte :=
  le 2 s.gradeCode ++ le 1 i ++ zeros 1 ++ le 4 s.fwRunning ++ (s.session i).streams.flatMap fun q => le 4 q.expected

/-- The endpoint's own session closes first (R68), also where the same endpoint resumes it. -/
def State.closeOwn (s : State) (ep : Endpoint) : State :=
  match s.sessionAt ep with
  | some i => s.closeSession i 3 0
  | none => s

/-- The instance an OBSERVE session gets: one that is free, the endpoint's own counting as such (R68). -/
def State.observeInst (s : State) (ep : Endpoint) : Option Nat :=
  (List.range' 1 7).find? fun i => !(s.session i).isOpen || (s.session i).ep = ep

/-- Why a SESSION_OPEN with a good tag is refused (R68, R70). -/
def State.openBad (s : State) (ep : Endpoint) (level : Nat) (resume : Bool) : Option Nat :=
  if resume ∧ level = 0 then some rBADPARAM
  else if level = 0 then (if (s.observeInst ep).isNone then some rBADSTATE else none)
  else if resume then
    let x := s.session 0
    if !(x.isOpen || x.held) ∨ x.level ≠ level then some rBADSTATE else none
  else none

/-- SESSION_OPEN that is accepted: its instance. -/
def State.openNow (s : State) (p : Packet) (level slot first : Nat) (resume : Bool) : Nat × State :=
  if level = 0 then
    let i := (s.observeInst p.ep).getD 1
    (i, (s.closeOwn p.ep).newSession i 0 p.gen slot first p.ep)
  else
    let s := s.closeOwn p.ep
    let s := if resume then
        s.updSession 0 fun x => { x with isOpen := true, held := false, ep := p.ep, gen := p.gen, slotKey := slot, lastAt := s.now }
      else s.discardOwner.newSession 0 level p.gen slot first p.ep
    let s := s.updHost fun h => { h with ownerEver := true }
    (0, if s.forwards then s.put (.twin 15 (le 1 level ++ le 1 p.gen ++ le 1 slot ++ le 4 first ++ le 1 (b2n resume))) else s)

/-- A reply outside every stream of a session. -/
def State.answer (s : State) (p : Packet) (op : Nat) (sess : Option Nat) (res : Nat) (payload : List Byte) : State :=
  s.loose p.ep p.gen p.stream op p.seq p.flags sess res payload

/-- The payload of BUSY_RETRY after the 20 common bytes (R50). -/
def busyPayload (expected reason : Nat) : List Byte := le 4 expected ++ le 1 reason ++ zeros 3

/-- R39 on a command from a host transport. RSP set in a command is rejected as well, which the rule does not state (log entry 73). -/
def flagsBad (flags op gen : Nat) : Bool :=
  flags ≥ 8 || bit flags 0 || (bit flags 2 && op ≠ 0x7F01) || (gen = 2 && (bit flags 1 || bit flags 2))

/-- SESSION_OPEN, answered outside the sequences of every session. Choices of log entry 73: the expected sequence of a BUSY_RETRY outside
every session is 0; level INTEGRATE under SHP2 is BAD_PARAM; one of the other generation from an endpoint with a session is taken. -/
def State.openPacket (s : State) (p : Packet) : State :=
  let b := p.payload
  let level := u8 b 0
  let slot := u8 b 1
  let resume := bit (u8 b 2) 0
  let say (s : State) (res : Nat) : State := s.answer p 0x0003 none res []
  if !p.trailerOk then s.answer p 0x0003 none rBUSY (busyPayload 0 4)
  else if !s.power.started then s.answer p 0x0003 none rBUSY (busyPayload 0 6)
  else
    -- the first attempt uses the nonce up, however it ends (R69)
    let (nonce, s) := if level = 1 ∨ level = 2 then s.takeNonce false p.ep 0 else (none, s)
    if flagsBad p.flags 0x0003 p.gen ∨ b.length ≠ 24 ∨ level > 2 ∨ slot > 7 ∨ (p.gen = 2 ∧ level = 2) then say s rBADPARAM
    else if level ≥ 1 ∧ (s.twin.state = 3 ∨ s.straps.serialHost) then say s rBADSTATE
    else if level ≥ 1 ∧ !s.tagOk slot level nonce [BitVec.ofNat 8 level, BitVec.ofNat 8 slot] (field b 8 16) then
      say (s.authFail slot 1 p.ep) rNOAUTH
    else match s.openBad p.ep level resume with
    | some res => say s res
    | none =>
      let (i, s) := s.openNow p level slot (u32 b 4) resume
      s.answer p 0x0003 (some i) rOK (s.openReply i)

/-! ## Group 0x00xx (R85) -/

/-- Payload of the HEARTBEAT reply. -/
def State.heartbeatReply (s : State) : List Byte :=
  le 8 s.now ++ le 4 s.host.epoch ++ le 1 s.power.state ++ le 1 s.twin.state ++ le 1 (b2n s.straps.roleB) ++ zeros 1

def State.bodyNop (c : Ctx) (s : State) : State := s.ok c
def State.bodyHeartbeat (c : Ctx) (s : State) : State := s.ok c s.heartbeatReply

def State.bodySessionChallenge (c : Ctx) (s : State) : State :=
  let (n, s) := s.giveNonce false (s.session c.sess).ep c.sess
  s.ok c n

/-- In a SHADOW a forwarded close is decided, and the closing itself follows the ACTIVE's notice. -/
def State.bodySessionClose (c : Ctx) (s : State) : State :=
  let s := s.ok c
  if c.twin then s else s.closeSession c.sess 1 (c.ord + 1)

def State.bodySessionLock (c : Ctx) (s : State) : State :=
  if c.sess ≠ 0 then s.reject c rNOAUTH else (s.updHost fun h => { h with locked := true }).ok c

/-- The retained replies from a sequence on, at most n, up to the first that is not retained (R85). -/
def rereadSlots (slots : List Slot) (first : Nat) : Nat → List Slot
  | 0 => []
  | n + 1 =>
    match slots.find? fun sl => sl.seq = first with
    | some sl => if sl.delivered && sl.dec.isSome then sl :: rereadSlots slots ((first + 1) % 2 ^ 32) n else []
    | none => []

def State.bodyReplyReread (c : Ctx) (s : State) : State :=
  let stream := u8 c.payload 0
  let n := u32 c.payload 8
  s.unless c (firstBad [(stream > 31 || n = 0 || n > 256, rBADPARAM)]) fun s =>
    let got := rereadSlots ((s.session c.sess).stream stream).slots (u32 c.payload 4) n
    (got.foldl (fun s sl => s.redeliver c.sess stream sl) s).ok c (le 4 got.length)

def State.bodyDeviceInfo (c : Ctx) (s : State) : State :=
  s.ok c (le 2 s.gradeCode ++ le 2 3 ++ le 8 Config.dieSerial ++ le 4 (s.fwVersion 0) ++ le 4 (s.fwVersion 1) ++
    le 1 (if s.power.recovery then 0xFF else s.power.fwRun) ++ zeros 3)

/-! ## Sequence and consumption (R47-R52) -/

/-- Signed 32-bit difference of two sequences. -/
def seqDiff (a b : Nat) : Int := toSigned 32 (ofSigned 32 ((a : Int) - b))

/-- A sequence of w bits as the 32-bit one nearest the expected one (R87, R89). -/
def extendSeq (w expected seq : Nat) : Nat := ofSigned 32 ((expected : Int) + toSigned w (ofSigned w ((seq : Int) - expected)))

/-- A stream can take a command into a slot (R51). -/
def StreamSt.hasRoom (q : StreamSt) : Bool := q.slots.length < 4096 || q.slots.any (·.delivered)

/-- The oldest delivered reply is displaced where no slot is free. -/
def StreamSt.makeRoom (q : StreamSt) : StreamSt :=
  if q.slots.length < 4096 then q
  else match q.slots.findIdx? (·.delivered) with
    | some i => { q with slots := q.slots.eraseIdx i }
    | none => q

/-- A command every write of which acts only here (R78). -/
def notForwarded (op : Nat) (p : List Byte) : Bool :=
  (op = 0x0101 || op = 0x0103) && !(pidsOf op p).isEmpty && (pidsOf op p).all ownPid

/-- R406: a consumed command of the owner goes to the SHADOW with TWIN set (R39), and waits for its acknowledgement. The other flags go
as they came, so that the SHADOW rejects what this module rejects; for a TWIN that the host has set, RSP is set beside it. A block
goes whole, and its entries that act only here (R78) write nothing there (log entry 101). -/
def State.forwardCommand (s : State) (stream seq op flags : Nat) (acc : TS) (payload : List Byte) : State :=
  let bytes := 36 + payload.length
  let s := s.put (.twin 13 (le 1 stream ++ le 4 seq ++ le 2 op ++ le 1 (flags ||| 16 ||| b2n (bit flags 4)) ++ le 8 acc ++ payload))
  s.updTwin fun t =>
    { t with
      fwd := t.fwd ++ [⟨false, stream, seq, bytes⟩]
      held := t.held ++ [⟨stream, seq, acc + s.rg P.TWIN_FWD_LEAD 0, false⟩] }

/-- A command is consumed: it takes a slot and waits at its interpreter. -/
def State.consume (s : State) (sess stream seq op flags : Nat) (acc : TS) (payload : List Byte) (twin : Bool) : State :=
  let ord := s.host.ordCount
  let fwd := sess = 0 && s.forwards
  let s := s.updHost fun h => { h with ordCount := ord + 1 }
  let s := s.updStream sess stream fun q =>
    let q := q.makeRoom
    { q with
      expected := (seq + 1) % 2 ^ 32
      slots := q.slots ++ [⟨seq, op, flags, acc, ord, none, none, false, if fwd then 0 else 2, none⟩]
      refused := q.refused.filter fun r => r ≠ seq
      waiting := q.waiting ++ [⟨op, seq, ord, acc, flags, payload, twin⟩] }
  let s := s.gateTouch stream op payload
  if fwd && !notForwarded op payload then s.forwardCommand stream seq op flags acc payload else s

/-- The forwarding queue is full (R406). -/
def State.backlogged (s : State) (sess : Nat) : Bool := sess = 0 && s.forwards && s.fwdPend > s.rg P.TWIN_FWD_MAX 0 * 1024

/-- BUSY_RETRY for a sequence of a stream. -/
def State.busy (s : State) (sess : Nat) (p : Packet) (op seq reason : Nat) : State :=
  let q := (s.session sess).stream p.stream
  let s := s.bump P.STREAM_RETRY p.stream
  let stalls := seqDiff seq q.expected ≥ 0 && !q.refused.contains seq
  let s := if stalls then s.updStream sess p.stream fun q => { q with refused := q.refused ++ [seq] } else s
  s.answer { p with seq := seq } op (some sess) rBUSY (busyPayload q.expected reason)

/-- R48, R50: a packet of a session by its sequence. A duplicate of a command that is decided and whose reply has not left yet is answered
by that reply alone, as one that is not decided (log entry 73). -/
def State.sequence (s : State) (sess : Nat) (p : Packet) (op seq : Nat) : State :=
  let q := (s.session sess).stream p.stream
  let d := seqDiff seq q.expected
  if d < 0 then
    if !p.trailerOk then s.busy sess p op seq 4
    else match q.slot? seq with
      | some sl => if sl.delivered then s.redeliver sess p.stream sl else s
      | none => s.bump P.STREAM_STALE p.stream
  else
    if q.refused.any fun r => seqDiff seq r > 0 then s.busy sess p op seq 3
    else if !p.trailerOk then s.busy sess p op seq 4
    else if d > 0 then s.busy sess p op seq 2
    else if !q.hasRoom then s.busy sess p op seq 1
    else if s.backlogged sess then s.busy sess p op seq 5
    else s.consume sess p.stream seq op p.flags s.now p.payload false

/-- Opcodes an endpoint without a session may use, on stream 0 (R68). -/
def looseOp (op : Nat) : Bool := op = 0x0000 || op = 0x0001 || op = 0x0002

/-- Such a command, answered at once. Any other packet is answered NO_AUTH before its trailer is looked at (log entry 73). -/
def State.loosePacket (s : State) (p : Packet) (op : Nat) : State :=
  let say (s : State) (res : Nat) (b : List Byte) : State := s.answer p op none res b
  if !looseOp op ∨ p.stream ≠ 0 then say s rNOAUTH []
  else if !p.trailerOk then say s rBUSY (busyPayload 0 4)
  else if flagsBad p.flags op p.gen ∨ p.payload ≠ [] then say s rBADPARAM []
  else match op with
  | 0x0000 => say s rOK []
  | 0x0001 => say s rOK s.heartbeatReply
  | _ =>
    let (n, s) := s.giveNonce false p.ep 0
    say s rOK n

/-- A packet whose header check has passed. A SESSION_OPEN on stream 0 is answered by openPacket, of whichever generation
(log entry 73). -/
def State.packet (s : State) (op : Nat) (p : Packet) : State :=
  if !s.portCarries p.ep [udpShp3, udpShp2] then s
  else if s.packetDiscarded p then s.discard
  else
    let own := s.sessionAt p.ep
    let s := match own with | some i => s.updSession i fun x => { x with lastAt := s.now } | none => s
    if op = 0x0003 ∧ p.stream = 0 then s.causedBy s.now fun s => s.openPacket p
    else match own with
    | none => s.loosePacket p op
    | some i =>
      if (s.session i).gen ≠ p.gen then s.answer p op none rNOAUTH []
      else
        let e := ((s.session i).stream p.stream).expected
        s.sequence i p op (if p.gen = 2 then extendSeq 16 e p.seq else p.seq % 2 ^ 32)

/-! ## SHP1 (R8, R89) -/

/-- Stream of an SHP1 address. -/
def shp1Stream (address : Nat) : Option Nat := if address < 8 then some (address + 1) else if address = 0xFF then some 0 else none

/-- Parameters an SHP1 host may write: a beam's delays and the setpoint mode of its laser port. -/
def shp1Param (stream pid : Nat) : Bool :=
  pidInst pid + 1 = stream &&
  [P.BEAM_DLY_ON, P.BEAM_DLY_OFF, P.BEAM_DLY_MARK, P.BEAM_DLY_JUMP, P.BEAM_DLY_POLY, P.LSR_MODE].contains (inInst pid 0)

/-- Commands that SHP1 can stand for. Its 'status' passes a PARAM_READ of every PID that the stream reaches (log entry 102). -/
def shp1Allowed (stream op : Nat) (payload : List Byte) : Bool :=
  if op = 0x0000 ∨ op = 0x0001 then true
  else if stream = 0 then false
  else op / 256 = 0x10 || op = 0x0100 || (op = 0x0101 && shp1Param stream (u32 payload 0))

/-- The first valid frame opens an owner session without a key, of which the SHADOW is told as of any other (R70, R406); every stream
takes the sequence of its first frame. After a takeover the session goes on: OP-2 and OP-6 hold for it. -/
def State.shp1Open (s : State) (ep : Endpoint) : State :=
  let x := s.session 0
  if x.isOpen then s
  else if x.held && x.gen = 1 then
    s.updSession 0 fun x => { x with isOpen := true, held := false, ep := ep, lastAt := s.now }
  else
    let s := ((s.discardOwner).newSession 0 1 1 0xFF 0 ep).updHost fun h => { h with ownerEver := true }
    if s.forwards then s.put (.twin 15 (le 1 1 ++ le 1 1 ++ le 1 0xFF ++ le 4 0 ++ le 1 0)) else s

/-- A frame of the serial host. A command that R8 rejects takes its place in the sequence of its address and is decided BAD_PARAM (R49):
it goes on with a flag that every check rejects. The NAK codes before start-up is over (BUSY_RETRY), in a SHADOW (BAD_STATE) and for another endpoint than
the implicit session's (NO_AUTH) are choices (log entry 73). -/
def State.shp1 (s : State) (f : Shp1Frame) : State :=
  if !s.straps.serialHost ∨ !s.portCarries f.ep [udpShp1] ∨ !f.crcOk ∨ f.payload.length > 250 then s
  else
    let nak (s : State) (res : Nat) : State := s.put (.shp1 f.ep f.address f.seq false res s.host.attention)
    if !s.power.started then nak s rBUSY
    else if s.twin.state = 3 then nak s rBADSTATE
    else match shp1Stream f.address with
    | none => nak s rBADPARAM
    | some stream =>
      let s := s.shp1Open f.ep
      if (s.session 0).ep ≠ f.ep then nak s rNOAUTH
      else
        let (op, payload, flags) : Nat × List Byte × Nat := match Config.shp1Command f.command f.payload with
          | some (op, payload) => (op, payload, if shp1Allowed stream op payload then 0 else 1)
          | none => (0, [], 1)
        let s := s.updSession 0 fun x => { x with lastAt := s.now }
        let q := (s.session 0).stream stream
        let s := if q.slots.isEmpty then s.updStream 0 stream fun q => { q with expected := f.seq } else s
        let e := ((s.session 0).stream stream).expected
        s.sequence 0 ⟨f.ep, f.stamp, 1, flags, stream, f.seq, true, payload⟩ op (extendSeq 8 e f.seq)

/-! ## BAR0 (R59, R60) -/

def State.sub (s : State) (k : Nat) : SubRing := s.host.sub.getD k ⟨0, 6, false, 0, 0, 0, false⟩
def State.updSub (s : State) (k : Nat) (f : SubRing → SubRing) : State := s.updHost fun h => { h with sub := h.sub.modify k f }

/-- SQ_ENABLE. -/
def State.sqEnable (s : State) (k v : Nat) : State :=
  let on := bit v 0
  if on ∧ !(s.sub k).enabled then s.updSub k fun r => { r with enabled := true, tail := 0, head := 0, stopped := false }
  else if !on then s.updSub k fun r => { r with enabled := false }
  else s

/-- RQ_ENABLE. -/
def State.rqEnable (s : State) (q v : Nat) : State :=
  let on := bit v 0
  if on ∧ !(s.ring q).enabled then (s.updRing q fun r => { r with enabled := true, headDb := 0, tail := 0, wraps := 0 }).tailBack q
  else if !on then s.updRing q fun r => { r with enabled := false }
  else s

/-- SQ_TAIL. -/
def State.sqTail (s : State) (k v : Nat) : State :=
  if v ≥ 2 ^ (s.sub k).size then s.discard else s.updSub k fun r => { r with tail := v }

/-- RQ_HEAD. -/
def State.rqHead (s : State) (q v : Nat) : State :=
  if v ≥ (s.ring q).bytes then s.discard else s.updRing q fun r => { r with headDb := v }

/-- A base register takes a value whose low w bits must be 0; with others it is not stated which it takes (a free value). -/
def State.baseValue (s : State) (w v : Nat) : Nat × State :=
  if v % 2 ^ w = 0 then (v % 2 ^ 64, s)
  else
    let (x, s) := s.draw
    (x % 2 ^ 64, s)

/-- A write of a register of BAR0, at its offset. One at the upper half of a 64-bit register is ignored (log entry 73). -/
def State.bar0Write (s : State) (off v : Nat) : State :=
  if 0x1000 ≤ off ∧ off < 0x1400 then
    let k := (off - 0x1000) / 32
    let on := (s.sub k).enabled
    match (off - 0x1000) % 32 with
    | 0x00 => if on then s else
        let (x, s) := s.baseValue 12 v
        s.updSub k fun r => { r with base := x }
    | 0x08 => if on ∨ v % 16 < 6 ∨ v % 16 > 12 then s else s.updSub k fun r => { r with size := v % 16 }
    | 0x0C => s.sqEnable k v
    | 0x10 => s.updSub k fun r => { r with headWb := v % 2 ^ 64 }
    | _ => s
  else if 0x1400 ≤ off ∧ off < 0x1480 then
    let q := (off - 0x1400) / 32
    let on := (s.ring q).enabled
    match (off - 0x1400) % 32 with
    | 0x00 => if on then s else
        let (x, s) := s.baseValue 16 v
        s.updRing q fun r => { r with base := x }
    | 0x08 => if on ∨ v % 16 > 8 then s else s.updRing q fun r => { r with size := v % 16 }
    | 0x0C => s.rqEnable q v
    | 0x10 => s.updRing q fun r => { r with tailWb := v % 2 ^ 64 }
    | _ => s
  else if 0x2000 ≤ off ∧ off < 0x2080 ∧ off % 4 = 0 then s.sqTail ((off - 0x2000) / 4) (v % 4096)
  else if 0x2100 ≤ off ∧ off < 0x2110 ∧ off % 4 = 0 then s.rqHead ((off - 0x2100) / 4) (v % 2 ^ 24)
  else s

/-- What a read of BAR0 at an offset gives (R59): a register's value, the two words of a 64-bit one, and 0 of a write-only one or where
no register is. -/
def State.bar0Read (s : State) (off : Nat) : Nat :=
  if off = 0 then 0x30000 + s.gradeCode
  else if 0x1000 ≤ off ∧ off < 0x1400 then
    let r := s.sub ((off - 0x1000) / 32)
    match (off - 0x1000) % 32 with
    | 0x00 => r.base % 2 ^ 32
    | 0x04 => r.base / 2 ^ 32
    | 0x08 => r.size
    | 0x0C => b2n r.enabled
    | 0x10 => r.headWb % 2 ^ 32
    | 0x14 => r.headWb / 2 ^ 32
    | _ => 0
  else if 0x1400 ≤ off ∧ off < 0x1480 then
    let r := s.ring ((off - 0x1400) / 32)
    match (off - 0x1400) % 32 with
    | 0x00 => r.base % 2 ^ 32
    | 0x04 => r.base / 2 ^ 32
    | 0x08 => r.size
    | 0x0C => b2n r.enabled
    | 0x10 => r.tailWb % 2 ^ 32
    | 0x14 => r.tailWb / 2 ^ 32
    | _ => 0
  else 0

/-- What the configuration space of the PCIe function says of it (R57, R58). -/
structure PcieFunction where
  interruptPin : Nat
  msi : Bool
  msix : Bool
  bar0Bytes : Nat
  bar0Wide : Bool
  bar0Prefetch : Bool
  maxPayload : Nat
  maxReadRequest : Nat
  aspmL0s : Bool
  aspmL1 : Bool
  l1Substates : Bool
  deriving DecidableEq, Repr

/-- The one physical function: no interrupt of any kind, a 64 KiB BAR0 of 64 bits, payloads of 512 and read requests of 4,096 bytes, ASPM
L0s and L1 without substates (R57, R58). -/
def pcieFunction : PcieFunction := ⟨0, false, false, 65536, true, false, 512, 4096, true, true, false⟩

/-- CLKREQ_L is driven low whenever the port is powered, which it is not in OFF and STANDBY (R442); WAKE_L is never asserted (R57, R58). -/
def State.clkreqLow (s : State) : Bool := s.power.state ≠ 0 && s.power.state ≠ 1
def State.wakeLow (_ : State) : Bool := false

/-- Source path of the PCIe function's cell of the host block (log entry 46). -/
def State.pcieSrc (s : State) : Nat := s.srcPath 0 1 0

/-- A packet has been read: the index of the next descriptor goes to SQ_HEAD_WB (R60). -/
def State.subAdvance (s : State) (k : Nat) : State :=
  let r := s.sub k
  let head := (r.head + 1) % 2 ^ r.size
  (s.updSub k fun r => { r with head := head }).put (.hostWrite r.headWb (le 4 head))

/-- DESCRIPTOR_FETCH: a packet has been read, or the DMA failed (R60). A packet that fails its header check or whose length is not its
descriptor's is discarded (R42). Code and payload of the record of a DMA error are not stated. -/
def State.descriptorFetch (s : State) (k : Nat) (got : Fetched) : State :=
  let r := s.sub k
  if !r.enabled ∨ r.head = r.tail ∨ !s.host.pcieUp then s
  else match got with
  | .dmaError =>
    let s := s.updSub k fun r => { r with enabled := false, stopped := true }
    let (code, s) := s.draw
    let (pay, s) := s.draw
    s.record s.pcieSrc (code % 65536) (le 24 pay)
  | .corrupt => (s.subAdvance k).discard
  | .packet len op p =>
    let p := { p with ep := .pcie }
    let s := s.subAdvance k
    if len ≠ packetWire p then s.discard else s.packet op p

end Sys2Proof.Machine
end

