-- ==== Sys2Proof/Machine/Interp.lean ====
section
/-!
DEFINITION. The interpreters of the streams (R45, R46): which opcodes a stream takes, the checks every command passes, what holds a
command back, and the opcodes' meanings; FENCE (R83), DOCENT_CLAIM and DOCENT_COMPLETE (R470, R472, R473).
-/
namespace Sys2Proof.Machine

open Sys2Proof

/-! ## Opcodes and streams (R46) -/

/-- A payload length of a header and a run of n to m items. -/
def lenRun (head item lo hi len : Nat) : Bool :=
  head + item * lo ≤ len && len ≤ head + item * hi && (len - head) % item = 0

/-- Whether a payload has the length its opcode's layout gives it; none for an opcode that is not defined. Layouts whose length
follows from a count in them are checked by the body as well. -/
def lenOk (op : Nat) (p : List Byte) : Option Bool :=
  let n := p.length
  match op with
  | 0x0000 | 0x0001 | 0x0002 | 0x0004 | 0x0005 | 0x0009 => some (n = 0)
  | 0x0003 => some (n = 24)
  | 0x0006 => some (n = 12)
  | 0x0007 | 0x0008 | 0x000A => some (n = 4)
  | 0x0100 => some (n = 4)
  | 0x0101 => some (n = 8)
  | 0x0102 => some (n = 4 + 4 * u32 p 0 && lenRun 4 4 1 64 n)
  | 0x0103 => some (n = 4 + 8 * u32 p 0 && lenRun 4 8 1 64 n)
  | 0x0200 | 0x0207 => some (n = 8)
  | 0x0201 | 0x0206 => some (n = 4)
  | 0x0202 => some (9 ≤ n && n ≤ 8 + 1048568)
  | 0x0203 => some (n = 12)
  | 0x0204 | 0x0205 => some (n = 24)
  | 0x1000 | 0x1001 | 0x1004 => some (n = 4)
  | 0x1002 => some (n = 16)
  | 0x1003 => some (12 ≤ n && n ≤ 4 + 16384)
  | 0x1100 | 0x1103 => some (n = 40)
  | 0x1101 => some (n = 4)
  | 0x1102 => some (n = 0)
  | 0x1200 | 0x1210 => some (n = 0)
  | 0x1201 => some (n = 4)
  | 0x1202 => some (n = 8)
  | 0x1300 | 0x1303 => some (n = 4)
  | 0x1301 | 0x1304 => some (n = 12)
  | 0x1302 => some (n = 128)
  | 0x2000 => some (n = 32)
  | 0x2001 => some (n = 24)
  | 0x2002 | 0x2005 | 0x2006 | 0x2007 => some (n = 4)
  | 0x2003 => some (n = 8)
  | 0x2004 => some (n = 12)
  | 0x2800 | 0x2804 => some (n = 4)
  | 0x2801 => some (4 ≤ n)
  | 0x2802 => some (n = 0)
  | 0x2803 | 0x2805 => some (n = 20)
  | 0x3000 | 0x3001 | 0x3003 | 0x3006 => some (n = 4)
  | 0x3002 | 0x3004 => some (4 ≤ n)
  | 0x3005 => some (n = 20)
  | 0x4000 | 0x4001 => some (n = 24)
  | 0x5000 | 0x5010 => some (n = 0)
  | 0x5001 | 0x5011 => some (n = 8)
  | 0x5002 => some (16 ≤ n)
  | 0x5003 | 0x5012 => some (n = 4)
  | 0x6000 | 0x6001 | 0x6003 => some (n = 0)
  | 0x6002 => some (n = 20)
  | 0x7000 => some (n = 8)
  | 0x7001 => some (n = 4)
  | 0x7002 | 0x7011 | 0x7020 => some (n = 0)
  | 0x7003 => some (n = 20)
  | 0x7010 => some (n = 36)
  | 0x7021 => some (n = 4)
  | 0x7F00 => some (n = 0)
  | 0x7F01 => some (n = 4)
  | _ => none

/-- Streams of the Curator firmware. -/
def mgtStream (stream : Nat) : Bool := stream = 0 || 28 ≤ stream
def beamStream (stream : Nat) : Bool := 1 ≤ stream && stream ≤ 24

/-- Whether a stream accepts an opcode (R46, R205). -/
def streamTakes (stream op : Nat) : Bool :=
  if op < 0x100 then
    if op = 0x0000 ∨ op = 0x0001 ∨ op = 0x0008 then true
    else if op = 0x0009 ∨ op = 0x000A then mgtStream stream
    else stream = 0
  else match op / 256 with
  | 0x01 => true
  | 0x02 | 0x40 => stream = 27
  | 0x10 | 0x11 => beamStream stream
  | 0x13 => mgtStream stream || (beamStream stream && (op = 0x1301 || op = 0x1303 || op = 0x1304))
  | 0x20 | 0x28 => stream = 25
  | 0x30 => stream = 26
  | _ => mgtStream stream

/-- Groups an SHP2 host cannot reach (R88). -/
def shp2Lacks (op : Nat) : Bool := [0x13, 0x50, 0x60, 0x7F].contains (op / 256)

/-! ## Levels and states -/

/-- What an OBSERVE session may send, on stream 0 (R67, R68). -/
def observeMay (stream op : Nat) (p : List Byte) : Bool :=
  stream = 0 &&
  ([0x0000, 0x0001, 0x0002, 0x0004, 0x0009, 0x0100, 0x0102, 0x6000, 0x6002, 0x7000, 0x7001, 0x7002, 0x7003, 0x7011, 0x7020].contains op ||
   (op = 0x0101 && u32 p 0 = P.CAL_EXPORT))

/-- What a controller in the Fatal safe state or HALTED accepts (R422, R461). -/
def fatalMay (op : Nat) : Bool :=
  [0x0000, 0x0001, 0x0002, 0x0003, 0x0004, 0x0009, 0x0100, 0x0102, 0x7000, 0x7001, 0x7020].contains op

/-- What recovery accepts (R451). -/
def recoveryMay (op : Nat) (p : List Byte) : Bool :=
  [0x0000, 0x0001, 0x0002, 0x0003, 0x0004, 0x0009, 0x0100, 0x0102].contains op ||
  ((op = 0x0101 || op = 0x0103) && !(pidsOf op p).isEmpty &&
    (pidsOf op p).all fun q => q = P.SYS_FW_ACC || q = P.SYS_FW_LOAD)

/-- Why a command is rejected before its opcode's own checks. A write of an OBSERVE session is NO_AUTH before its PID is looked at
(R67, R506; log entry 103). -/
def State.checkBad (s : State) (c : Ctx) : Option Nat :=
  let x := s.session c.sess
  let noStream := s.straps.grade = .yq1260 && 13 ≤ c.stream && c.stream ≤ 24
  firstBad
    [(flagsBad c.flags c.op x.gen, rBADPARAM),
     (noStream, rBADPARAM),
     ((lenOk c.op c.payload).isNone || !streamTakes c.stream c.op, rBADOP),
     (x.gen = 2 && shp2Lacks c.op, rBADOP),
     (x.level = 0 && !observeMay c.stream c.op c.payload, rNOAUTH),
     ((s.fatal || s.power.state = 5) && !fatalMay c.op, rBADSTATE),
     (s.power.recovery && !recoveryMay c.op c.payload, rBADSTATE),
     (lenOk c.op c.payload ≠ some true, rBADPARAM)]

/-! ## Docent (R470, R472, R473) -/

/-- DOCENT_CLAIM. -/
def State.bodyDocentClaim (c : Ctx) (s : State) : State :=
  let (r, s) := s.docClaim
  s.ok c r

/-- DOCENT_COMPLETE; with CHAIN it claims in the same instant. -/
def State.bodyDocentComplete (c : Ctx) (s : State) : State :=
  let id := u16 c.payload 0
  s.unless c (firstBad [(s.doc.stackH.head? ≠ some id, rBADPARAM)]) fun s =>
    let s := s.docPop
    if !bit c.flags 2 then s.ok c (docReply 0 0 0 0 0)
    else
      let (r, s) := s.docClaim
      s.ok c r

/-! ## The opcodes -/

/-- What an opcode means. A FENCE has no meaning here: it stands at the front of its stream until FENCE_COMPLETE. -/
def State.body (c : Ctx) (s : State) : State :=
  match c.op with
  | 0x0000 => s.bodyNop c
  | 0x0001 => s.bodyHeartbeat c
  | 0x0002 => s.bodySessionChallenge c
  | 0x0004 => s.bodySessionClose c
  | 0x0005 => s.bodySessionLock c
  | 0x0006 => s.bodyReplyReread c
  | 0x0007 => s.bodyStreamFlush c
  | 0x0009 => s.bodyDeviceInfo c
  | 0x000A => s.bodyPowerRequest c
  | 0x0100 => s.bodyParamRead c
  | 0x0101 => s.bodyParamWrite c
  | 0x0102 => s.bodyParamReadBlock c
  | 0x0103 => s.bodyParamWriteBlock c
  | 0x0200 => s.bodyStoreAlloc c
  | 0x0201 => s.bodyStoreFree c
  | 0x0202 => s.bodyStoreWrite c
  | 0x0203 => s.bodyStoreRead c
  | 0x0204 => s.bodyStoreDmaIn c
  | 0x0205 => s.bodyStoreDmaOut c
  | 0x0206 => s.bodyStoreInfo c
  | 0x0207 => s.bodyStorePin c
  | 0x1000 => s.bodyBeamEnable c
  | 0x1001 => s.bodyBeamDisable c
  | 0x1002 => s.bodyExposeList c
  | 0x1003 => s.bodyExposeInline c
  | 0x1004 => s.bodyCatalogueMark c
  | 0x1100 => s.bodyRasterCommit c
  | 0x1101 => s.bodyRasterRun c
  | 0x1102 => s.bodyRasterHalt c
  | 0x1103 => s.bodyRasterPush c
  | 0x1200 => s.bodyGalleryClear c
  | 0x1201 => s.bodyGallerySnapshot c
  | 0x1202 => s.bodyGalleryRead c
  | 0x1210 => s.bodyWarderStatus c
  | 0x1300 => s.bodyCnsBind c
  | 0x1301 => s.bodyCnsMode c
  | 0x1302 => s.bodyCnsOrder c
  | 0x1303 => s.bodyCnsStatus c
  | 0x1304 => s.bodyCnsTrace c
  | 0x2000 => s.bodyPrfMove c
  | 0x2001 => s.bodyPrfChange c
  | 0x2002 => s.bodyPrfStop c
  | 0x2003 => s.bodyPrfHome c
  | 0x2004 => s.bodyPrfSetPos c
  | 0x2005 => s.bodyDrvEnable c
  | 0x2006 => s.bodyFbkArmIndex c
  | 0x2007 => s.bodyFbkLatchRead c
  | 0x2800 => s.bodyLampEnable c
  | 0x2801 => s.bodyLampSet c
  | 0x2802 => s.bodyLampTest c
  | 0x2803 => s.bodyLampPattern c
  | 0x2804 => s.bodyLampStrobe c
  | 0x2805 => s.bodyLampI2cXfer c
  | 0x3000 => s.bodyPipeStart c
  | 0x3001 => s.bodyPipeStop c
  | 0x3002 => s.bodyPipeBufs c
  | 0x3003 => s.bodyPipeRelease c
  | 0x3004 => s.bodyCamCommit c
  | 0x3005 => s.bodyCamI2cXfer c
  | 0x3006 => s.bodyPipeStatus c
  | 0x4000 => s.bodyZipCompress c
  | 0x4001 => s.bodyZipDecompress c
  | 0x5000 => s.bodyTimeGet c
  | 0x5001 => s.bodyTimeSet c
  | 0x5002 => s.bodyTimeLaunch c
  | 0x5003 => s.bodyLaunchFlush c
  | 0x5010 => s.bodyCatSeal c
  | 0x5011 => s.bodyCatList c
  | 0x5012 => s.bodyCatRelease c
  | 0x6000 => s.bodyTwinStatus c
  | 0x6001 => s.bodyTwinSwitch c
  | 0x6002 => s.bodyTwinSeize c
  | 0x6003 => s.bodyTwinResync c
  | 0x7000 => s.bodyLogRead c
  | 0x7001 => s.bodyLogMark c
  | 0x7002 => s.bodyLogChallenge c
  | 0x7003 => s.bodyLogClear c
  | 0x7010 => s.bodyKeyWrite c
  | 0x7011 => s.bodyKeyInfo c
  | 0x7020 => s.bodyFaultStatus c
  | 0x7021 => s.bodyFaultClear c
  | 0x7F00 => s.bodyDocentClaim c
  | 0x7F01 => s.bodyDocentComplete c
  | _ => s.reject c rBADOP

/-- A command runs at its interpreter. -/
def State.interpret (s : State) (c : Ctx) : State :=
  s.unless c (s.checkBad c) fun s => s.body c

/-! ## What holds a command back -/

/-- The command a stream's interpreter would begin next. -/
def Waiting.ctx (w : Waiting) (sess stream : Nat) : Ctx :=
  ⟨sess, stream, w.seq, w.ord, w.op, w.stamp, w.flags, w.payload, w.twin⟩

/-- A command that takes effect at a control-frame boundary (R26, R179, R195). -/
def boundaryCmd (op : Nat) (p : List Byte) : Bool :=
  op = 0x1301 || op = 0x1302 || ((op = 0x0101 || op = 0x0103) && (pidsOf op p).any fun q => pidRegion q ≠ 0)

/-- The queue or the unit that a command needs has no room for it yet. -/
def State.unitFull (s : State) (c : Ctx) : Bool :=
  let n := c.beam
  match c.op with
  | 0x000A => s.powerBusy
  | 0x0101 | 0x0103 => (pidsOf c.op c.payload).contains P.SYS_FW_LOAD && s.power.fwJob.isSome
  | 0x1002 | 0x1003 | 0x1004 | 0x1101 | 0x1103 => s.beamQueueFull n
  | 0x2000 | 0x2003 => s.prfFull (u8 c.payload 0)
  | 0x2800 | 0x2801 | 0x2802 | 0x2803 | 0x2804 => s.lamp.test.isSome
  | 0x3004 => s.commitFull (u8 c.payload 0)
  | 0x4000 | 0x4001 => s.zipFull c.op c.payload
  | 0x5002 => s.launchFull c.payload
  | _ => false

/-- A command of the owner that waits for its point of effect in a pair (R406). -/
def State.twinHolds (s : State) (c : Ctx) : Bool :=
  c.sess = 0 && s.twin.held.any fun h => h.stream = c.stream && h.seq = c.seq && !(h.acked && h.due ≤ s.now)

/-- Commands whose reply rests on what only the ACTIVE holds: its Docent, its log, its catalogue, its own ownership, replies on
their way to the host. In a SHADOW they stand until the forwarded reply decides them (R407, R473). -/
def shadowDefers (op : Nat) : Bool :=
  [0x0006, 0x5012, 0x6001, 0x6002, 0x6003, 0x7000, 0x7001, 0x7003, 0x7F00, 0x7F01].contains op

/-- The module executes forwarded commands (R407, R410). -/
def State.follows (s : State) : Bool := s.twin.state = 3 || s.twin.state = 4

/-- A command of stream 25 waits for the instant at which it takes effect: a LAMP_SET for its PWM period, the first move of a cell that is
free for its boundary. A move behind another waits for that cell only, and holds nothing back (R287). -/
def State.motionPending (s : State) (op : Nat) : Bool :=
  let free (p : PrfCell) : Bool := p.st = 1 || (p.st = 2 && (match p.run with | some m => m.mode = 2 | none => true))
  (op ≠ 0x2801 && !s.lamp.sets.isEmpty) ||
  (op ≠ 0x2000 && op ≠ 0x2003 && s.mot.cells.any fun p => free p && !p.queue.isEmpty) ||
  (op ≠ 0x2001 && s.mot.cells.any fun p => !p.changes.isEmpty) ||
  (op ≠ 0x2002 && s.mot.cells.any fun p => p.stopAsk.isSome)

/-- An earlier command of the stream has not taken effect yet (OP-1): a write or command that waits for its
boundary or for a pause point; an enable or disable that waits in its beam, behind which the beam's own later commands stand in the
beam's queues and any other stands here; or what stream 25 waits for. -/
def State.orderHolds (s : State) (c : Ctx) : Bool :=
  (!boundaryCmd c.op c.payload && s.writes.any fun w => w.sess = c.sess && w.stream = c.stream) ||
  (beamStream c.stream && !(c.op / 256 = 0x10 || c.op / 256 = 0x11) &&
    (s.beam c.beam).ctl.any fun k => k.ord < c.ord) ||
  (c.stream = 25 && s.motionPending c.op)

/-- The command at the front of a stream cannot begin yet. One that its checks reject is held only by those before it. -/
def State.holdsBack (s : State) (c : Ctx) : Bool :=
  s.twinHolds c || s.orderHolds c ||
  ((s.checkBad c).isNone && (c.op = 0x0008 || (c.twin && s.follows && shadowDefers c.op) || s.gateHolds c.stream c.op c.payload || s.unitFull c))

/-- The front of a stream of a session, if it can begin. -/
def State.frontOf (s : State) (sess stream : Nat) : Option Ctx :=
  match ((s.session sess).stream stream).waiting with
  | [] => none
  | w :: _ =>
    let c := w.ctx sess stream
    if s.holdsBack c then none else some c

/-- Of the commands that can begin, the one consumed first. -/
def State.nextCommand (s : State) : Option Ctx :=
  let all : List Ctx := (List.range 8).flatMap fun i => (List.range 32).filterMap fun k => s.frontOf i k
  all.foldl (fun (best : Option Ctx) c => match best with | some b => if c.ord < b.ord then some c else some b | none => some c) none

/-- A command leaves its interpreter's front. -/
def State.popCommand (s : State) (sess stream : Nat) : State :=
  s.updStream sess stream fun q => { q with waiting := q.waiting.drop 1 }

/-- Begin one command. The records it causes are stamped later than its acceptance (R82). -/
def State.beginCommand (s : State) (c : Ctx) : State :=
  let s := s.popCommand c.sess c.stream
  let s := if c.sess = 0 then
      s.updTwin fun t => { t with held := t.held.filter fun h => !(h.stream = c.stream && h.seq = c.seq) }
    else s
  ((s.setCause (some c.stamp)).interpret c).setCause none

/-- Commands waiting at every interpreter. -/
def State.waitingCount (s : State) : Nat :=
  (s.host.sessions.map fun x => (x.streams.map fun q => q.waiting.length).sum).sum

/-- Begin the commands that can, in the order they were consumed. -/
def State.interpretAll (s : State) : Nat → State
  | 0 => s
  | n + 1 => match s.nextCommand with
    | none => s
    | some c => (s.beginCommand c).interpretAll n

/-- Every interpreter goes as far as it can. -/
def State.runStreams (s : State) : State := s.interpretAll (s.waitingCount + 1)

/-! ## FENCE (R83) -/

/-- A profile cell has nothing left of moves consumed before `ord`: at rest, the last pulse out (R287). -/
def State.fenceCell (s : State) (ord a : Nat) : Bool :=
  let p := s.prf a
  let x := s.sd (a - 6)
  !(p.queue.any fun m => m.ord < ord) &&
  (a < 6 || (!(x.owed.any fun q => q.ord < ord) && (x.lastPulse = 0 || x.lastPulse + s.rg P.SD_PW (a - 6) ≤ s.now))) &&
  (match p.run with
    | some m => ord ≤ m.ord || (!p.moving && (a ≥ 6 || (s.stageAhead a).isEmpty))
    | none => !p.moving && (a ≥ 6 || (s.stageAhead a).isEmpty))

/-- Every effect of the commands of stream k consumed before `ord`, a FENCE accepted at `at_`, is at the pins and in the store. -/
def State.fenceStream (s : State) (sess ord k : Nat) (at_ : TS) : Bool :=
  let q := (s.session sess).stream k
  !(q.waiting.any fun w => w.ord < ord) && !(q.slots.any fun sl => sl.ord < ord && sl.dec.isNone) &&
  (if beamStream k then
    let b := s.beam (k - 1)
    !(b.cmds.any fun c => c.ord < ord) && !(b.ctl.any fun c => c.ord < ord) && !(b.closers.any fun c => c.ord < ord) &&
    (!b.cmds.isEmpty || !b.laser.gate) && (match b.dep with | some d => ord ≤ d.ord | none => !b.cmds.isEmpty || b.laser.openNs = 0)
  else if k = 25 then
    (List.range 8).all (fun a => s.fenceCell ord a) &&
    (match s.lamp.effAt with | some e => s.nextPeriod at_ < e | none => true)
  else if k = 26 then s.pipes.all fun p => p.commits.all fun m => !(q.slots.any fun sl => sl.seq = m.seq && sl.ord < ord)
  else if k = 27 then true
  else !(s.time.launches.any fun l => l.any fun x => x.stream = k && x.ord < ord))

/-- A FENCE at the front of a stream of the owner session has nothing left to wait for. -/
def State.fenceReady (s : State) (c : Ctx) : Bool :=
  let mask := u32 c.payload 0
  c.op = 0x0008 && !s.twinHolds c && !s.orderHolds c && (s.checkBad c).isNone &&
  (List.range 32).all fun k => !bit mask k || s.fenceStream c.sess c.ord k c.stamp

/-- FENCE_COMPLETE on a stream. -/
def State.fenceComplete (s : State) (stream : Nat) : State :=
  match ((s.session 0).stream stream).waiting with
  | [] => s
  | w :: _ =>
    let c := w.ctx 0 stream
    if !s.fenceReady c then s
    else
      let s := (s.popCommand 0 stream).updTwin fun t =>
        { t with held := t.held.filter fun h => !(h.stream = stream && h.seq = c.seq) }
      s.ok c

end Sys2Proof.Machine
end

