-- ==== Sys2Proof/Machine/Settle.lean ====
section
/-!
DEFINITION. What follows every event at once: the interpreters go on, Stop and Fatal decisions are carried out (R421, R422), units
move on, replies leave. How an event arrives: the instant it happens, and the states in which nothing but AON or VIN acts.
-/
namespace Sys2Proof.Machine

open Sys2Proof

/-! ## Stop and Fatal (R421, R422) -/

/-- EXP: beams in ARMED or RUN are disabled as by BEAM_DISABLE NOW. -/
def State.stopExp (s : State) : State :=
  forEach (List.range s.nBeams) (fun n s =>
    let b := s.beam n
    if b.st = 3 ∧ s.rg P.BEAM_DIS_RAMP n ≠ 0 then s.beginShut n 2 4 s.nextStep
    else if b.st = 2 ∨ b.st = 3 then s.stopBeam n 4
    else s) s

/-- MOT: every profile cell stops at QSTOP_DEC and cancels its queue; the lamp turns off. -/
def State.stopMot (s : State) : State :=
  let s := forEach (List.range 8) (fun a s => s.prfQuick a 1) s
  if s.lamp.st = 0 then s else s.lampOff

/-- VIS: every pipeline stops as by PIPE_STOP in mode 1. -/
def State.stopVis (s : State) : State :=
  forEach (List.range s.nPipes) (fun p s => if (s.pipe p).run then s.pipeAbandon p 2 else s) s

/-- STO: no more allocation or writing; running jobs end CANCELLED. -/
def State.stopSto (s : State) : State := (s.zipCancelAll).updStore fun st => { st with stopped := true }

/-- The action of a Stop of a region, or of a Fatal (7). -/
def State.stopAction (s : State) (region : Nat) : State :=
  match region with
  | 1 => s.stopExp
  | 2 => s.stopMot
  | 3 => s.stopVis
  | 4 => s.stopSto
  | 7 => s.fatalSafe
  | _ => s

/-- Carry out the decisions made so far. -/
def State.carryStops (s : State) : State :=
  let due := s.stops
  due.foldl (fun s r => s.causedBy s.log.lastTs fun s => s.stopAction r) { s with stops := [] }

/-! ## Interruption (R130) -/

/-- A beam in RUN with a cause of R130 present is interrupted. Cause 3 acts when EXPOSE is left. A SAFETY fault, a change of the power
state, a Degraded fault and a loss of TWIN_OWN have written a record, and what they cause comes after it (R82); what an edge of the laser
enable causes is stamped 1 ns after the edge (R400's example). -/
def State.checkBeams (s : State) : State :=
  let after := s.log.lastTs
  forEach (List.range s.nBeams) (fun n s =>
    if (s.beam n).st = 3 then
      match s.intCause n with
      | 0 => s
      | 1 => s.causedBy s.now fun s => s.interrupt n 1
      | 4 => s.interrupt n 4
      | 5 => s.interrupt n 5
      | c => s.causedBy after fun s => s.interrupt n c
    else s) s

/-! ## Replies in a pair (R406, R407) -/

/-- Decided replies of the owner go to the SHADOW; without one, nothing waits for it. -/
def State.mirrorReplies (s : State) : State :=
  if s.twin.state ≠ 2 then s
  else if !s.forwards then
    let next := s.nextFrame
    let s := s.updSession 0 fun x => { x with streams := x.streams.map fun q =>
      { q with slots := q.slots.map fun (sl : Slot) => if sl.mirror < 2 then { sl with mirror := 2 } else sl } }
    s.updTwin fun t => { t with
      fwd := []
      held := t.held.map fun (h : Held) => if h.acked then h else { h with acked := true, due := max h.due next } }
  else
    forEach (List.range 32) (fun k s =>
      let due := ((s.session 0).stream k).slots.filter fun sl => sl.mirror = 0 && sl.dec.isSome
      let s := due.foldl (fun s sl => match sl.dec with
        | some d =>
          let s := s.put (.twin 14 (le 1 k ++ le 4 sl.seq ++ le 2 sl.op ++ le 1 sl.flags ++ le 1 d.result ++ le 8 sl.accepted ++ le 8 d.eff ++ d.payload))
          s.updTwin fun t => { t with fwd := t.fwd ++ [⟨true, k, sl.seq, 36 + d.payload.length⟩] }
        | none => s) s
      if due.isEmpty then s
      else s.updStream 0 k fun q => { q with slots := q.slots.map fun (sl : Slot) =>
        if sl.mirror = 0 ∧ sl.dec.isSome then { sl with mirror := 1 } else sl }) s

/-- A bus transfer that only the owner makes: it stands in the SHADOW until the forwarded reply decides it (R320, R331). -/
def State.standingXfer (s : State) (r : FwdReply) : Bool :=
  (r.stream = 25 && s.lamp.xfers.any fun x => x.k.sess = 0 && x.k.seq = r.seq) ||
  (r.stream = 26 && s.pipes.any fun q => q.xfers.any fun x => x.k.sess = 0 && x.k.seq = r.seq)

/-- It is done. -/
def State.dropXfer (s : State) (r : FwdReply) : State :=
  let keep (xs : List I2cXfer) : List I2cXfer := xs.filter fun x => !(x.k.sess = 0 && x.k.seq = r.seq)
  if r.stream = 25 then s.updLamp fun l => { l with xfers := keep l.xfers }
  else { s with pipes := s.pipes.map fun q => { q with xfers := keep q.xfers } }

/-- A forwarded reply becomes the one that is retained, as delivered; a result that differs from the SHADOW's own is recorded,
and the SHADOW enters RESYNC. -/
def State.mergeReply (s : State) (r : FwdReply) : State :=
  let own := (((s.session 0).stream r.stream).slot? r.seq).bind (·.dec)
  let s := s.updStream 0 r.stream fun q => { q with slots := q.slots.map fun (sl : Slot) =>
    if sl.seq = r.seq then { sl with dec := some ⟨r.result, r.eff, r.payload, s.now⟩, delivered := true } else sl }
  let s := if s.standingXfer r then s.dropXfer r else s
  match own with
  | some d =>
    if d.result = r.result ∨ s.twin.state ≠ 3 then s
    else
      let s := s.record s.twinSrc 0x6005 (le 1 r.stream ++ le 1 d.result ++ le 1 r.result ++ zeros 1 ++ le 4 r.seq ++ zeros 16)
      s.causedBy s.log.lastTs fun s => s.toResync 3
  | none => s

/-- Forwarded replies whose command the SHADOW has decided itself; all of them once it is not a SHADOW any more. -/
def State.mergeReplies (s : State) : State :=
  if s.twin.replies.isEmpty then s
  else
    let ready (r : FwdReply) : Bool := !s.follows || !s.undecided ⟨0, r.stream, r.seq⟩ || s.standingXfer r
    let due := s.twin.replies.filter ready
    due.foldl State.mergeReply (s.updTwin fun t => { t with replies := t.replies.filter fun r => !ready r })

/-! ## After every event -/

/-- Since when the laser enables differ (R124). -/
def State.enableDiff (s : State) : State :=
  s.updPower fun p => { p with enDiff := if p.laserEnA = p.laserEnB then none else some (p.enDiff.getD s.now) }

/-- Units move on as far as they can by now. -/
def State.pumps (s : State) : State :=
  let s := s.carryStops.enableDiff
  let s := forEach (List.range s.nBeams) (fun n s => s.tidyRaster n) s
  let s := s.checkBeams
  let s := (s.lampPump).visPump
  let s := (s.catPump).ptpRefresh
  (s.powerPump).killAssert

/-- Host traffic is answered once start-up and the negotiation have ended (R444). -/
def State.noteStarted (s : State) : State :=
  if s.twin.state = 1 then s else s.updPower fun p => { p with started := true }

/-- What follows an event once its commands have been begun. -/
def State.afterRun (s : State) : State :=
  let s := s.pumps
  let s := (s.runStreams).carryStops
  let s := (s.mirrorReplies).mergeReplies
  (s.gateRefresh).noteStarted.macPump.replyPump

/-- What follows an event. -/
def State.settle (s : State) : State := (s.runStreams).afterRun

/-! ## Events -/

/-- What the ports have done by now: inputs, motion outputs, lamp periods and windows, laser edges. -/
def State.catchUp (s : State) : State := forEach (List.range s.nBeams) (fun n s => s.laserCatchUp n) s.motCatchUp.lampPump

/-- Commands that both modules of a pair hold take effect at their own instants (R406), those up to t. -/
def State.runHeld (s : State) (t : TS) : Nat → State
  | 0 => s
  | n + 1 =>
    let due := (s.twin.held.filter fun h => h.acked && s.now < h.due && h.due ≤ t).map (·.due)
    match due with
    | [] => s
    | d :: r => (((s.at (r.foldl min d)).catchUp).settle).runHeld t n

/-- The state in which an event at t finds a module whose clocks run, what has happened on its own by then with it; what the last step put
out is gone. -/
def State.arrived (s : State) (t : TS) : State :=
  let s := State.negotiateAlone { s with out := [] }
  (((s.runHeld t s.twin.held.length).at t).updTime fun x => { x with frac := Config.timeFraction (max s.now t) % 2 ^ 32 }).catchUp

/-- The GPO pins follow the GPO word (R463). -/
def State.gpoMove (s : State) : State :=
  let p := s.gpoPins
  if p = s.power.gpoPin then s else (s.updPower fun q => { q with gpoPin := p }).put (.gpo s.now p)

/-- What follows an event of a module whose clocks still run after it. -/
def State.finish (s : State) : State := State.gpoMove (if s.power.state = 0 || s.clockless then s else s.settle)

/-- A laser port whose gate is held low; setpoint and MOD follow at its next micro-step (R122). -/
def Beam.gateLow (b : Beam) : Beam :=
  if b.laser.gate then
    { b with
      gates := b.gates.map fun g => if g.opened then { g with closed := true } else g
      laser := { b.laser with gate := false, openFrame := false, nextPulse := none } }
  else b

/-- The unclocked path (R122, R124): it holds every gate low, whatever the firmware and the cells do, while an enable is low or a
SAFETY fault is in effect. It acts last at every event. -/
def State.gatePath (s : State) : State :=
  if s.gateAllowed then s
  else
    let high := (List.range s.nBeams).filter fun n => (s.beam n).laser.gate && s.twin.own
    { s with
      out := s.out ++ high.map fun n => Output.gateEdge n s.now false
      beams := s.beams.map Beam.gateLow }

/-- An event at instant t, and what it does when the module is up, and while its clocks stand. A module that is off does nothing. -/
def State.eventWhen (s : State) (t : TS) (up stopped : State → State) : State :=
  State.gatePath <|
    if s.power.state = 0 then { s with out := [] }
    else if s.clockless then stopped (State.aonPass { s with out := [] } t)
    else (up (s.arrived t)).finish

/-- An event that does nothing while the clocks stand. -/
def State.event (s : State) (t : TS) (up : State → State) : State := s.eventWhen t up id

end Sys2Proof.Machine
end

