-- ==== Sys2Proof/Machine/Forward.lean ====
section
/-!
DEFINITION. What a SHADOW, or a module that joins as one, does with what the ACTIVE forwards (R386, R399, R406, R407, R441, R473).
-/
namespace Sys2Proof.Machine

open Sys2Proof

/-- Acknowledge a forwarded command or reply. -/
def State.ackForward (s : State) (reply : Bool) (stream seq : Nat) : State :=
  s.put (.twin 18 (le 1 (b2n reply) ++ le 1 stream ++ le 4 seq))

/-- A command: accepted with TWIN set only (R39), consumed as the ACTIVE consumed it, in effect at its accepted TS64 plus FWD_LEAD. -/
def State.forwardedCommand (s : State) (stream seq op flags : Nat) (acc : TS) (payload : List Byte) : State :=
  if !bit flags 4 then s
  else
  let flags := flags - 16
  let s := if (((s.session 0).stream stream).slot? seq).isSome then s
    else
      let s := s.consume 0 stream seq op flags acc payload true
      s.updTwin fun t => { t with held := t.held ++ [⟨stream, seq, acc + s.rg P.TWIN_FWD_LEAD 0, true⟩] }
  s.ackForward false stream seq

/-- A reply to a command this module has not received: it is held, delivered, in sequence. -/
def State.insertReply (s : State) (stream seq op flags result : Nat) (acc eff : TS) (payload : List Byte) : State :=
  let ord := s.host.ordCount
  let s := s.updHost fun h => { h with ordCount := ord + 1 }
  s.updStream 0 stream fun q =>
    let q := q.makeRoom
    { q with
      expected := if seqDiff seq q.expected ≥ 0 then (seq + 1) % 2 ^ 32 else q.expected
      slots := q.slots ++ [⟨seq, op, flags, acc, ord, some ⟨result, eff, payload, s.now⟩, none, true, 2, none⟩] }

/-- The ID that a forwarded claim carries goes on the H stack, and is pending no more (R473). -/
def State.pushClaim (s : State) (payload : List Byte) : State :=
  let id := u16 payload 0
  if id = 0 ∨ id = 0x1FF then s
  else (s.docTaken id).updDoc fun d => { d with stackH := id :: d.stackH }

/-- What a deferred command does here once its forwarded reply says that it was carried out. -/
def State.deferredEffect (s : State) (w : Ctx) (payload : List Byte) : State :=
  match w.op with
  | 0x5012 => if s.catListed.any fun g => g.number = u32 w.payload 0 then s.bodyCatRelease w else s
  | 0x7F00 => s.pushClaim payload
  | 0x7F01 => if bit w.flags 2 then s.docPop.pushClaim payload else s.docPop
  | _ => s

/-- A reply: a deferred command and a FENCE leave their stream with it, a power request ends with it; any other is compared with
this module's own decision once there is one. -/
def State.forwardedReply (s : State) (stream seq op flags result : Nat) (acc eff : TS) (payload : List Byte) : State :=
  let r : FwdReply := ⟨stream, seq, result, eff, payload⟩
  let q := (s.session 0).stream stream
  let s := match q.slot? seq with
    | none => s.insertReply stream seq op flags result acc eff payload
    | some _ =>
      match q.waiting.find? fun (w : Waiting) => w.seq = seq && (shadowDefers w.op || w.op = 0x0008) with
      | some w =>
        let s := s.updStream 0 stream fun q => { q with waiting := q.waiting.filter fun x => x.seq ≠ seq }
        let s := s.updTwin fun t => { t with held := t.held.filter fun h => !(h.stream = stream && h.seq = seq) }
        -- a reply of an error has changed nothing
        let s := if result < 0x10 ∧ shadowDefers w.op then s.deferredEffect (w.ctx 0 stream) payload else s
        let s := s.updStream 0 stream fun q => { q with slots := q.slots.map fun (sl : Slot) =>
          if sl.seq = seq then { sl with dec := none } else sl }
        s.mergeReply r
      | none =>
        if (s.power.req.map fun (x : PowerReq) => x.k) = some (⟨0, stream, seq⟩ : Ticket) then
          (s.updPower fun p => { p with req := none }).mergeReply r
        else s.updTwin fun t => { t with replies := t.replies ++ [r] }
  s.ackForward true stream seq

/-- An owner session opened as in the ACTIVE; with RESUME the session held goes on, under another key slot it may be (R70, R432). -/
def State.forwardedSession (s : State) (level gen slot first : Nat) (resume : Bool) : State :=
  let ep := (s.session 0).ep
  let s := if resume then s.updSession 0 fun x => { x with gen := gen, slotKey := slot } else s.discardOwner.newSession 0 level gen slot first ep
  (s.updSession 0 fun x => { x with isOpen := false, held := true }).updHost fun h => { h with ownerEver := true }

/-- The owner session closed in the ACTIVE (R71, R72). -/
def State.forwardedClose (s : State) : State :=
  let s := s.updHost fun h => { h with locked := false }
  if s.rg P.SESS_TMO_ACT 0 = 1 then s.causedBy s.now fun s => forEach (List.range s.nBeams) (fun n s => s.pauseBeam n) s else s

/-- TWIN_FORWARD_RECEIVE. -/
def State.twinForward (s : State) (item : Forward) : State :=
  if !s.follows then s
  else
    let s := s.updTwin fun t => { t with heardAt := s.now }
    match item with
    | .command stream seq op flags acc payload =>
      if stream > 31 then s else s.forwardedCommand stream (seq % 2 ^ 32) op flags acc payload
    | .reply stream seq op flags result acc eff payload =>
      if stream > 31 then s else s.causedBy acc fun s => s.forwardedReply stream (seq % 2 ^ 32) op flags result acc eff payload
    | .notice stream seq boundary =>
      s.updTwin fun t => { t with held := t.held.map fun (h : Held) =>
        if h.stream = stream ∧ h.seq = seq then { h with due := boundary } else h }
    | .power state boundary => if state > 5 then s else s.updTwin fun t => { t with powerAt := some (state, boundary) }
    | .step amount frame => s.updTime fun t => { t with step := some ⟨amount, none, some frame, 3, false, none⟩ }
    | .switch boundary => s.updTwin fun t => { t with switchAt := some boundary }
    | .camera p gen frame made bus =>
      match (s.pipe p).commits with
      | m :: _ => if m.gen = gen then s.commitDone p (min made m.writes.length) bus frame else s
      | [] => s
    | .segment number last => s.updTime fun t => { t with lastSeal := some (number, last) }
    | .logClear slot => (s.logErase slot).2
    | .session level gen slot first resume => s.forwardedSession level gen slot first resume
    | .close => s.forwardedClose

end Sys2Proof.Machine
end

