-- ==== Sys2Proof/Machine/Frame.lean ====
section
/-!
DEFINITION. The frame tick and the micro-step (R23, R24, R91): what the whole controller does at each, and in which order.
-/
namespace Sys2Proof.Machine

open Sys2Proof

/-- TABLE_LATCH: writes of a table or an advance of a beam that wait for its pause point (R112). -/
def State.tableLatch (s : State) (n : Nat) : State := s.applyTables fun i => i = n

/-- The end of the frame that the tick ends: return frames that have not come, the engine's results (R180, R225). -/
def State.frameEnds (s : State) (t : TS) : State :=
  let heads := List.range s.nBeams
  let s := forEach heads (fun n s => (s.frameMissing n).meltMissing n) s
  let s := s.cnsFrame (t / 2560 - 1) s.tick
  forEach heads (fun n s => s.meltFrame n t) s

/-- R118, R119: the frame of a mode 2 laser: a setpoint, or while it is being identified an IDENT command; the cell of a gated block stands (R33). -/
def State.setpointFrame (s : State) (n : Nat) (t : TS) : State :=
  let b := s.beam n
  if s.rg P.LSR_MODE n ≠ 2 ∨ s.clkState 1 (n / 4) ≠ 2 then s
  else if b.st = 1 ∧ !b.laser.identOk then s.identTick n
  else s.putOwn (.laserFrame n (serialFrame 0 (s.frameMean n t)))

/-- The frame that the tick begins: corrections, setpoints, leases, motion, triggers. -/
def State.frameBegins (s : State) (t : TS) : State :=
  let beams := List.range s.nBeams
  let s := forEach beams (fun n s =>
    (s.takeCorr n).updBeam n fun b => { b with laser := { b.laser with openPrev := b.laser.openFrame } }) s
  let s := s.engineReads
  let s := forEach beams (fun n s => s.headTick n) s
  let s := forEach beams (fun n s => s.setpointFrame n t) s
  let s := (s.warderEvaluate).motTick
  forEach (List.range s.nPipes) (fun p s => s.camFrameTrig p) s

/-- FRAME_TICK at t. The data plane works in READY and EXPOSE; writes, power, twin and steps at every tick. -/
def State.frameTick (s : State) (t : TS) : State :=
  if t % 2560 ≠ 0 ∨ t ≤ s.tick ∨ t ≠ s.now then s
  else
    let runs := s.expRuns
    let s := if runs then s.frameEnds t else s
    let s : State := { s with tick := t, frameNo := t / 2560, frameAt := t }
    let s := s.applyDue
    let s := if runs then s.frameBegins t else s
    ((s.powerTick).twinTick.twinSwitchTick).stepTick

/-- A micro-step begins at t: every 256 ns from the start of the frame on, and in a frame that a step lengthens the tenth is the last
(R24). -/
def State.microDue (s : State) (t : TS) : Bool :=
  s.frameAt ≤ t && (t - s.frameAt) % 256 = 0 && (s.frameAt = s.tick || s.frameStop ≤ t || t < s.frameAt + 2560)

/-- The path time of a micro-step that begins at t: it counts micro-steps, so that a lengthened frame has ten of them too. -/
def State.pathTime (s : State) (t : TS) : TS := if s.frameStop ≤ t then t else s.tick + (t - s.frameAt)

/-- MICRO_STEP_TICK at t. -/
def State.microTick (s : State) (t : TS) : State :=
  if !s.microDue t ∨ t ≤ s.micro ∨ t ≠ s.now then s
  else
    let s : State := { s with micro := t }
    if !s.expRuns then s
    else
      let p := s.pathTime t
      let beams := List.range s.nBeams
      let s := s.applyTables fun _ => true
      -- R157: every beam reads the map before any deposit of this step is written
      let s := forEach beams (fun n s => s.microFront n p) s
      forEach beams (fun n s =>
        let s := s.microLaser n p
        if p % 2560 ≠ 0 then s else (s.setRgI P.BEAM_POS_X n (s.beam n).px).setRgI P.BEAM_POS_Y n (s.beam n).py) s

end Sys2Proof.Machine
end

