-- ==== Sys2Proof/Machine/Events.lean ====
section
/-!
DEFINITION. Events of the pins and of single units that no other file gives: the laser enable path and the laser pins (R120-R126),
arming and parking, the inputs that other units select, VMOT, step/direction and lamp events, links, and the watchdog.
-/
namespace Sys2Proof.Machine

open Sys2Proof

/-! ## Laser enable (R122, R124) -/

/-- Every gate goes low through the unclocked path. A beam that is STOPPING is not interrupted: its gate stays low, and its setpoint
is 0 from the next micro-step on (R115, R122). -/
def State.gatesLow (s : State) : State :=
  forEach (List.range s.nBeams) (fun n s =>
    let s := s.forceGateLow n
    if (s.beam n).st = 4 then s.updBeam n fun b => { b with gates := [] } else s) s

/-- A SAFETY fault ends once both enables have been low together and have then both gone high within 10 ms of each other. -/
def State.enableCycle (s : State) (t : TS) : State :=
  s.updPower fun p =>
    if !p.laserEnA && !p.laserEnB then { p with enLow := true, enHigh := none }
    else if p.laserEnA && p.laserEnB then
      let healed : Bool := p.enLow && t ≤ p.enHigh.getD t + 10000000
      { p with safety := p.safety && !healed, enLow := false, enHigh := none }
    else if p.enLow && p.enHigh.isNone then { p with enHigh := some t }
    else p

/-- LASER_EN_CHANGE. -/
def State.laserEn (s : State) (a b : Bool) (t : TS) : State :=
  let s := s.updPower fun p => { p with laserEnA := a, laserEnB := b }
  let s := ((s.enableCycle t).docLevel 21 a).docLevel 22 b
  if a && b then s else s.gatesLow

/-- The same while the clocks stand (R475): AON latches the edges. -/
def State.laserEnStopped (s : State) (a b : Bool) : State :=
  let wasA := s.power.laserEnA
  let wasB := s.power.laserEnB
  let s := if a = wasA then s else s.aonEdge 21 a
  let s := if b = wasB then s else if s.clockless then s.aonEdge 22 b else (s.setPin 22 b).docLevel 22 b
  s.enableCycle (s.aonTime s.power.aonTicks)

/-- SAFETY_FAULT: the enables have differed for more than 10 ms. -/
def State.safetyFault (s : State) : State :=
  match s.power.enDiff with
  | none => s
  | some d =>
    if s.power.safety ∨ s.now ≤ d + 10000000 then s
    else
      let s := (s.updPower fun p => { p with safety := true }).gatesLow
      s.record (s.srcPath 0 4 1) 0x100D
        (le 1 (b2n s.power.laserEnA) ++ le 1 (b2n s.power.laserEnB) ++ zeros 2 ++ le 4 ((s.now - d) / 1000000) ++ zeros 16)

/-! ## Laser pins and arming (R119, R120, R126, R231) -/

/-- LASER_READY_CHANGE: the pin; the next micro-step samples it (R120). -/
def State.laserReady (s : State) (n : Nat) (level : Bool) : State :=
  s.updBeam n fun b => { b with laser := { b.laser with readyIn := level } }

/-- LASER_ALARM: the pin; the next micro-step samples it (R120). -/
def State.laserAlarm (s : State) (n : Nat) (level : Bool) : State :=
  s.updBeam n fun b => { b with laser := { b.laser with alarmIn := level } }

/-- ARMING_COMPLETE: the head link is ready, READY_IN is active if required, a mode 2 laser is identified, the block runs. -/
def State.armComplete (s : State) (n : Nat) : State :=
  let b := s.beam n
  let ready := s.headReady n && s.beamAwake n && (s.rg P.LSR_READY_REQ n = 0 || s.readyActive n) &&
    (s.rg P.LSR_MODE n ≠ 2 || b.laser.identOk)
  if b.st ≠ 1 ∨ !ready then s
  else
    let s := match b.arming with
      | some c => s.decide c.k rOK s.now (le 1 2 ++ zeros 3)
      | none => s
    ((s.updBeam n fun b => { b with arming := none }).beamTo n 2 0).ctl n

/-- ARM_TIMEOUT: ARM_TMO has passed in ARMING. -/
def State.armTimeout (s : State) (n : Nat) : State :=
  if (s.beam n).st = 1 ∧ s.now ≥ (s.beam n).armAt + s.rg P.BEAM_ARM_TMO n * 1000000 then s.armFail n true else s

/-- PARK_TIMEOUT: a beam STOPPING while its port is in FAULT reaches OFF at PARK_TMO (R231). -/
def State.parkTimeout (s : State) (n : Nat) : State :=
  match (s.beam n).shut with
  | some h =>
    if (s.beam n).st = 4 ∧ s.portFaulted n ∧ s.now ≥ h.began + s.rg P.HP_PARK_TMO n * 1000000 then
      (s.headLink n (s.axisSrc n) (s.head n).state (s.head n).state 3).reachOff n
    else s
  | none => s

/-! ## Rasters and deposits (R145, R155) -/

/-- LINE_SYNC_EDGE: the beams whose line sync is this input and this polarity. -/
def State.lineSync (s : State) (input : Nat) (rising : Bool) (t : TS) : State :=
  forEach (List.range s.nBeams) (fun n s =>
    if s.rg P.BEAM_RAS_SRC n = 1 ∧ s.rg P.BEAM_RAS_SYNC_IN n = input ∧ bit (s.rg P.BEAM_RAS_SYNC_EDGE n) 0 = !rising then s.rasEdge n t
    else s) s

/-- GALLERY_DEPOSIT: the gate has closed, or 40 micro-steps have passed since the first deposit. -/
def State.depositDue (s : State) (n : Nat) : State :=
  match (s.beam n).dep with
  | some d => if d.shut || !(s.beam n).laser.gate || s.now ≥ d.since + 10240 then s.galFlush n else s
  | none => s

/-- CNS_OVERRUN: the slots that an internal retry makes late in this frame (R182). -/
def State.slotsLate (s : State) (slots : List Nat) : State := s.updCns fun c => { c with late := slots }

/-! ## Motion, VMOT and the lamp (R277, R284, R285, R329, R487) -/

/-- SWITCH_EDGE, with the camera triggers that follow the input. -/
def State.switchInput (s : State) (i : Nat) (high : Bool) (t : TS) : State :=
  let s := (s.switchEdge i high t).switchAccept i
  if high then s.camFollow (18 + i) 8 t else s

/-- FBK_LATCH_TRIGGER: an edge on FBKn_TRIG. -/
def State.latchInput (s : State) (n : Nat) (rising : Bool) (t : TS) : State :=
  let s := s.fbkInput n [(6, rising)] t
  if rising then s.camFollow 1 n t else s

/-- STP_OPEN_LOAD sets the open-load bit of a coil that is driven. -/
def State.openLoad (s : State) (a : Nat) (coilB : Bool) : State :=
  if !(s.stp a).on ∨ !s.drives then s
  else s.updStp a fun q => if coilB then { q with openB := true } else { q with openA := true }

/-- VMOT_UNDERVOLTAGE: below 8.0 V every enabled stage enters FAULT. -/
def State.vmotFall (s : State) (mv : Nat) : State :=
  let s := s.updMot fun m => { m with vmot := mv }
  if mv ≥ 8000 then s
  else forEach (List.range 6) (fun a s => s.stageFault a true) (s.updMot fun m => { m with vmotLow := true })

/-- VMOT_RESTORE: above 8.4 V the condition ends. -/
def State.vmotRise (s : State) (mv : Nat) : State :=
  s.updMot fun m => { m with vmot := mv, vmotLow := m.vmotLow && mv ≤ 8400 }

/-- SD_FAULT_INPUT: the level of SDb_FLT; becoming active it acts as FLT_ACT says. -/
def State.sdInput (s : State) (b : Nat) (level : Bool) : State :=
  let was := s.sdFlt b
  let s := s.updSd b fun x => { x with flt := level }
  if s.sdFlt b && !was then s.sdFault b else s

/-- STROBE_WINDOW_END: outside the windows the channels are off, or show their steady duties with STR_IDLE 1. -/
def State.windowEnd (s : State) : State :=
  match s.lamp.windows.getLast? with
  | some w =>
    if s.lamp.st = 3 ∧ w.stop ≤ s.now ∧ s.drives ∧ s.expRuns then
      s.put (.lampDuties w.stop (if s.rg P.LAMP_STR_IDLE 0 = 1 then s.lamp.eff else s.lamp.eff.map fun _ => 0))
    else s
  | none => s

/-! ## Vision and the store -/

/-- A CSI-2 event of a port, for every pipeline that takes its channel. -/
def State.onPipes (s : State) (port vc : Nat) (f : Nat → State → State) : State :=
  let s := s.phySync port
  forEach (s.pipesOn port vc) f s

/-- CAM_TRIGGER of a periodic output. -/
def State.camPeriod (s : State) (p : Nat) : State :=
  if s.camPeriodic p s.now && s.expRuns then s.camActivate p s.now else s

/-- I2C_TRANSFER_DONE: buses 0-7 of the cameras, 8 of the lamp. -/
def State.i2cDone (s : State) (bus result : Nat) (data : List Byte) : State :=
  if bus = 8 then s.lampXferDone result data else s.camXferDone bus result data

/-- LOAN_RETURN. -/
def State.loanBack (s : State) (acc : Nat) : State :=
  match s.acc? acc with
  | some a => if a.loans > 0 then s.returnLoan acc else s
  | none => s

/-! ## Input pins (R373, R440, R442, R463) -/

/-- EVT_IN_EDGE: Docent, the latches, the camera triggers. -/
def State.evtEdge (s : State) (i : Nat) (rising : Bool) (t : TS) : State :=
  let s := ((s.setPin (1 + i) rising).docLevel (1 + i) rising).latchSource (2 + i) rising t
  if rising then s.camFollow (2 + i) 8 t else s

/-- ILK_CHANGE. The permit of R440 is tested at the next tick. -/
def State.ilkEdge (s : State) (k : Nat) (level : Bool) : State :=
  let s := s.setPin (17 + k) level
  s.docLevel (17 + k) (s.ilkLevel k)

/-- PERST_EDGE. -/
def State.perstEdge (s : State) (rising : Bool) : State := (s.setPin 26 rising).docLevel 26 rising

/-- An edge that AON latches while the clocks stand; a wake-enabled one ends STANDBY (R442, R475). -/
def State.aonInput (s : State) (id : Nat) (rising : Bool) : State :=
  let s := s.aonEdge id rising
  s.finish

/-! ## Links (R62, R65, R389) -/

/-- PCIE_LINK_CHANGE: the generation and the width the link has trained to (R58), none where it is down. -/
def State.pcieLink (s : State) (link : Option (Nat × Nat)) : State :=
  let (gen, width) := link.getD (0, 0)
  s.updHost fun h => { h with pcieUp := link.isSome, pcieGen := gen, pcieWidth := width }

/-- ETH_LINK_CHANGE, with the speed the link has. -/
def State.ethLink (s : State) (port : Nat) (up : Bool) (speed : Nat) : State :=
  s.updHost fun h => { h with
    ethUp := h.ethUp.set port up
    ethSpeed := if up then h.ethSpeed.set port speed else h.ethSpeed }

/-- ARP_ICMP_REQUEST: a request for the port's own address is answered. -/
def State.netRequest (s : State) (port : Nat) (req : NetReq) : State :=
  let own := if s.power.recovery && port = 2 then 0xC0A8003C else s.rg P.ETH_IPV4 port
  let open_ := own ≠ 0 && (!s.power.recovery || port = 2)
  match req with
  | .arp mac ip target => if open_ && target = own then s.macPlain port (.arpReply port mac ip own) 42 else s
  | .echo ip target body => if open_ && target = own then s.macPlain port (.echoReply port ip body) (38 + body.length) else s

/-! ## The Curator watchdog (R403, R424) -/

/-- CURATOR_WATCHDOG: Fatal. No record of the origin is described, so its code and sequence are free. -/
def State.watchdog (s : State) : State :=
  let (code, s) := s.draw
  let (seq, s) := s.draw
  s.blockEscalate s.curatorSrc (code % 65536) (seq % 2 ^ 32) clsFatal

end Sys2Proof.Machine
end

