-- ==== Sys2Proof/Machine/Exec.lean ====
section
/-!
DEFINITION. How exec answers: a host command in its packet, and an event of a unit that may not exist in this grade.
-/
namespace Sys2Proof.Machine

open Sys2Proof

/-- An event of a unit: a next state, or the fault that names a unit that does not exist. -/
def State.onUnit (_ : State) (there : Bool) (name : String) (after : State) : Host.Outcome State Fault Refusal :=
  if there then .next after else .fault (.noSuchUnit name)

/-- A command of opcode op that arrives in a packet. -/
def State.hostCommand (s : State) (op : Nat) (p : Packet) : Host.Outcome State Fault Refusal :=
  s.onUnit p.ep.known "Ethernet port" (s.event p.stamp fun s => s.packet op p)

end Sys2Proof.Machine
end

