-- ==== Sys2Proof/Machine/ExecConservator.lean ====
section
/-!
DEFINITION. Commands and events of the Conservator (R172-R208): what exec answers for each.
-/
namespace Sys2Proof.Machine

open Sys2Proof

/-- CNS_BIND (R178). -/
def execCnsBind (p : Packet) (s : State) : Host.Outcome State Fault Refusal := s.hostCommand 0x1300 p

/-- CNS_MODE (R195). -/
def execCnsMode (p : Packet) (s : State) : Host.Outcome State Fault Refusal := s.hostCommand 0x1301 p

/-- CNS_ORDER (R179). -/
def execCnsOrder (p : Packet) (s : State) : Host.Outcome State Fault Refusal := s.hostCommand 0x1302 p

/-- CNS_STATUS (R204). -/
def execCnsStatus (p : Packet) (s : State) : Host.Outcome State Fault Refusal := s.hostCommand 0x1303 p

/-- CNS_TRACE (R206). -/
def execCnsTrace (p : Packet) (s : State) : Host.Outcome State Fault Refusal := s.hostCommand 0x1304 p

/-- CNS_TRACE_END (R206). -/
def execCnsTraceEnd (t : TS) (slot : Nat) (s : State) : Host.Outcome State Fault Refusal :=
  s.onUnit (slot < 128) "Conservator slot" (s.event t fun s => s.traceEnd false)

/-- CNS_OVERRUN (R182). -/
def execCnsOverrun (t : TS) (slots : List Nat) (s : State) : Host.Outcome State Fault Refusal :=
  s.onUnit (slots.all (· < 128)) "Conservator slot" (s.event t fun s => s.slotsLate slots)

/-- CNS_IMPLAUSIBLE (R200). -/
def execCnsImplausible (t : TS) (slot : Nat) (s : State) : Host.Outcome State Fault Refusal :=
  s.onUnit (slot < 128) "Conservator slot" (s.event t fun s => s.implausible slot)

/-- MP_GAP_RESET (R190). -/
def execMpGapReset (t : TS) (slot : Nat) (s : State) : Host.Outcome State Fault Refusal :=
  s.onUnit (slot < 128) "Conservator slot" (s.event t fun s => s.gapReset slot)

/-- HY_SWITCH (R192). -/
def execHySwitch (t : TS) (slot : Nat) (s : State) : Host.Outcome State Fault Refusal :=
  s.onUnit (slot < 128) "Conservator slot" (s.event t fun s => s.hySwitch slot)

/-- HY_IMPLAUSIBLE (R193). -/
def execHyImplausible (t : TS) (slot : Nat) (s : State) : Host.Outcome State Fault Refusal :=
  s.onUnit (slot < 128) "Conservator slot" (s.event t fun s => s.hyImplausible slot)

end Sys2Proof.Machine
end

