-- ==== Sys2Proof/Machine/ExecExposure.lean ====
section
/-!
DEFINITION. Commands and events of the beam cells, the laser ports and the ticks (R90-R134): what exec answers for each.
-/
namespace Sys2Proof.Machine

open Sys2Proof

/-- BEAM_ENABLE (R127). -/
def execBeamEnable (p : Packet) (s : State) : Host.Outcome State Fault Refusal := s.hostCommand 0x1000 p

/-- BEAM_DISABLE (R128). -/
def execBeamDisable (p : Packet) (s : State) : Host.Outcome State Fault Refusal := s.hostCommand 0x1001 p

/-- EXPOSE_LIST (R95). -/
def execExposeList (p : Packet) (s : State) : Host.Outcome State Fault Refusal := s.hostCommand 0x1002 p

/-- EXPOSE_INLINE (R95). -/
def execExposeInline (p : Packet) (s : State) : Host.Outcome State Fault Refusal := s.hostCommand 0x1003 p

/-- CATALOGUE_MARK (R96). -/
def execCatalogueMark (p : Packet) (s : State) : Host.Outcome State Fault Refusal := s.hostCommand 0x1004 p

/-- CATALOGUE_MARK_REACHED (R96). -/
def execCatalogueMarkReached (t : TS) (beam : Nat) (s : State) : Host.Outcome State Fault Refusal :=
  s.onUnit (beam < s.nBeams) "beam" (s.event t fun s => s.markReached beam)

/-- ARMING_COMPLETE (R126). -/
def execArmingComplete (t : TS) (beam : Nat) (s : State) : Host.Outcome State Fault Refusal :=
  s.onUnit (beam < s.nBeams) "beam" (s.event t fun s => s.armComplete beam)

/-- ARM_TIMEOUT (R126). -/
def execArmTimeout (t : TS) (beam : Nat) (s : State) : Host.Outcome State Fault Refusal :=
  s.onUnit (beam < s.nBeams) "beam" (s.event t fun s => s.armTimeout beam)

/-- LASER_IDENT_REPLY (R119). -/
def execLaserIdentReply (t : TS) (beam : Nat) (frame : Option Nat) (s : State) : Host.Outcome State Fault Refusal :=
  s.onUnit (beam < s.nBeams) "beam" (s.event t fun s => s.identReply beam frame)

/-- EXPOSE_BEGIN (R96). -/
def execExposeBegin (t : TS) (beam : Nat) (s : State) : Host.Outcome State Fault Refusal :=
  s.onUnit (beam < s.nBeams) "beam" (s.event t fun s => s.exposeBegin beam)

/-- LIST_END (R133). -/
def execListEnd (t : TS) (beam : Nat) (s : State) : Host.Outcome State Fault Refusal :=
  s.onUnit (beam < s.nBeams) "beam" (s.event t fun s => s.endList beam)

/-- VECTOR_FETCH (R91). -/
def execVectorFetch (t : TS) (beam : Nat) (s : State) : Host.Outcome State Fault Refusal :=
  s.onUnit (beam < s.nBeams) "beam" (s.event t fun s => s.vectorFetch beam)

/-- VECTOR_PLAN (R91). -/
def execVectorPlan (t : TS) (beam : Nat) (s : State) : Host.Outcome State Fault Refusal :=
  s.onUnit (beam < s.nBeams) "beam" (s.event t fun s => s.vectorPlan beam)

/-- TABLE_LATCH (R112). -/
def execTableLatch (t : TS) (beam : Nat) (s : State) : Host.Outcome State Fault Refusal :=
  s.onUnit (beam < s.nBeams) "beam" (s.event t fun s => s.tableLatch beam)

/-- MICRO_STEP_TICK (R91). -/
def execMicroStepTick (t : TS) (s : State) : Host.Outcome State Fault Refusal := .next (s.event t fun s => s.microTick t)

/-- FRAME_TICK (R24). -/
def execFrameTick (t : TS) (s : State) : Host.Outcome State Fault Refusal := .next (s.event t fun s => s.frameTick t)

/-- LASER_EN_CHANGE (R122). -/
def execLaserEnChange (t : TS) (a : Bool) (b : Bool) (s : State) : Host.Outcome State Fault Refusal := .next (s.eventWhen t (fun s => s.laserEn a b t) fun s => (s.laserEnStopped a b).finish)

/-- SAFETY_FAULT (R124). -/
def execSafetyFault (t : TS) (s : State) : Host.Outcome State Fault Refusal := .next (s.event t fun s => s.safetyFault)

/-- LASER_READY_CHANGE (R120). -/
def execLaserReadyChange (t : TS) (beam : Nat) (level : Bool) (s : State) : Host.Outcome State Fault Refusal :=
  s.onUnit (beam < s.nBeams) "beam" (s.eventWhen t (fun s => s.laserReady beam level) fun s => s.laserReady beam level)

/-- LASER_ALARM (R120). -/
def execLaserAlarm (t : TS) (beam : Nat) (level : Bool) (s : State) : Host.Outcome State Fault Refusal :=
  s.onUnit (beam < s.nBeams) "beam" (s.eventWhen t (fun s => s.laserAlarm beam level) fun s => s.laserAlarm beam level)

/-- BEAM_PARK_REACHED (R126). -/
def execBeamParkReached (t : TS) (beam : Nat) (s : State) : Host.Outcome State Fault Refusal :=
  s.onUnit (beam < s.nBeams) "beam" (s.event t fun s => s.parkReached beam)

/-- LASER_SYNC_EDGE (R117). -/
def execLaserSyncEdge (t : TS) (beam : Nat) (s : State) : Host.Outcome State Fault Refusal :=
  s.onUnit (beam < s.nBeams) "beam" (s.event t fun s => s.syncEdge beam)

end Sys2Proof.Machine
end

