-- ==== Sys2Proof/Machine/ExecHead.lean ====
section
/-!
DEFINITION. Commands and events of the head and XY2-100 ports (R209-R250): what exec answers for each.
-/
namespace Sys2Proof.Machine

open Sys2Proof

/-- PARK_TIMEOUT (R231). -/
def execParkTimeout (t : TS) (beam : Nat) (s : State) : Host.Outcome State Fault Refusal :=
  s.onUnit (beam < s.nBeams) "beam" (s.event t fun s => s.parkTimeout beam)

/-- HEAD_RETURN_FRAME (R223). -/
def execHeadReturnFrame (t : TS) (head : Nat) (sof : BitVec 10) (codes : List (BitVec 10)) (s : State) : Host.Outcome State Fault Refusal :=
  s.onUnit (head < s.nBeams) "head port" (s.event t fun s => s.returnFrame head ((sof :: codes).map (·.toNat)))

/-- HEAD_FRAME_MISSING (R225). -/
def execHeadFrameMissing (t : TS) (head : Nat) (s : State) : Host.Outcome State Fault Refusal :=
  s.onUnit (head < s.nBeams) "head port" (s.event t fun s => s.frameMissing head)

/-- HEAD_LINK_TIMEOUT (R222). -/
def execHeadLinkTimeout (t : TS) (head : Nat) (s : State) : Host.Outcome State Fault Refusal :=
  s.onUnit (head < s.nBeams) "head port" (s.event t fun s => s.linkTimeout head)

/-- HEAD_LOCK_LOST (R222). -/
def execHeadLockLost (t : TS) (head : Nat) (s : State) : Host.Outcome State Fault Refusal :=
  s.onUnit (head < s.nBeams) "head port" (s.event t fun s => s.lockLost head)

/-- HP_FAULT_CLEAR (R229). -/
def execHpFaultClear (p : Packet) (s : State) : Host.Outcome State Fault Refusal := s.hostCommand 0x0101 p

/-- HP_GEN_WRITE (R210). -/
def execHpGenWrite (p : Packet) (s : State) : Host.Outcome State Fault Refusal := s.hostCommand 0x0101 p

/-- XY2_ASSIGN (R244). -/
def execXy2Assign (p : Packet) (s : State) : Host.Outcome State Fault Refusal := s.hostCommand 0x0101 p

/-- XY2_FRAME (R245). -/
def execXy2Frame (t : TS) (port : Nat) (s : State) : Host.Outcome State Fault Refusal :=
  s.onUnit (port < 4) "XY2-100 port" (s.event t fun s => s.xy2Frame port)

/-- XY2_STATUS_FRAME (R247). -/
def execXy2StatusFrame (t : TS) (port : Nat) (bits : Nat) (s : State) : Host.Outcome State Fault Refusal :=
  s.onUnit (port < 4) "XY2-100 port" (s.event t fun s => s.xy2Status port bits)

end Sys2Proof.Machine
end

