-- ==== Sys2Proof/Machine/ExecHost.lean ====
section
/-!
DEFINITION. Host commands and events of the SHP transports, sessions and rings (R38-R89): what exec answers for each.
-/
namespace Sys2Proof.Machine

open Sys2Proof

/-- NOP (R85). -/
def execNop (p : Packet) (s : State) : Host.Outcome State Fault Refusal := s.hostCommand 0x0000 p

/-- HEARTBEAT (R85). -/
def execHeartbeat (p : Packet) (s : State) : Host.Outcome State Fault Refusal := s.hostCommand 0x0001 p

/-- SESSION_CHALLENGE (R69). -/
def execSessionChallenge (p : Packet) (s : State) : Host.Outcome State Fault Refusal := s.hostCommand 0x0002 p

/-- SESSION_OPEN (R70). -/
def execSessionOpen (p : Packet) (s : State) : Host.Outcome State Fault Refusal := s.hostCommand 0x0003 p

/-- SESSION_CLOSE (R71). -/
def execSessionClose (p : Packet) (s : State) : Host.Outcome State Fault Refusal := s.hostCommand 0x0004 p

/-- SESSION_LOCK (R72). -/
def execSessionLock (p : Packet) (s : State) : Host.Outcome State Fault Refusal := s.hostCommand 0x0005 p

/-- REPLY_REREAD (R85). -/
def execReplyReread (p : Packet) (s : State) : Host.Outcome State Fault Refusal := s.hostCommand 0x0006 p

/-- STREAM_FLUSH (R86). -/
def execStreamFlush (p : Packet) (s : State) : Host.Outcome State Fault Refusal := s.hostCommand 0x0007 p

/-- FENCE (R83). -/
def execFence (p : Packet) (s : State) : Host.Outcome State Fault Refusal := s.hostCommand 0x0008 p

/-- FENCE_COMPLETE (R83). -/
def execFenceComplete (t : TS) (stream : Nat) (s : State) : Host.Outcome State Fault Refusal :=
  s.onUnit (stream < 32) "stream" (s.event t fun s => s.fenceComplete stream)

/-- DEVICE_INFO (R85). -/
def execDeviceInfo (p : Packet) (s : State) : Host.Outcome State Fault Refusal := s.hostCommand 0x0009 p

/-- PARAM_READ (R76). -/
def execParamRead (p : Packet) (s : State) : Host.Outcome State Fault Refusal := s.hostCommand 0x0100 p

/-- PARAM_WRITE (R506). -/
def execParamWrite (p : Packet) (s : State) : Host.Outcome State Fault Refusal := s.hostCommand 0x0101 p

/-- PARAM_READ_BLOCK (R77). -/
def execParamReadBlock (p : Packet) (s : State) : Host.Outcome State Fault Refusal := s.hostCommand 0x0102 p

/-- PARAM_WRITE_BLOCK (R77). -/
def execParamWriteBlock (p : Packet) (s : State) : Host.Outcome State Fault Refusal := s.hostCommand 0x0103 p

/-- PACKET_DISCARD (R42). -/
def execPacketDiscard (t : TS) (_cause : Discard) (s : State) : Host.Outcome State Fault Refusal := .next (s.event t fun s => s.discard)

/-- SHP1_FRAME (R89). -/
def execShp1Frame (f : Shp1Frame) (s : State) : Host.Outcome State Fault Refusal :=
  s.onUnit f.ep.known "Ethernet port" (s.event f.stamp fun s => s.shp1 f)

/-- SQ_TAIL (R60). -/
def execSqTail (t : TS) (stream : Nat) (value : Nat) (s : State) : Host.Outcome State Fault Refusal :=
  s.onUnit (stream < 32) "submission ring" (s.event t fun s => s.sqTail stream value)

/-- RQ_HEAD (R62). -/
def execRqHead (t : TS) (ring : Nat) (value : Nat) (s : State) : Host.Outcome State Fault Refusal :=
  s.onUnit (ring < 4) "reply ring" (s.event t fun s => s.rqHead ring value)

/-- SQ_ENABLE (R59). -/
def execSqEnable (t : TS) (stream : Nat) (value : Nat) (s : State) : Host.Outcome State Fault Refusal :=
  s.onUnit (stream < 32) "submission ring" (s.event t fun s => s.sqEnable stream value)

/-- RQ_ENABLE (R59). -/
def execRqEnable (t : TS) (ring : Nat) (value : Nat) (s : State) : Host.Outcome State Fault Refusal :=
  s.onUnit (ring < 4) "reply ring" (s.event t fun s => s.rqEnable ring value)

/-- BAR0_REGISTER_WRITE (R59). -/
def execBar0RegisterWrite (t : TS) (offset : Nat) (value : Nat) (s : State) : Host.Outcome State Fault Refusal :=
  s.onUnit (offset < 65536) "BAR0 offset" (s.event t fun s => s.bar0Write offset value)

/-- DESCRIPTOR_FETCH (R60). -/
def execDescriptorFetch (t : TS) (stream : Nat) (got : Fetched) (s : State) : Host.Outcome State Fault Refusal :=
  s.onUnit (stream < 32) "submission ring" (s.event t fun s => s.descriptorFetch stream got)

/-- REPLY_BATCH_TIMEOUT (R63). -/
def execReplyBatchTimeout (t : TS) (stream : Nat) (s : State) : Host.Outcome State Fault Refusal :=
  s.onUnit (stream < 32) "stream" (s.event t id)

/-- PCIE_LINK_CHANGE (R62). -/
def execPcieLinkChange (t : TS) (link : Option (Nat × Nat)) (s : State) : Host.Outcome State Fault Refusal :=
  .next (s.event t fun s => s.pcieLink link)

/-- SESSION_TIMEOUT (R71). -/
def execSessionTimeout (t : TS) (inst : Nat) (s : State) : Host.Outcome State Fault Refusal :=
  s.onUnit (inst < 8) "session" (s.event t fun s => s.sessionTimeout inst)

/-- NONCE_EXPIRE (R69). -/
def execNonceExpire (t : TS) (ep : Endpoint) (s : State) : Host.Outcome State Fault Refusal :=
  s.onUnit (ep.known) "Ethernet port" (s.event t fun s => s.nonceExpire ep)

/-- ARP_ICMP_REQUEST (R65). -/
def execArpIcmpRequest (t : TS) (port : Nat) (req : NetReq) (s : State) : Host.Outcome State Fault Refusal :=
  s.onUnit (port < 3) "Ethernet port" (s.event t fun s => s.netRequest port req)

end Sys2Proof.Machine
end

