-- ==== Sys2Proof/Machine/ExecManage.lean ====
section
/-!
DEFINITION. Commands and events of power, housekeeping, machine I/O and Docent (R437-R491): what exec answers for each.
-/
namespace Sys2Proof.Machine

open Sys2Proof

/-- POWER_REQUEST (R439). -/
def execPowerRequest (p : Packet) (s : State) : Host.Outcome State Fault Refusal := s.hostCommand 0x000A p

/-- DOCENT_CLAIM (R470). -/
def execDocentClaim (p : Packet) (s : State) : Host.Outcome State Fault Refusal := s.hostCommand 0x7F00 p

/-- DOCENT_COMPLETE (R472). -/
def execDocentComplete (p : Packet) (s : State) : Host.Outcome State Fault Refusal := s.hostCommand 0x7F01 p

/-- DOCENT_FW_INTERRUPT (R474). -/
def execDocentFwInterrupt (t : TS) (act : FwAct) (s : State) : Host.Outcome State Fault Refusal := .next (s.event t fun s => s.docFw act)

/-- DOCENT_SRC_WRITE (R466). -/
def execDocentSrcWrite (p : Packet) (s : State) : Host.Outcome State Fault Refusal := s.hostCommand 0x0101 p

/-- DOCENT_SOFT (R465). -/
def execDocentSoft (p : Packet) (s : State) : Host.Outcome State Fault Refusal := s.hostCommand 0x0101 p

/-- DOCENT_DISABLE_WRITE (R469). -/
def execDocentDisableWrite (p : Packet) (s : State) : Host.Outcome State Fault Refusal := s.hostCommand 0x0101 p

/-- ILK_CHANGE (R440). -/
def execIlkChange (t : TS) (input : Nat) (level : Bool) (s : State) : Host.Outcome State Fault Refusal :=
  s.onUnit (input < 4) "ILK input" (s.eventWhen t (fun s => s.ilkEdge input level) fun s => s.aonInput (17 + input) level)

/-- GPO_WRITE (R463). -/
def execGpoWrite (p : Packet) (s : State) : Host.Outcome State Fault Refusal := s.hostCommand 0x0101 p

/-- MGT_ROUND (R457). -/
def execMgtRound (t : TS) (raw : List (Option Nat)) (light : List (Nat × Nat)) (s : State) : Host.Outcome State Fault Refusal := .next (s.event t fun s => s.mgtRound raw light)

/-- ANALOG_TRIP (R462). -/
def execAnalogTrip (t : TS) (s : State) : Host.Outcome State Fault Refusal := .next (s.eventWhen t (fun s => s.analogTrip) fun s => s.analogTrip)

/-- STANDBY_ENTER (R442). -/
def execStandbyEnter (t : TS) (s : State) : Host.Outcome State Fault Refusal := .next (s.event t fun s => s.standbyEnter)

/-- STANDBY_ROUND (R443). -/
def execStandbyRound (t : TS) (raw : List (Option Nat)) (s : State) : Host.Outcome State Fault Refusal := .next (s.eventWhen t id fun s => (s.standbyRound raw).finish)

/-- AON_EDGE_LATCH (R475). -/
def execAonEdgeLatch (t : TS) (source : Nat) (rising : Bool) (s : State) : Host.Outcome State Fault Refusal :=
  s.onUnit (1 ≤ source ∧ source ≤ 26) "AON source" (s.eventWhen t id fun s => s.aonInput source rising)

/-- WAKE_TIMER (R442). -/
def execWakeTimer (t : TS) (s : State) : Host.Outcome State Fault Refusal := .next (s.eventWhen t id fun s => s.wakeTimer.finish)

/-- VIN_RISE (R444). -/
def execVinRise (t : TS) (boot : Boot) (s : State) : Host.Outcome State Fault Refusal :=
  .next (if s.power.state = 0 then ((State.vinRise { s with out := [] } t boot).finish).gatePath else s.event t id)

/-- VIN_LOSS (R448). -/
def execVinLoss (t : TS) (s : State) : Host.Outcome State Fault Refusal := .next (s.eventWhen t (fun s => s.vinLoss) fun s => s.vinLoss)

/-- RESET_ASSERT (R447). -/
def execResetAssert (t : TS) (s : State) : Host.Outcome State Fault Refusal := .next (s.eventWhen t (fun s => s.resetAssert) fun s => s.resetAssert)

/-- RESET_RELEASE (R447). -/
def execResetRelease (t : TS) (boot : Boot) (s : State) : Host.Outcome State Fault Refusal := .next (s.eventWhen t id fun s => (s.resetRelease boot).finish)

/-- REF_LOSS (R491). -/
def execRefLoss (t : TS) (backup : Bool) (s : State) : Host.Outcome State Fault Refusal := .next (s.event t fun s => s.refLoss backup)

/-- BLOCK_GATE (R33). -/
def execBlockGate (t : TS) (region : Nat) (block : Nat) (s : State) : Host.Outcome State Fault Refusal :=
  s.onUnit (gateable region block) "gateable block" (s.event t fun s => s.blockGate region block)

/-- BLOCK_UNGATE (R34). -/
def execBlockUngate (t : TS) (region : Nat) (block : Nat) (s : State) : Host.Outcome State Fault Refusal :=
  s.onUnit (gateable region block) "gateable block" (s.event t fun s => s.blockUngate region block)

/-- PRESET_SAVE (R78). -/
def execPresetSave (p : Packet) (s : State) : Host.Outcome State Fault Refusal := s.hostCommand 0x0101 p

/-- PRESET_FACTORY (R78). -/
def execPresetFactory (p : Packet) (s : State) : Host.Outcome State Fault Refusal := s.hostCommand 0x0101 p

/-- FW_LOAD (R452). -/
def execFwLoad (p : Packet) (s : State) : Host.Outcome State Fault Refusal := s.hostCommand 0x0101 p

/-- CAL_ENTRY_WRITE (R454). -/
def execCalEntryWrite (p : Packet) (s : State) : Host.Outcome State Fault Refusal := s.hostCommand 0x0101 p

/-- CAL_EXPORT (R455). -/
def execCalExport (p : Packet) (s : State) : Host.Outcome State Fault Refusal := s.hostCommand 0x0101 p

/-- VMOT_RESTORE (R487). -/
def execVmotRestore (t : TS) (mv : Nat) (s : State) : Host.Outcome State Fault Refusal := .next (s.event t fun s => s.vmotRise mv)

/-- PERST_EDGE (R442). -/
def execPerstEdge (t : TS) (rising : Bool) (s : State) : Host.Outcome State Fault Refusal := .next (s.eventWhen t (fun s => s.perstEdge rising) fun s => s.aonInput 26 rising)

/-- FW_LOAD_DONE (R452). -/
def execFwLoadDone (t : TS) (s : State) : Host.Outcome State Fault Refusal := .next (s.event t fun s => s.fwLoadDone)

/-- POWER_STATE_REACHED (R439). -/
def execPowerStateReached (t : TS) (s : State) : Host.Outcome State Fault Refusal := .next (s.event t fun s => s.powerReached)

end Sys2Proof.Machine
end

