-- ==== Sys2Proof/Machine/ExecMotion.lean ====
section
/-!
DEFINITION. Commands and events of the motion region and the lamp (R251-R291, R321-R333): what exec answers for each.
-/
namespace Sys2Proof.Machine

open Sys2Proof

/-- PRF_MOVE (R274). -/
def execPrfMove (p : Packet) (s : State) : Host.Outcome State Fault Refusal := s.hostCommand 0x2000 p

/-- PRF_CHANGE (R276). -/
def execPrfChange (p : Packet) (s : State) : Host.Outcome State Fault Refusal := s.hostCommand 0x2001 p

/-- PRF_STOP (R289). -/
def execPrfStop (p : Packet) (s : State) : Host.Outcome State Fault Refusal := s.hostCommand 0x2002 p

/-- PRF_HOME (R279). -/
def execPrfHome (p : Packet) (s : State) : Host.Outcome State Fault Refusal := s.hostCommand 0x2003 p

/-- PRF_SET_POS (R289). -/
def execPrfSetPos (p : Packet) (s : State) : Host.Outcome State Fault Refusal := s.hostCommand 0x2004 p

/-- DRV_ENABLE (R289). -/
def execDrvEnable (p : Packet) (s : State) : Host.Outcome State Fault Refusal := s.hostCommand 0x2005 p

/-- FBK_ARM_INDEX (R258). -/
def execFbkArmIndex (p : Packet) (s : State) : Host.Outcome State Fault Refusal := s.hostCommand 0x2006 p

/-- FBK_LATCH_READ (R289). -/
def execFbkLatchRead (p : Packet) (s : State) : Host.Outcome State Fault Refusal := s.hostCommand 0x2007 p

/-- PRF_MOVE_BEGIN (R274). -/
def execPrfMoveBegin (t : TS) (cell : Nat) (s : State) : Host.Outcome State Fault Refusal :=
  s.onUnit (cell < 8) "profile cell" (s.event t fun s => s.prfBegin cell)

/-- PRF_MOVE_END (R274). -/
def execPrfMoveEnd (t : TS) (cell : Nat) (s : State) : Host.Outcome State Fault Refusal :=
  s.onUnit (cell < 8) "profile cell" (s.event t fun s => s.prfFinish cell)

/-- PRF_STALL (R281). -/
def execPrfStall (t : TS) (cell : Nat) (s : State) : Host.Outcome State Fault Refusal :=
  s.onUnit (cell < 8) "profile cell" (s.event t fun s => s.prfStallCheck cell)

/-- SWITCH_EDGE (R277). -/
def execSwitchEdge (t : TS) (input : Nat) (high : Bool) (s : State) : Host.Outcome State Fault Refusal :=
  s.onUnit (input < 12) "switch input" (s.eventWhen t (fun s => s.switchInput input high t) fun s => s.updSw input fun w => { w with ball := high })

/-- PRF_FAULT_CLEAR (R288). -/
def execPrfFaultClear (p : Packet) (s : State) : Host.Outcome State Fault Refusal := s.hostCommand 0x0101 p

/-- FBK_FAULT_CLEAR (R288). -/
def execFbkFaultClear (p : Packet) (s : State) : Host.Outcome State Fault Refusal := s.hostCommand 0x0101 p

/-- FBK_TYPE_WRITE (R252). -/
def execFbkTypeWrite (p : Packet) (s : State) : Host.Outcome State Fault Refusal := s.hostCommand 0x0101 p

/-- IDX_MODE_WRITE (R258). -/
def execIdxModeWrite (p : Packet) (s : State) : Host.Outcome State Fault Refusal := s.hostCommand 0x0101 p

/-- New levels at balls of a feedback port; a pass-through output group follows them while the clocks stand as well (R268). -/
def State.fbkLevels (s : State) (t : TS) (port : Nat) (levels : List (Nat × Bool)) : Host.Outcome State Fault Refusal :=
  s.onUnit (port < 8) "feedback port"
    (s.eventWhen t (fun s => s.fbkInput port levels t) fun s => s.fbkInput port levels t)

/-- FBK_EDGE (R254). -/
def execFbkEdge (t : TS) (port : Nat) (a : Bool) (b : Bool) (s : State) : Host.Outcome State Fault Refusal :=
  s.fbkLevels t port [(0, a), (1, b)]

/-- FBK_INDEX (R257). -/
def execFbkIndex (t : TS) (port : Nat) (level : Bool) (s : State) : Host.Outcome State Fault Refusal :=
  s.fbkLevels t port [(2, level)]

/-- FBK_SINCOS_SAMPLE (R261). -/
def execFbkSincosSample (t : TS) (port : Nat) (sin : Int) (cos : Int) (s : State) : Host.Outcome State Fault Refusal :=
  s.onUnit (port < 8) "feedback port" (s.event t fun s => s.sampleInput port sin cos t)

/-- FBK_HALL_CHANGE (R263). -/
def execFbkHallChange (t : TS) (port : Nat) (code : Nat) (s : State) : Host.Outcome State Fault Refusal :=
  s.fbkLevels t port [(3, bit code 2), (4, bit code 1), (5, bit code 0)]

/-- FBK_ABS_READ (R264). -/
def execFbkAbsRead (t : TS) (port : Nat) (stamp : TS) (bits : Option (List Bool)) (s : State) : Host.Outcome State Fault Refusal :=
  s.onUnit (port < 8) "feedback port" (s.event t fun s => s.absRead port stamp bits)

/-- FBK_STANDSTILL (R256). -/
def execFbkStandstill (t : TS) (port : Nat) (s : State) : Host.Outcome State Fault Refusal :=
  s.onUnit (port < 8) "feedback port" (s.event t fun s => s.fbkStill port)

/-- FBK_LATCH_TRIGGER (R267). -/
def execFbkLatchTrigger (t : TS) (port : Nat) (rising : Bool) (s : State) : Host.Outcome State Fault Refusal :=
  s.onUnit (port < 8) "feedback port" (s.event t fun s => s.latchInput port rising t)

/-- STP_HOLD_CURRENT (R282). -/
def execStpHoldCurrent (t : TS) (stage : Nat) (s : State) : Host.Outcome State Fault Refusal :=
  s.onUnit (stage < 6) "stepper stage" (s.event t fun s => s.stpHold stage)

/-- STP_OVERCURRENT (R284). -/
def execStpOvercurrent (t : TS) (stage : Nat) (s : State) : Host.Outcome State Fault Refusal :=
  s.onUnit (stage < 6) "stepper stage" (s.event t fun s => s.stageFault stage false)

/-- VMOT_UNDERVOLTAGE (R284). -/
def execVmotUndervoltage (t : TS) (mv : Nat) (s : State) : Host.Outcome State Fault Refusal := .next (s.event t fun s => s.vmotFall mv)

/-- STP_OPEN_LOAD (R284). -/
def execStpOpenLoad (t : TS) (stage : Nat) (coilB : Bool) (s : State) : Host.Outcome State Fault Refusal :=
  s.onUnit (stage < 6) "stepper stage" (s.event t fun s => s.openLoad stage coilB)

/-- SD_FAULT_INPUT (R285). -/
def execSdFaultInput (t : TS) (cell : Nat) (level : Bool) (s : State) : Host.Outcome State Fault Refusal :=
  s.onUnit (cell < 2) "step/direction cell" (s.eventWhen t (fun s => s.sdInput cell level) fun s => s.updSd cell fun x => { x with flt := level })

/-- LAMP_ENABLE (R333). -/
def execLampEnable (p : Packet) (s : State) : Host.Outcome State Fault Refusal := s.hostCommand 0x2800 p

/-- LAMP_SET (R325). -/
def execLampSet (p : Packet) (s : State) : Host.Outcome State Fault Refusal := s.hostCommand 0x2801 p

/-- LAMP_TEST (R326). -/
def execLampTest (p : Packet) (s : State) : Host.Outcome State Fault Refusal := s.hostCommand 0x2802 p

/-- LAMP_TEST_DONE (R326). -/
def execLampTestDone (t : TS) (shorts : List (Nat × Nat)) (opens : Nat) (s : State) : Host.Outcome State Fault Refusal := .next (s.event t fun s => s.lampTestDone shorts opens)

/-- LAMP_PATTERN (R329). -/
def execLampPattern (p : Packet) (s : State) : Host.Outcome State Fault Refusal := s.hostCommand 0x2803 p

/-- LAMP_STROBE (R329). -/
def execLampStrobe (p : Packet) (s : State) : Host.Outcome State Fault Refusal := s.hostCommand 0x2804 p

/-- LAMP_I2C_XFER (R333). -/
def execLampI2cXfer (p : Packet) (s : State) : Host.Outcome State Fault Refusal := s.hostCommand 0x2805 p

/-- LAMP_PERIOD_START (R322). -/
def execLampPeriodStart (t : TS) (s : State) : Host.Outcome State Fault Refusal := .next (s.event t id)

/-- STROBE_EDGE (R329). -/
def execStrobeEdge (t : TS) (s : State) : Host.Outcome State Fault Refusal := .next (s.event t fun s => s.strobeEdge t)

/-- STROBE_WINDOW_END (R329). -/
def execStrobeWindowEnd (t : TS) (s : State) : Host.Outcome State Fault Refusal := .next (s.event t fun s => s.windowEnd)

end Sys2Proof.Machine
end

