-- ==== Sys2Proof/Machine/ExecRaster.lean ====
section
/-!
DEFINITION. Commands and events of rasters, the Gallery map and the Warder (R135-R171): what exec answers for each.
-/
namespace Sys2Proof.Machine

open Sys2Proof

/-- RASTER_COMMIT (R151). -/
def execRasterCommit (p : Packet) (s : State) : Host.Outcome State Fault Refusal := s.hostCommand 0x1100 p

/-- RASTER_RUN (R143). -/
def execRasterRun (p : Packet) (s : State) : Host.Outcome State Fault Refusal := s.hostCommand 0x1101 p

/-- RASTER_HALT (R143). -/
def execRasterHalt (p : Packet) (s : State) : Host.Outcome State Fault Refusal := s.hostCommand 0x1102 p

/-- RASTER_PUSH (R144). -/
def execRasterPush (p : Packet) (s : State) : Host.Outcome State Fault Refusal := s.hostCommand 0x1103 p

/-- RASTER_BLANKING (R151). -/
def execRasterBlanking (t : TS) (beam : Nat) (s : State) : Host.Outcome State Fault Refusal :=
  s.onUnit (beam < s.nBeams) "beam" (s.event t fun s => s.rasterBlanking beam)

/-- RAS_REGION_END (R169). -/
def execRasRegionEnd (t : TS) (beam : Nat) (s : State) : Host.Outcome State Fault Refusal :=
  s.onUnit (beam < s.nBeams) "beam" (s.event t fun s => s.regionEnd beam)

/-- LINE_SYNC_EDGE (R145). -/
def execLineSyncEdge (t : TS) (input : Nat) (rising : Bool) (s : State) : Host.Outcome State Fault Refusal :=
  s.onUnit (input < 16) "EVT_IN input" (s.event t fun s => s.lineSync input rising t)

/-- LINE_BUFFER_FILL (R148). -/
def execLineBufferFill (t : TS) (beam : Nat) (s : State) : Host.Outcome State Fault Refusal :=
  s.onUnit (beam < s.nBeams) "beam" (s.event t fun s => s.lineBufferFill beam)

/-- RAS_PSCALE_WRITE (R150). -/
def execRasPscaleWrite (p : Packet) (s : State) : Host.Outcome State Fault Refusal := s.hostCommand 0x0101 p

/-- GALLERY_CLEAR (R159). -/
def execGalleryClear (p : Packet) (s : State) : Host.Outcome State Fault Refusal := s.hostCommand 0x1200 p

/-- GALLERY_SNAPSHOT (R159). -/
def execGallerySnapshot (p : Packet) (s : State) : Host.Outcome State Fault Refusal := s.hostCommand 0x1201 p

/-- GALLERY_READ (R159). -/
def execGalleryRead (p : Packet) (s : State) : Host.Outcome State Fault Refusal := s.hostCommand 0x1202 p

/-- WARDER_STATUS (R159). -/
def execWarderStatus (p : Packet) (s : State) : Host.Outcome State Fault Refusal := s.hostCommand 0x1210 p

/-- GALLERY_GEOMETRY_WRITE (R170). -/
def execGalleryGeometryWrite (p : Packet) (s : State) : Host.Outcome State Fault Refusal := s.hostCommand 0x0101 p

/-- GALLERY_DEPOSIT (R155). -/
def execGalleryDeposit (t : TS) (beam : Nat) (s : State) : Host.Outcome State Fault Refusal :=
  s.onUnit (beam < s.nBeams) "beam" (s.event t fun s => s.depositDue beam)

/-- GALLERY_SWEEP (R158). -/
def execGallerySweep (t : TS) (s : State) : Host.Outcome State Fault Refusal := .next (s.event t fun s => s.galSweep)

/-- WARDER_RESERVE (R163). -/
def execWarderReserve (t : TS) (beam : Nat) (s : State) : Host.Outcome State Fault Refusal :=
  s.onUnit (beam < s.nBeams) "beam" (s.event t fun s => s.warderReserve beam)

/-- WARDER_ZONE_EXPIRE (R162). -/
def execWarderZoneExpire (t : TS) (s : State) : Host.Outcome State Fault Refusal := .next (s.event t fun s => s.expireZones)

/-- WARD_STARVE (R166). -/
def execWardStarve (t : TS) (beam : Nat) (s : State) : Host.Outcome State Fault Refusal :=
  s.onUnit (beam < s.nBeams) "beam" (s.event t fun s => s.wardStarve beam)

/-- WRD_HOLD_MAX_CLEAR (R11). -/
def execWrdHoldMaxClear (p : Packet) (s : State) : Host.Outcome State Fault Refusal := s.hostCommand 0x0101 p

/-- GALLERY_SNAPSHOT_DONE (R159). -/
def execGallerySnapshotDone (t : TS) (s : State) : Host.Outcome State Fault Refusal := .next (s.event t fun s => s.snapDone)

end Sys2Proof.Machine
end

