-- ==== Sys2Proof/Machine/ExecStore.lean ====
section
/-!
DEFINITION. Commands and events of the Accession Store and its engines (R334-R369): what exec answers for each.
-/
namespace Sys2Proof.Machine

open Sys2Proof

/-- STORE_ALLOC (R338). -/
def execStoreAlloc (p : Packet) (s : State) : Host.Outcome State Fault Refusal := s.hostCommand 0x0200 p

/-- STORE_FREE (R341). -/
def execStoreFree (p : Packet) (s : State) : Host.Outcome State Fault Refusal := s.hostCommand 0x0201 p

/-- STORE_WRITE (R342). -/
def execStoreWrite (p : Packet) (s : State) : Host.Outcome State Fault Refusal := s.hostCommand 0x0202 p

/-- STORE_READ (R366). -/
def execStoreRead (p : Packet) (s : State) : Host.Outcome State Fault Refusal := s.hostCommand 0x0203 p

/-- STORE_DMA_IN (R366). -/
def execStoreDmaIn (p : Packet) (s : State) : Host.Outcome State Fault Refusal := s.hostCommand 0x0204 p

/-- STORE_DMA_OUT (R366). -/
def execStoreDmaOut (p : Packet) (s : State) : Host.Outcome State Fault Refusal := s.hostCommand 0x0205 p

/-- STORE_INFO (R366). -/
def execStoreInfo (p : Packet) (s : State) : Host.Outcome State Fault Refusal := s.hostCommand 0x0206 p

/-- STORE_PIN (R344). -/
def execStorePin (p : Packet) (s : State) : Host.Outcome State Fault Refusal := s.hostCommand 0x0207 p

/-- LOAN_RETURN (R341). -/
def execLoanReturn (t : TS) (acc : Nat) (s : State) : Host.Outcome State Fault Refusal := .next (s.event t fun s => s.loanBack acc)

/-- DRAM_READ_COMPLETE (R356). -/
def execDramReadComplete (t : TS) (acc : Nat) (off : Nat) (err : ReadError) (requester : Requester) (s : State) : Host.Outcome State Fault Refusal := .next (s.event t fun s => s.readComplete acc off err requester)

/-- DRAM_ALERT (R358). -/
def execDramAlert (t : TS) (rank : Nat) (commands : Nat) (attempts : Nat) (stall : Nat) (failed : Bool) (s : State) : Host.Outcome State Fault Refusal :=
  s.onUnit (rank < 4) "rank" (s.event t fun s => s.dramAlert rank commands attempts stall failed)

/-- DRAM_REFRESH (R352). -/
def execDramRefresh (t : TS) (rank : Nat) (waiting : Bool) (s : State) : Host.Outcome State Fault Refusal :=
  s.onUnit (rank < 4) "rank" (s.event t fun s => s.dramRefresh rank waiting)

/-- ROW_HAMMER_REFRESH (R354). -/
def execRowHammerRefresh (t : TS) (rank : Nat) (bank : Nat) (row : Nat) (s : State) : Host.Outcome State Fault Refusal :=
  s.onUnit (rank < 4 ∧ bank < 8 ∧ row < 65536) "row" (s.event t fun s => s.rowActivate rank bank row)

/-- RH_WINDOW_CLEAR (R354). -/
def execRhWindowClear (t : TS) (channel : Nat) (s : State) : Host.Outcome State Fault Refusal :=
  s.onUnit (channel < 2) "channel" (s.event t fun s => s.rhClear channel)

/-- DRAM_PAGE_CLOSE (R351). -/
def execDramPageClose (t : TS) (rank : Nat) (bank : Nat) (s : State) : Host.Outcome State Fault Refusal :=
  s.onUnit (rank < 4 ∧ bank < 8) "bank" (s.event t fun s => s.pageClose rank bank)

/-- RANK_POWER_DOWN (R352). -/
def execRankPowerDown (t : TS) (rank : Nat) (s : State) : Host.Outcome State Fault Refusal :=
  s.onUnit (rank < 4) "rank" (s.event t fun s => s.rankPowerDown rank)

/-- ZIP_COMPRESS (R362). -/
def execZipCompress (p : Packet) (s : State) : Host.Outcome State Fault Refusal := s.hostCommand 0x4000 p

/-- ZIP_DECOMPRESS (R363). -/
def execZipDecompress (p : Packet) (s : State) : Host.Outcome State Fault Refusal := s.hostCommand 0x4001 p

/-- ZIP_JOB_END (R364). -/
def execZipJobEnd (t : TS) (engine : Nat) (s : State) : Host.Outcome State Fault Refusal :=
  s.onUnit (engine < 3) "engine" (s.event t fun s => s.zipEnd engine)

/-- STORE_DMA_DONE (R366). -/
def execStoreDmaDone (t : TS) (moved : Nat) (ok : Bool) (data : List Byte) (s : State) : Host.Outcome State Fault Refusal := .next (s.event t fun s => s.dmaDone moved ok data)

/-- STORE_PIN_DONE (R344). -/
def execStorePinDone (t : TS) (s : State) : Host.Outcome State Fault Refusal := .next (s.event t fun s => s.pinDone)

end Sys2Proof.Machine
end

