-- ==== Sys2Proof/Machine/ExecTime.lean ====
section
/-!
DEFINITION. Commands and events of the time base, PTP, launches and the catalogue (R370-R400): what exec answers for each.
-/
namespace Sys2Proof.Machine

open Sys2Proof

/-- TIME_GET (R391). -/
def execTimeGet (p : Packet) (s : State) : Host.Outcome State Fault Refusal := s.hostCommand 0x5000 p

/-- TIME_SET (R391). -/
def execTimeSet (p : Packet) (s : State) : Host.Outcome State Fault Refusal := s.hostCommand 0x5001 p

/-- TIME_LAUNCH (R388). -/
def execTimeLaunch (p : Packet) (s : State) : Host.Outcome State Fault Refusal := s.hostCommand 0x5002 p

/-- LAUNCH_FLUSH (R390). -/
def execLaunchFlush (p : Packet) (s : State) : Host.Outcome State Fault Refusal := s.hostCommand 0x5003 p

/-- CAT_SEAL (R396). -/
def execCatSeal (p : Packet) (s : State) : Host.Outcome State Fault Refusal := s.hostCommand 0x5010 p

/-- CAT_LIST (R391). -/
def execCatList (p : Packet) (s : State) : Host.Outcome State Fault Refusal := s.hostCommand 0x5011 p

/-- CAT_RELEASE (R391). -/
def execCatRelease (p : Packet) (s : State) : Host.Outcome State Fault Refusal := s.hostCommand 0x5012 p

/-- SERVO_OFFSET (R376). -/
def execServoOffset (t : TS) (s : State) : Host.Outcome State Fault Refusal := .next (s.event t fun s => s.servoOffset)

/-- PTP_MESSAGE (R380). -/
def execPtpMessage (t : TS) (port : Nat) (ip : Bool) (msg : List Byte) (s : State) : Host.Outcome State Fault Refusal :=
  s.onUnit (port < 3) "Ethernet port" (s.event t fun s => s.ptpMessage port ip msg)

/-- PPS_IN_EDGE (R384). -/
def execPpsInEdge (t : TS) (k : Nat) (rising : Bool) (s : State) : Host.Outcome State Fault Refusal :=
  s.onUnit (k < 2) "PPS input" (s.event t fun s => s.ppsIn k rising)

/-- SERVO_HOLDOVER (R377). -/
def execServoHoldover (t : TS) (s : State) : Host.Outcome State Fault Refusal := .next (s.event t fun s => s.servoHoldover)

/-- TIME_STEP_APPLY (R378). -/
def execTimeStepApply (t : TS) (s : State) : Host.Outcome State Fault Refusal := .next (s.event t fun s => s.stepApply)

/-- PPS_OUT (R384). -/
def execPpsOut (t : TS) (k : Nat) (s : State) : Host.Outcome State Fault Refusal :=
  s.onUnit (k < 2) "PPS output" (s.event t fun s => s.ppsOut k)

/-- LAUNCH_SEND (R388). -/
def execLaunchSend (t : TS) (port : Nat) (s : State) : Host.Outcome State Fault Refusal :=
  s.onUnit (port < 3) "Ethernet port" (s.event t fun s => s.launchSend port)

/-- LAUNCH_DROP (R389). -/
def execLaunchDrop (t : TS) (port : Nat) (s : State) : Host.Outcome State Fault Refusal :=
  s.onUnit (port < 3) "Ethernet port" (s.event t fun s => s.launchDrop port)

/-- TWIN_TIMING_EXCHANGE (R386). -/
def execTwinTimingExchange (t : TS) (t1 : TS) (t2 : TS) (t3 : TS) (t4 : TS) (s : State) : Host.Outcome State Fault Refusal := .next (s.event t fun s => s.twinTiming t1 t2 t3 t4)

/-- CAT_SEAL_TIMEOUT (R396). -/
def execCatSealTimeout (t : TS) (s : State) : Host.Outcome State Fault Refusal := .next (s.event t fun s => s.catSealTimeout)

/-- MELT_SUM (R397). -/
def execMeltSum (t : TS) (s : State) : Host.Outcome State Fault Refusal := .next (s.event t fun s => s.meltSums)

/-- EVT_IN_EDGE (R373). -/
def execEvtInEdge (t : TS) (input : Nat) (rising : Bool) (s : State) : Host.Outcome State Fault Refusal :=
  s.onUnit (input < 16) "EVT_IN input" (s.eventWhen t (fun s => s.evtEdge input rising t) fun s => s.aonInput (1 + input) rising)

/-- TIME_SRC_WRITE (R377). -/
def execTimeSrcWrite (p : Packet) (s : State) : Host.Outcome State Fault Refusal := s.hostCommand 0x0101 p

/-- ETH_LINK_CHANGE (R389). -/
def execEthLinkChange (t : TS) (port : Nat) (up : Bool) (speed : Nat) (s : State) : Host.Outcome State Fault Refusal :=
  s.onUnit (port < 3) "Ethernet port" (s.event t fun s => s.ethLink port up speed)

/-- PTP_INTERVAL_TIMER (R380). -/
def execPtpIntervalTimer (t : TS) (port : Nat) (timer : PtpTimer) (s : State) : Host.Outcome State Fault Refusal :=
  s.onUnit (port < 3) "Ethernet port" (s.event t fun s => s.ptpTimer port timer)

end Sys2Proof.Machine
end

