-- ==== Sys2Proof/Machine/ExecTwin.lean ====
section
/-!
DEFINITION. Commands and events of the twin pair, the log and faults (R401-R436): what exec answers for each.
-/
namespace Sys2Proof.Machine

open Sys2Proof

/-- TWIN_STATUS (R434). -/
def execTwinStatus (p : Packet) (s : State) : Host.Outcome State Fault Refusal := s.hostCommand 0x6000 p

/-- TWIN_SWITCH (R419). -/
def execTwinSwitch (p : Packet) (s : State) : Host.Outcome State Fault Refusal := s.hostCommand 0x6001 p

/-- TWIN_SEIZE (R419). -/
def execTwinSeize (p : Packet) (s : State) : Host.Outcome State Fault Refusal := s.hostCommand 0x6002 p

/-- TWIN_RESYNC (R410). -/
def execTwinResync (p : Packet) (s : State) : Host.Outcome State Fault Refusal := s.hostCommand 0x6003 p

/-- TWIN_HELLO (R404). -/
def execTwinHello (t : TS) (hello : Hello) (s : State) : Host.Outcome State Fault Refusal := .next (s.event t fun s => s.twinHello hello)

/-- NEG_TIMEOUT (R404). -/
def execNegTimeout (t : TS) (s : State) : Host.Outcome State Fault Refusal := .next (s.event t fun s => s.negTimeout)

/-- HEARTBEAT_LOSS (R411). -/
def execHeartbeatLoss (t : TS) (s : State) : Host.Outcome State Fault Refusal := .next (s.event t fun s => s.heartbeatLoss)

/-- TWIN_FAULT_RISE (R411). -/
def execTwinFaultRise (t : TS) (s : State) : Host.Outcome State Fault Refusal := .next (s.eventWhen t (fun s => s.twinFaultRise) fun s => ((s.updTwin fun t => { t with faultIn := true }).aonEdge 23 true).finish)

/-- TWIN_KILL_IN (R412). -/
def execTwinKillIn (t : TS) (s : State) : Host.Outcome State Fault Refusal := .next (s.eventWhen t (fun s => s.twinKillIn) fun s => ((s.killStopped).aonEdge 24 true).finish)

/-- TWIN_RELEASE_WORD (R412). -/
def execTwinReleaseWord (t : TS) (s : State) : Host.Outcome State Fault Refusal := .next (s.event t fun s => s.takeWait true)

/-- TAKEOVER_WAIT_END (R412). -/
def execTakeoverWaitEnd (t : TS) (s : State) : Host.Outcome State Fault Refusal := .next (s.event t fun s => s.takeWaitEnd)

/-- TWIN_TAKE_OWN (R412). -/
def execTwinTakeOwn (t : TS) (s : State) : Host.Outcome State Fault Refusal := .next (s.event t fun s => s.twinTakeOwn)

/-- TWIN_FORWARD_RECEIVE (R407). -/
def execTwinForwardReceive (t : TS) (item : Forward) (s : State) : Host.Outcome State Fault Refusal := .next (s.event t fun s => s.twinForward item)

/-- TWIN_ACK (R406). -/
def execTwinAck (t : TS) (reply : Bool) (stream : Nat) (seq : Nat) (s : State) : Host.Outcome State Fault Refusal := .next (s.event t fun s => s.twinAck reply stream seq)

/-- TWIN_LINK_TIMEOUT (R408). -/
def execTwinLinkTimeout (t : TS) (s : State) : Host.Outcome State Fault Refusal := .next (s.event t fun s => s.twinLinkTimeout)

/-- TWIN_DIGEST (R409). -/
def execTwinDigest (t : TS) (partner : Option Nat) (s : State) : Host.Outcome State Fault Refusal := .next (s.event t fun s => s.twinDigest partner)

/-- STATE_TRANSFER (R410). -/
def execStateTransfer (t : TS) (copy : Option Copy) (s : State) : Host.Outcome State Fault Refusal := .next (s.event t fun s => s.stateTransfer copy)

/-- RESYNC_TIMEOUT (R410). -/
def execResyncTimeout (t : TS) (s : State) : Host.Outcome State Fault Refusal := .next (s.event t fun s => s.resyncTimeout)

/-- LOG_MIRROR (R431). -/
def execLogMirror (t : TS) (entry : Rec) (s : State) : Host.Outcome State Fault Refusal := .next (s.event t fun s => s.logMirror entry)

/-- LOG_READ (R430). -/
def execLogRead (p : Packet) (s : State) : Host.Outcome State Fault Refusal := s.hostCommand 0x7000 p

/-- LOG_MARK (R430). -/
def execLogMark (p : Packet) (s : State) : Host.Outcome State Fault Refusal := s.hostCommand 0x7001 p

/-- LOG_CHALLENGE (R433). -/
def execLogChallenge (p : Packet) (s : State) : Host.Outcome State Fault Refusal := s.hostCommand 0x7002 p

/-- LOG_CLEAR (R433). -/
def execLogClear (p : Packet) (s : State) : Host.Outcome State Fault Refusal := s.hostCommand 0x7003 p

/-- KEY_WRITE (R432). -/
def execKeyWrite (p : Packet) (s : State) : Host.Outcome State Fault Refusal := s.hostCommand 0x7010 p

/-- KEY_INFO (R434). -/
def execKeyInfo (p : Packet) (s : State) : Host.Outcome State Fault Refusal := s.hostCommand 0x7011 p

/-- FAULT_STATUS (R434). -/
def execFaultStatus (p : Packet) (s : State) : Host.Outcome State Fault Refusal := s.hostCommand 0x7020 p

/-- FAULT_CLEAR (R421). -/
def execFaultClear (p : Packet) (s : State) : Host.Outcome State Fault Refusal := s.hostCommand 0x7021 p

/-- CURATOR_WATCHDOG (R403). -/
def execCuratorWatchdog (t : TS) (s : State) : Host.Outcome State Fault Refusal := .next (s.event t fun s => s.watchdog)

/-- TWIN_HB_EDGE (R404). -/
def execTwinHbEdge (t : TS) (s : State) : Host.Outcome State Fault Refusal := .next (s.eventWhen t (fun s => s.twinHbEdge) fun s => (s.aonEdge 25 true).finish)

/-- TWIN_KILL_RELEASE (R402). -/
def execTwinKillRelease (t : TS) (s : State) : Host.Outcome State Fault Refusal := .next (s.eventWhen t (fun s => s.twinKillRelease) fun s => ((s.updTwin fun t => { t with killIn := false }).aonEdge 24 false).finish)

end Sys2Proof.Machine
end

