-- ==== Sys2Proof/Machine/ExecVision.lean ====
section
/-!
DEFINITION. Commands and events of the camera pipelines (R292-R320): what exec answers for each.
-/
namespace Sys2Proof.Machine

open Sys2Proof

/-- PIPE_START (R319). -/
def execPipeStart (p : Packet) (s : State) : Host.Outcome State Fault Refusal := s.hostCommand 0x3000 p

/-- PIPE_STOP (R319). -/
def execPipeStop (p : Packet) (s : State) : Host.Outcome State Fault Refusal := s.hostCommand 0x3001 p

/-- PIPE_BUFS (R306). -/
def execPipeBufs (p : Packet) (s : State) : Host.Outcome State Fault Refusal := s.hostCommand 0x3002 p

/-- PIPE_RELEASE (R306). -/
def execPipeRelease (p : Packet) (s : State) : Host.Outcome State Fault Refusal := s.hostCommand 0x3003 p

/-- CAM_COMMIT (R315). -/
def execCamCommit (p : Packet) (s : State) : Host.Outcome State Fault Refusal := s.hostCommand 0x3004 p

/-- CAM_I2C_XFER (R317). -/
def execCamI2cXfer (p : Packet) (s : State) : Host.Outcome State Fault Refusal := s.hostCommand 0x3005 p

/-- PIPE_STATUS (R332). -/
def execPipeStatus (p : Packet) (s : State) : Host.Outcome State Fault Refusal := s.hostCommand 0x3006 p

/-- CSI_FRAME_START (R295). -/
def execCsiFrameStart (t : TS) (port : Nat) (vc : Nat) (number : Nat) (ecc : Nat) (s : State) : Host.Outcome State Fault Refusal :=
  s.onUnit (port < s.nPipes ∧ vc < 16) "camera port" (s.event t fun s => s.onPipes port vc fun p s => s.csiStart p vc number ecc)

/-- CSI_LINE (R294). -/
def execCsiLine (t : TS) (port : Nat) (vc : Nat) (line : CsiLine) (s : State) : Host.Outcome State Fault Refusal :=
  s.onUnit (port < s.nPipes ∧ vc < 16) "camera port" (s.event t fun s => s.onPipes port vc fun p s => s.csiLine p vc line)

/-- CSI_FRAME_END (R295). -/
def execCsiFrameEnd (t : TS) (port : Nat) (vc : Nat) (number : Nat) (ecc : Nat) (s : State) : Host.Outcome State Fault Refusal :=
  s.onUnit (port < s.nPipes ∧ vc < 16) "camera port" (s.event t fun s => s.onPipes port vc fun p s => s.csiEnd p vc number ecc)

/-- FRAME_TIMEOUT (R297). -/
def execFrameTimeout (t : TS) (pipe : Nat) (s : State) : Host.Outcome State Fault Refusal :=
  s.onUnit (pipe < s.nPipes) "pipeline" (s.event t fun s => s.frameTimeout pipe)

/-- BLOB_PUBLISH (R312). -/
def execBlobPublish (t : TS) (pipe : Nat) (s : State) : Host.Outcome State Fault Refusal :=
  s.onUnit (pipe < s.nPipes) "pipeline" (s.event t fun s => s.blobPublish pipe)

/-- FRAME_INDEX_WRITE (R308). -/
def execFrameIndexWrite (t : TS) (pipe : Nat) (s : State) : Host.Outcome State Fault Refusal :=
  s.onUnit (pipe < s.nPipes) "pipeline" (s.event t fun s => s.indexWrite pipe)

/-- CAM_COMMIT_DONE (R315). -/
def execCamCommitDone (t : TS) (pipe : Nat) (made : Nat) (bus : Nat) (s : State) : Host.Outcome State Fault Refusal :=
  s.onUnit (pipe < s.nPipes) "pipeline" (s.event t fun s => s.camCommitDone pipe made bus)

/-- CAM_TRIGGER (R318). -/
def execCamTrigger (t : TS) (pipe : Nat) (s : State) : Host.Outcome State Fault Refusal :=
  s.onUnit (pipe < s.nPipes) "pipeline" (s.event t fun s => s.camPeriod pipe)

/-- I2C_TRANSFER_DONE (R317). -/
def execI2cTransferDone (t : TS) (bus : Nat) (result : Nat) (data : List Byte) (s : State) : Host.Outcome State Fault Refusal :=
  s.onUnit (bus = 8 ∨ bus < s.nPipes) "bus" (s.event t fun s => s.i2cDone bus result data)

end Sys2Proof.Machine
end

