-- ==== Sys2Proof/Machine/Dispatch.lean ====
section
/-!
DEFINITION. exec: one arm per command, each a direct call of its meaning.
-/
namespace Sys2Proof.Machine

open Sys2Proof

def exec (i : Instr) (s : State) : Host.Outcome State Fault Refusal :=
  match i with
  | .nop p => Sys2Proof.Machine.execNop p s
  | .heartbeat p => Sys2Proof.Machine.execHeartbeat p s
  | .sessionChallenge p => Sys2Proof.Machine.execSessionChallenge p s
  | .sessionOpen p => Sys2Proof.Machine.execSessionOpen p s
  | .sessionClose p => Sys2Proof.Machine.execSessionClose p s
  | .sessionLock p => Sys2Proof.Machine.execSessionLock p s
  | .replyReread p => Sys2Proof.Machine.execReplyReread p s
  | .streamFlush p => Sys2Proof.Machine.execStreamFlush p s
  | .fence p => Sys2Proof.Machine.execFence p s
  | .fenceComplete t stream => Sys2Proof.Machine.execFenceComplete t stream s
  | .deviceInfo p => Sys2Proof.Machine.execDeviceInfo p s
  | .powerRequest p => Sys2Proof.Machine.execPowerRequest p s
  | .paramRead p => Sys2Proof.Machine.execParamRead p s
  | .paramWrite p => Sys2Proof.Machine.execParamWrite p s
  | .paramReadBlock p => Sys2Proof.Machine.execParamReadBlock p s
  | .paramWriteBlock p => Sys2Proof.Machine.execParamWriteBlock p s
  | .packetDiscard t cause => Sys2Proof.Machine.execPacketDiscard t cause s
  | .shp1Frame f => Sys2Proof.Machine.execShp1Frame f s
  | .sqTail t stream value => Sys2Proof.Machine.execSqTail t stream value s
  | .rqHead t ring value => Sys2Proof.Machine.execRqHead t ring value s
  | .sqEnable t stream value => Sys2Proof.Machine.execSqEnable t stream value s
  | .rqEnable t ring value => Sys2Proof.Machine.execRqEnable t ring value s
  | .bar0RegisterWrite t offset value => Sys2Proof.Machine.execBar0RegisterWrite t offset value s
  | .descriptorFetch t stream got => Sys2Proof.Machine.execDescriptorFetch t stream got s
  | .replyBatchTimeout t stream => Sys2Proof.Machine.execReplyBatchTimeout t stream s
  | .pcieLinkChange t link => Sys2Proof.Machine.execPcieLinkChange t link s
  | .sessionTimeout t inst => Sys2Proof.Machine.execSessionTimeout t inst s
  | .nonceExpire t ep => Sys2Proof.Machine.execNonceExpire t ep s
  | .beamEnable p => Sys2Proof.Machine.execBeamEnable p s
  | .beamDisable p => Sys2Proof.Machine.execBeamDisable p s
  | .exposeList p => Sys2Proof.Machine.execExposeList p s
  | .exposeInline p => Sys2Proof.Machine.execExposeInline p s
  | .catalogueMark p => Sys2Proof.Machine.execCatalogueMark p s
  | .catalogueMarkReached t beam => Sys2Proof.Machine.execCatalogueMarkReached t beam s
  | .armingComplete t beam => Sys2Proof.Machine.execArmingComplete t beam s
  | .armTimeout t beam => Sys2Proof.Machine.execArmTimeout t beam s
  | .laserIdentReply t beam frame => Sys2Proof.Machine.execLaserIdentReply t beam frame s
  | .exposeBegin t beam => Sys2Proof.Machine.execExposeBegin t beam s
  | .listEnd t beam => Sys2Proof.Machine.execListEnd t beam s
  | .vectorFetch t beam => Sys2Proof.Machine.execVectorFetch t beam s
  | .vectorPlan t beam => Sys2Proof.Machine.execVectorPlan t beam s
  | .tableLatch t beam => Sys2Proof.Machine.execTableLatch t beam s
  | .microStepTick t => Sys2Proof.Machine.execMicroStepTick t s
  | .frameTick t => Sys2Proof.Machine.execFrameTick t s
  | .laserEnChange t a b => Sys2Proof.Machine.execLaserEnChange t a b s
  | .safetyFault t => Sys2Proof.Machine.execSafetyFault t s
  | .laserReadyChange t beam level => Sys2Proof.Machine.execLaserReadyChange t beam level s
  | .laserAlarm t beam level => Sys2Proof.Machine.execLaserAlarm t beam level s
  | .beamParkReached t beam => Sys2Proof.Machine.execBeamParkReached t beam s
  | .parkTimeout t beam => Sys2Proof.Machine.execParkTimeout t beam s
  | .rasterCommit p => Sys2Proof.Machine.execRasterCommit p s
  | .rasterRun p => Sys2Proof.Machine.execRasterRun p s
  | .rasterHalt p => Sys2Proof.Machine.execRasterHalt p s
  | .rasterPush p => Sys2Proof.Machine.execRasterPush p s
  | .rasterBlanking t beam => Sys2Proof.Machine.execRasterBlanking t beam s
  | .rasRegionEnd t beam => Sys2Proof.Machine.execRasRegionEnd t beam s
  | .lineSyncEdge t input rising => Sys2Proof.Machine.execLineSyncEdge t input rising s
  | .lineBufferFill t beam => Sys2Proof.Machine.execLineBufferFill t beam s
  | .rasPscaleWrite p => Sys2Proof.Machine.execRasPscaleWrite p s
  | .galleryClear p => Sys2Proof.Machine.execGalleryClear p s
  | .gallerySnapshot p => Sys2Proof.Machine.execGallerySnapshot p s
  | .galleryRead p => Sys2Proof.Machine.execGalleryRead p s
  | .warderStatus p => Sys2Proof.Machine.execWarderStatus p s
  | .galleryGeometryWrite p => Sys2Proof.Machine.execGalleryGeometryWrite p s
  | .galleryDeposit t beam => Sys2Proof.Machine.execGalleryDeposit t beam s
  | .gallerySweep t => Sys2Proof.Machine.execGallerySweep t s
  | .warderReserve t beam => Sys2Proof.Machine.execWarderReserve t beam s
  | .warderZoneExpire t => Sys2Proof.Machine.execWarderZoneExpire t s
  | .wardStarve t beam => Sys2Proof.Machine.execWardStarve t beam s
  | .cnsBind p => Sys2Proof.Machine.execCnsBind p s
  | .cnsMode p => Sys2Proof.Machine.execCnsMode p s
  | .cnsOrder p => Sys2Proof.Machine.execCnsOrder p s
  | .cnsStatus p => Sys2Proof.Machine.execCnsStatus p s
  | .cnsTrace p => Sys2Proof.Machine.execCnsTrace p s
  | .cnsTraceEnd t slot => Sys2Proof.Machine.execCnsTraceEnd t slot s
  | .cnsOverrun t slots => Sys2Proof.Machine.execCnsOverrun t slots s
  | .cnsImplausible t slot => Sys2Proof.Machine.execCnsImplausible t slot s
  | .mpGapReset t slot => Sys2Proof.Machine.execMpGapReset t slot s
  | .hySwitch t slot => Sys2Proof.Machine.execHySwitch t slot s
  | .hyImplausible t slot => Sys2Proof.Machine.execHyImplausible t slot s
  | .headReturnFrame t head sof codes => Sys2Proof.Machine.execHeadReturnFrame t head sof codes s
  | .headFrameMissing t head => Sys2Proof.Machine.execHeadFrameMissing t head s
  | .headLinkTimeout t head => Sys2Proof.Machine.execHeadLinkTimeout t head s
  | .headLockLost t head => Sys2Proof.Machine.execHeadLockLost t head s
  | .hpFaultClear p => Sys2Proof.Machine.execHpFaultClear p s
  | .hpGenWrite p => Sys2Proof.Machine.execHpGenWrite p s
  | .xy2Assign p => Sys2Proof.Machine.execXy2Assign p s
  | .xy2Frame t port => Sys2Proof.Machine.execXy2Frame t port s
  | .xy2StatusFrame t port bits => Sys2Proof.Machine.execXy2StatusFrame t port bits s
  | .prfMove p => Sys2Proof.Machine.execPrfMove p s
  | .prfChange p => Sys2Proof.Machine.execPrfChange p s
  | .prfStop p => Sys2Proof.Machine.execPrfStop p s
  | .prfHome p => Sys2Proof.Machine.execPrfHome p s
  | .prfSetPos p => Sys2Proof.Machine.execPrfSetPos p s
  | .drvEnable p => Sys2Proof.Machine.execDrvEnable p s
  | .fbkArmIndex p => Sys2Proof.Machine.execFbkArmIndex p s
  | .fbkLatchRead p => Sys2Proof.Machine.execFbkLatchRead p s
  | .prfMoveBegin t cell => Sys2Proof.Machine.execPrfMoveBegin t cell s
  | .prfMoveEnd t cell => Sys2Proof.Machine.execPrfMoveEnd t cell s
  | .prfStall t cell => Sys2Proof.Machine.execPrfStall t cell s
  | .switchEdge t input high => Sys2Proof.Machine.execSwitchEdge t input high s
  | .prfFaultClear p => Sys2Proof.Machine.execPrfFaultClear p s
  | .fbkFaultClear p => Sys2Proof.Machine.execFbkFaultClear p s
  | .fbkTypeWrite p => Sys2Proof.Machine.execFbkTypeWrite p s
  | .idxModeWrite p => Sys2Proof.Machine.execIdxModeWrite p s
  | .fbkEdge t port a b => Sys2Proof.Machine.execFbkEdge t port a b s
  | .fbkIndex t port level => Sys2Proof.Machine.execFbkIndex t port level s
  | .fbkSincosSample t port sin cos => Sys2Proof.Machine.execFbkSincosSample t port sin cos s
  | .fbkHallChange t port code => Sys2Proof.Machine.execFbkHallChange t port code s
  | .fbkAbsRead t port stamp bits => Sys2Proof.Machine.execFbkAbsRead t port stamp bits s
  | .fbkStandstill t port => Sys2Proof.Machine.execFbkStandstill t port s
  | .fbkLatchTrigger t port rising => Sys2Proof.Machine.execFbkLatchTrigger t port rising s
  | .stpHoldCurrent t stage => Sys2Proof.Machine.execStpHoldCurrent t stage s
  | .stpOvercurrent t stage => Sys2Proof.Machine.execStpOvercurrent t stage s
  | .vmotUndervoltage t mv => Sys2Proof.Machine.execVmotUndervoltage t mv s
  | .stpOpenLoad t stage coilB => Sys2Proof.Machine.execStpOpenLoad t stage coilB s
  | .sdFaultInput t cell level => Sys2Proof.Machine.execSdFaultInput t cell level s
  | .lampEnable p => Sys2Proof.Machine.execLampEnable p s
  | .lampSet p => Sys2Proof.Machine.execLampSet p s
  | .lampTest p => Sys2Proof.Machine.execLampTest p s
  | .lampTestDone t shorts opens => Sys2Proof.Machine.execLampTestDone t shorts opens s
  | .lampPattern p => Sys2Proof.Machine.execLampPattern p s
  | .lampStrobe p => Sys2Proof.Machine.execLampStrobe p s
  | .lampI2cXfer p => Sys2Proof.Machine.execLampI2cXfer p s
  | .lampPeriodStart t => Sys2Proof.Machine.execLampPeriodStart t s
  | .strobeEdge t => Sys2Proof.Machine.execStrobeEdge t s
  | .strobeWindowEnd t => Sys2Proof.Machine.execStrobeWindowEnd t s
  | .pipeStart p => Sys2Proof.Machine.execPipeStart p s
  | .pipeStop p => Sys2Proof.Machine.execPipeStop p s
  | .pipeBufs p => Sys2Proof.Machine.execPipeBufs p s
  | .pipeRelease p => Sys2Proof.Machine.execPipeRelease p s
  | .camCommit p => Sys2Proof.Machine.execCamCommit p s
  | .camI2cXfer p => Sys2Proof.Machine.execCamI2cXfer p s
  | .pipeStatus p => Sys2Proof.Machine.execPipeStatus p s
  | .csiFrameStart t port vc number ecc => Sys2Proof.Machine.execCsiFrameStart t port vc number ecc s
  | .csiLine t port vc line => Sys2Proof.Machine.execCsiLine t port vc line s
  | .csiFrameEnd t port vc number ecc => Sys2Proof.Machine.execCsiFrameEnd t port vc number ecc s
  | .frameTimeout t pipe => Sys2Proof.Machine.execFrameTimeout t pipe s
  | .blobPublish t pipe => Sys2Proof.Machine.execBlobPublish t pipe s
  | .frameIndexWrite t pipe => Sys2Proof.Machine.execFrameIndexWrite t pipe s
  | .camCommitDone t pipe made bus => Sys2Proof.Machine.execCamCommitDone t pipe made bus s
  | .camTrigger t pipe => Sys2Proof.Machine.execCamTrigger t pipe s
  | .storeAlloc p => Sys2Proof.Machine.execStoreAlloc p s
  | .storeFree p => Sys2Proof.Machine.execStoreFree p s
  | .storeWrite p => Sys2Proof.Machine.execStoreWrite p s
  | .storeRead p => Sys2Proof.Machine.execStoreRead p s
  | .storeDmaIn p => Sys2Proof.Machine.execStoreDmaIn p s
  | .storeDmaOut p => Sys2Proof.Machine.execStoreDmaOut p s
  | .storeInfo p => Sys2Proof.Machine.execStoreInfo p s
  | .storePin p => Sys2Proof.Machine.execStorePin p s
  | .loanReturn t acc => Sys2Proof.Machine.execLoanReturn t acc s
  | .dramReadComplete t acc off err requester => Sys2Proof.Machine.execDramReadComplete t acc off err requester s
  | .dramAlert t rank commands attempts stall failed => Sys2Proof.Machine.execDramAlert t rank commands attempts stall failed s
  | .dramRefresh t rank waiting => Sys2Proof.Machine.execDramRefresh t rank waiting s
  | .rowHammerRefresh t rank bank row => Sys2Proof.Machine.execRowHammerRefresh t rank bank row s
  | .rhWindowClear t channel => Sys2Proof.Machine.execRhWindowClear t channel s
  | .dramPageClose t rank bank => Sys2Proof.Machine.execDramPageClose t rank bank s
  | .rankPowerDown t rank => Sys2Proof.Machine.execRankPowerDown t rank s
  | .zipCompress p => Sys2Proof.Machine.execZipCompress p s
  | .zipDecompress p => Sys2Proof.Machine.execZipDecompress p s
  | .zipJobEnd t engine => Sys2Proof.Machine.execZipJobEnd t engine s
  | .timeGet p => Sys2Proof.Machine.execTimeGet p s
  | .timeSet p => Sys2Proof.Machine.execTimeSet p s
  | .timeLaunch p => Sys2Proof.Machine.execTimeLaunch p s
  | .launchFlush p => Sys2Proof.Machine.execLaunchFlush p s
  | .catSeal p => Sys2Proof.Machine.execCatSeal p s
  | .catList p => Sys2Proof.Machine.execCatList p s
  | .catRelease p => Sys2Proof.Machine.execCatRelease p s
  | .servoOffset t => Sys2Proof.Machine.execServoOffset t s
  | .ptpMessage t port ip msg => Sys2Proof.Machine.execPtpMessage t port ip msg s
  | .ppsInEdge t k rising => Sys2Proof.Machine.execPpsInEdge t k rising s
  | .servoHoldover t => Sys2Proof.Machine.execServoHoldover t s
  | .timeStepApply t => Sys2Proof.Machine.execTimeStepApply t s
  | .ppsOut t k => Sys2Proof.Machine.execPpsOut t k s
  | .launchSend t port => Sys2Proof.Machine.execLaunchSend t port s
  | .launchDrop t port => Sys2Proof.Machine.execLaunchDrop t port s
  | .twinTimingExchange t t1 t2 t3 t4 => Sys2Proof.Machine.execTwinTimingExchange t t1 t2 t3 t4 s
  | .catSealTimeout t => Sys2Proof.Machine.execCatSealTimeout t s
  | .meltSum t => Sys2Proof.Machine.execMeltSum t s
  | .twinStatus p => Sys2Proof.Machine.execTwinStatus p s
  | .twinSwitch p => Sys2Proof.Machine.execTwinSwitch p s
  | .twinSeize p => Sys2Proof.Machine.execTwinSeize p s
  | .twinResync p => Sys2Proof.Machine.execTwinResync p s
  | .twinHello t hello => Sys2Proof.Machine.execTwinHello t hello s
  | .negTimeout t => Sys2Proof.Machine.execNegTimeout t s
  | .heartbeatLoss t => Sys2Proof.Machine.execHeartbeatLoss t s
  | .twinFaultRise t => Sys2Proof.Machine.execTwinFaultRise t s
  | .twinKillIn t => Sys2Proof.Machine.execTwinKillIn t s
  | .twinReleaseWord t => Sys2Proof.Machine.execTwinReleaseWord t s
  | .takeoverWaitEnd t => Sys2Proof.Machine.execTakeoverWaitEnd t s
  | .twinTakeOwn t => Sys2Proof.Machine.execTwinTakeOwn t s
  | .twinForwardReceive t item => Sys2Proof.Machine.execTwinForwardReceive t item s
  | .twinAck t reply stream seq => Sys2Proof.Machine.execTwinAck t reply stream seq s
  | .twinLinkTimeout t => Sys2Proof.Machine.execTwinLinkTimeout t s
  | .twinDigest t partner => Sys2Proof.Machine.execTwinDigest t partner s
  | .stateTransfer t copy => Sys2Proof.Machine.execStateTransfer t copy s
  | .resyncTimeout t => Sys2Proof.Machine.execResyncTimeout t s
  | .logMirror t entry => Sys2Proof.Machine.execLogMirror t entry s
  | .logRead p => Sys2Proof.Machine.execLogRead p s
  | .logMark p => Sys2Proof.Machine.execLogMark p s
  | .logChallenge p => Sys2Proof.Machine.execLogChallenge p s
  | .logClear p => Sys2Proof.Machine.execLogClear p s
  | .keyWrite p => Sys2Proof.Machine.execKeyWrite p s
  | .keyInfo p => Sys2Proof.Machine.execKeyInfo p s
  | .faultStatus p => Sys2Proof.Machine.execFaultStatus p s
  | .faultClear p => Sys2Proof.Machine.execFaultClear p s
  | .curatorWatchdog t => Sys2Proof.Machine.execCuratorWatchdog t s
  | .docentClaim p => Sys2Proof.Machine.execDocentClaim p s
  | .docentComplete p => Sys2Proof.Machine.execDocentComplete p s
  | .docentFwInterrupt t act => Sys2Proof.Machine.execDocentFwInterrupt t act s
  | .docentSrcWrite p => Sys2Proof.Machine.execDocentSrcWrite p s
  | .docentSoft p => Sys2Proof.Machine.execDocentSoft p s
  | .docentDisableWrite p => Sys2Proof.Machine.execDocentDisableWrite p s
  | .evtInEdge t input rising => Sys2Proof.Machine.execEvtInEdge t input rising s
  | .ilkChange t input level => Sys2Proof.Machine.execIlkChange t input level s
  | .gpoWrite p => Sys2Proof.Machine.execGpoWrite p s
  | .mgtRound t raw light => Sys2Proof.Machine.execMgtRound t raw light s
  | .analogTrip t => Sys2Proof.Machine.execAnalogTrip t s
  | .standbyEnter t => Sys2Proof.Machine.execStandbyEnter t s
  | .standbyRound t raw => Sys2Proof.Machine.execStandbyRound t raw s
  | .aonEdgeLatch t source rising => Sys2Proof.Machine.execAonEdgeLatch t source rising s
  | .wakeTimer t => Sys2Proof.Machine.execWakeTimer t s
  | .vinRise t boot => Sys2Proof.Machine.execVinRise t boot s
  | .vinLoss t => Sys2Proof.Machine.execVinLoss t s
  | .resetAssert t => Sys2Proof.Machine.execResetAssert t s
  | .resetRelease t boot => Sys2Proof.Machine.execResetRelease t boot s
  | .refLoss t backup => Sys2Proof.Machine.execRefLoss t backup s
  | .blockGate t region block => Sys2Proof.Machine.execBlockGate t region block s
  | .blockUngate t region block => Sys2Proof.Machine.execBlockUngate t region block s
  | .presetSave p => Sys2Proof.Machine.execPresetSave p s
  | .presetFactory p => Sys2Proof.Machine.execPresetFactory p s
  | .fwLoad p => Sys2Proof.Machine.execFwLoad p s
  | .calEntryWrite p => Sys2Proof.Machine.execCalEntryWrite p s
  | .calExport p => Sys2Proof.Machine.execCalExport p s
  | .wrdHoldMaxClear p => Sys2Proof.Machine.execWrdHoldMaxClear p s
  | .timeSrcWrite p => Sys2Proof.Machine.execTimeSrcWrite p s
  | .laserSyncEdge t beam => Sys2Proof.Machine.execLaserSyncEdge t beam s
  | .ethLinkChange t port up speed => Sys2Proof.Machine.execEthLinkChange t port up speed s
  | .arpIcmpRequest t port req => Sys2Proof.Machine.execArpIcmpRequest t port req s
  | .ptpIntervalTimer t port timer => Sys2Proof.Machine.execPtpIntervalTimer t port timer s
  | .vmotRestore t mv => Sys2Proof.Machine.execVmotRestore t mv s
  | .perstEdge t rising => Sys2Proof.Machine.execPerstEdge t rising s
  | .twinHbEdge t => Sys2Proof.Machine.execTwinHbEdge t s
  | .twinKillRelease t => Sys2Proof.Machine.execTwinKillRelease t s
  | .storeDmaDone t moved ok data => Sys2Proof.Machine.execStoreDmaDone t moved ok data s
  | .storePinDone t => Sys2Proof.Machine.execStorePinDone t s
  | .gallerySnapshotDone t => Sys2Proof.Machine.execGallerySnapshotDone t s
  | .fwLoadDone t => Sys2Proof.Machine.execFwLoadDone t s
  | .i2cTransferDone t bus result data => Sys2Proof.Machine.execI2cTransferDone t bus result data s
  | .powerStateReached t => Sys2Proof.Machine.execPowerStateReached t s

end Sys2Proof.Machine
end

