-- ==== Sys2Proof/WellFormed.lean ====
section
/-!
DEFINITION. Well-formed commands: the operands lie in the ranges their widths and the larger grade give.
-/
namespace Sys2Proof

open Sys2Proof.Machine

/-- A TS64. -/
def stampOk (t : TS) : Bool := t < 2 ^ 64

/-- A value written to BAR0. -/
def wordOk (v : Nat) : Bool := v < 2 ^ 64

/-- A packet's fields fit their widths (R38, R87), and its endpoint exists. -/
def Packet.wf (p : Packet) : Bool :=
  p.ep.known && stampOk p.stamp && p.gen < 16 && p.flags < 256 && p.stream < 256 && p.seq < 2 ^ 32 && p.payload.length ≤ 1048576

/-- An SHP1 frame's fields fit their widths (R89). -/
def Shp1Frame.wf (f : Shp1Frame) : Bool :=
  f.ep.known && stampOk f.stamp && f.address < 256 && f.command < 256 && f.seq < 256 && f.payload.length ≤ 250

/-- What a fetch brings fits. -/
def Fetched.wf (g : Fetched) : Bool := match g with | .packet len op p => len < 2 ^ 32 && op < 65536 && p.wf | _ => true

/-- A source number is one of Docent's. -/
def FwAct.wf (a : FwAct) : Bool :=
  match a with
  | .configure id word => id < 511 && word < 2 ^ 32
  | .set id => id < 511
  | .withdraw id => id < 511
  | .disable _ => true
  | .enter => true
  | .exit => true

/-- The straps and lists of a start-up. -/
def Boot.wf (b : Boot) : Bool := b.boot < 4 && b.badRanks.all (· < 4) && b.restoreBad.all (· < 4)

/-- A state transfer brings memory and parameters in their canonical form. -/
def copyOk (c : Copy) : Bool := Memory.wf c.mem && rising c.params && stampOk c.boundary

/-- A forwarded item's fields fit. -/
def Forward.wf (f : Forward) : Bool :=
  match f with
  | .command stream seq op flags acc _ => stream < 32 && seq < 2 ^ 32 && op < 65536 && flags < 256 && stampOk acc
  | .reply stream seq op flags result acc eff _ =>
    stream < 32 && seq < 2 ^ 32 && op < 65536 && flags < 256 && result < 256 && stampOk acc && stampOk eff
  | .notice stream seq boundary => stream < 32 && seq < 2 ^ 32 && stampOk boundary
  | .power state boundary => state < 6 && stampOk boundary
  | .step _ _ => true
  | .switch boundary => stampOk boundary
  | .camera pipe _ _ _ _ => pipe < 8
  | .segment _ last => stampOk last
  | .logClear slot => slot < 8
  | .session level gen slot first _ => level < 3 && gen < 16 && slot < 256 && first < 2 ^ 32
  | .close => true

/-- A long packet: its ECC is one of the three outcomes, and its word count fits (R294). -/
def CsiLine.wf (l : CsiLine) : Bool := l.dtype < 64 && l.ecc < 3 && l.words < 65536

/-- A well-formed command. -/
def Instr.wf (i : Instr) : Bool :=
  match i with
  | .nop p => p.wf
  | .heartbeat p => p.wf
  | .sessionChallenge p => p.wf
  | .sessionOpen p => p.wf
  | .sessionClose p => p.wf
  | .sessionLock p => p.wf
  | .replyReread p => p.wf
  | .streamFlush p => p.wf
  | .fence p => p.wf
  | .fenceComplete t stream => stampOk t && stream < 32
  | .deviceInfo p => p.wf
  | .powerRequest p => p.wf
  | .paramRead p => p.wf
  | .paramWrite p => p.wf
  | .paramReadBlock p => p.wf
  | .paramWriteBlock p => p.wf
  | .packetDiscard t _ => stampOk t
  | .shp1Frame f => f.wf
  | .sqTail t stream value => stampOk t && wordOk value && stream < 32
  | .rqHead t ring value => stampOk t && wordOk value && ring < 4
  | .sqEnable t stream value => stampOk t && wordOk value && stream < 32
  | .rqEnable t ring value => stampOk t && wordOk value && ring < 4
  | .bar0RegisterWrite t offset value => stampOk t && wordOk value && offset < 65536
  | .descriptorFetch t stream got => stampOk t && got.wf && stream < 32
  | .replyBatchTimeout t stream => stampOk t && stream < 32
  | .pcieLinkChange t link => stampOk t && link.all fun x => 1 ≤ x.1 && x.1 ≤ 4 && [1, 2, 4].contains x.2
  | .sessionTimeout t inst => stampOk t && inst < 8
  | .nonceExpire t ep => stampOk t && ep.known
  | .beamEnable p => p.wf
  | .beamDisable p => p.wf
  | .exposeList p => p.wf
  | .exposeInline p => p.wf
  | .catalogueMark p => p.wf
  | .catalogueMarkReached t beam => stampOk t && beam < 24
  | .armingComplete t beam => stampOk t && beam < 24
  | .armTimeout t beam => stampOk t && beam < 24
  | .laserIdentReply t beam _ => stampOk t && beam < 24
  | .exposeBegin t beam => stampOk t && beam < 24
  | .listEnd t beam => stampOk t && beam < 24
  | .vectorFetch t beam => stampOk t && beam < 24
  | .vectorPlan t beam => stampOk t && beam < 24
  | .tableLatch t beam => stampOk t && beam < 24
  | .microStepTick t => stampOk t
  | .frameTick t => stampOk t
  | .laserEnChange t _ _ => stampOk t
  | .safetyFault t => stampOk t
  | .laserReadyChange t beam _ => stampOk t && beam < 24
  | .laserAlarm t beam _ => stampOk t && beam < 24
  | .beamParkReached t beam => stampOk t && beam < 24
  | .parkTimeout t beam => stampOk t && beam < 24
  | .rasterCommit p => p.wf
  | .rasterRun p => p.wf
  | .rasterHalt p => p.wf
  | .rasterPush p => p.wf
  | .rasterBlanking t beam => stampOk t && beam < 24
  | .rasRegionEnd t beam => stampOk t && beam < 24
  | .lineSyncEdge t input _ => stampOk t && input < 16
  | .lineBufferFill t beam => stampOk t && beam < 24
  | .rasPscaleWrite p => p.wf
  | .galleryClear p => p.wf
  | .gallerySnapshot p => p.wf
  | .galleryRead p => p.wf
  | .warderStatus p => p.wf
  | .galleryGeometryWrite p => p.wf
  | .galleryDeposit t beam => stampOk t && beam < 24
  | .gallerySweep t => stampOk t
  | .warderReserve t beam => stampOk t && beam < 24
  | .warderZoneExpire t => stampOk t
  | .wardStarve t beam => stampOk t && beam < 24
  | .cnsBind p => p.wf
  | .cnsMode p => p.wf
  | .cnsOrder p => p.wf
  | .cnsStatus p => p.wf
  | .cnsTrace p => p.wf
  | .cnsTraceEnd t slot => stampOk t && slot < 128
  | .cnsOverrun t slots => stampOk t && (slots.all (· < 128))
  | .cnsImplausible t slot => stampOk t && slot < 128
  | .mpGapReset t slot => stampOk t && slot < 128
  | .hySwitch t slot => stampOk t && slot < 128
  | .hyImplausible t slot => stampOk t && slot < 128
  | .headReturnFrame t head _ _ => stampOk t && head < 24
  | .headFrameMissing t head => stampOk t && head < 24
  | .headLinkTimeout t head => stampOk t && head < 24
  | .headLockLost t head => stampOk t && head < 24
  | .hpFaultClear p => p.wf
  | .hpGenWrite p => p.wf
  | .xy2Assign p => p.wf
  | .xy2Frame t port => stampOk t && port < 4
  | .xy2StatusFrame t port _ => stampOk t && port < 4
  | .prfMove p => p.wf
  | .prfChange p => p.wf
  | .prfStop p => p.wf
  | .prfHome p => p.wf
  | .prfSetPos p => p.wf
  | .drvEnable p => p.wf
  | .fbkArmIndex p => p.wf
  | .fbkLatchRead p => p.wf
  | .prfMoveBegin t cell => stampOk t && cell < 8
  | .prfMoveEnd t cell => stampOk t && cell < 8
  | .prfStall t cell => stampOk t && cell < 8
  | .switchEdge t input _ => stampOk t && input < 12
  | .prfFaultClear p => p.wf
  | .fbkFaultClear p => p.wf
  | .fbkTypeWrite p => p.wf
  | .idxModeWrite p => p.wf
  | .fbkEdge t port _ _ => stampOk t && port < 8
  | .fbkIndex t port _ => stampOk t && port < 8
  | .fbkSincosSample t port _ _ => stampOk t && port < 8
  | .fbkHallChange t port _ => stampOk t && port < 8
  | .fbkAbsRead t port stamp _ => stampOk t && stampOk stamp && port < 8
  | .fbkStandstill t port => stampOk t && port < 8
  | .fbkLatchTrigger t port _ => stampOk t && port < 8
  | .stpHoldCurrent t stage => stampOk t && stage < 6
  | .stpOvercurrent t stage => stampOk t && stage < 6
  | .vmotUndervoltage t _ => stampOk t
  | .stpOpenLoad t stage _ => stampOk t && stage < 6
  | .sdFaultInput t cell _ => stampOk t && cell < 2
  | .lampEnable p => p.wf
  | .lampSet p => p.wf
  | .lampTest p => p.wf
  | .lampTestDone t _ _ => stampOk t
  | .lampPattern p => p.wf
  | .lampStrobe p => p.wf
  | .lampI2cXfer p => p.wf
  | .lampPeriodStart t => stampOk t
  | .strobeEdge t => stampOk t
  | .strobeWindowEnd t => stampOk t
  | .pipeStart p => p.wf
  | .pipeStop p => p.wf
  | .pipeBufs p => p.wf
  | .pipeRelease p => p.wf
  | .camCommit p => p.wf
  | .camI2cXfer p => p.wf
  | .pipeStatus p => p.wf
  | .csiFrameStart t port vc _ _ => stampOk t && port < 8 && vc < 16
  | .csiLine t port vc line => stampOk t && line.wf && port < 8 && vc < 16
  | .csiFrameEnd t port vc _ _ => stampOk t && port < 8 && vc < 16
  | .frameTimeout t pipe => stampOk t && pipe < 8
  | .blobPublish t pipe => stampOk t && pipe < 8
  | .frameIndexWrite t pipe => stampOk t && pipe < 8
  | .camCommitDone t pipe _ _ => stampOk t && pipe < 8
  | .camTrigger t pipe => stampOk t && pipe < 8
  | .storeAlloc p => p.wf
  | .storeFree p => p.wf
  | .storeWrite p => p.wf
  | .storeRead p => p.wf
  | .storeDmaIn p => p.wf
  | .storeDmaOut p => p.wf
  | .storeInfo p => p.wf
  | .storePin p => p.wf
  | .loanReturn t _ => stampOk t
  | .dramReadComplete t _ _ _ _ => stampOk t
  | .dramAlert t rank _ _ _ _ => stampOk t && rank < 4
  | .dramRefresh t rank _ => stampOk t && rank < 4
  | .rowHammerRefresh t rank bank row => stampOk t && rank < 4 && bank < 8 && row < 65536
  | .rhWindowClear t channel => stampOk t && channel < 2
  | .dramPageClose t rank bank => stampOk t && rank < 4 && bank < 8
  | .rankPowerDown t rank => stampOk t && rank < 4
  | .zipCompress p => p.wf
  | .zipDecompress p => p.wf
  | .zipJobEnd t engine => stampOk t && engine < 3
  | .timeGet p => p.wf
  | .timeSet p => p.wf
  | .timeLaunch p => p.wf
  | .launchFlush p => p.wf
  | .catSeal p => p.wf
  | .catList p => p.wf
  | .catRelease p => p.wf
  | .servoOffset t => stampOk t
  | .ptpMessage t port _ _ => stampOk t && port < 3
  | .ppsInEdge t k _ => stampOk t && k < 2
  | .servoHoldover t => stampOk t
  | .timeStepApply t => stampOk t
  | .ppsOut t k => stampOk t && k < 2
  | .launchSend t port => stampOk t && port < 3
  | .launchDrop t port => stampOk t && port < 3
  | .twinTimingExchange t t1 t2 t3 t4 => stampOk t && stampOk t1 && stampOk t2 && stampOk t3 && stampOk t4
  | .catSealTimeout t => stampOk t
  | .meltSum t => stampOk t
  | .twinStatus p => p.wf
  | .twinSwitch p => p.wf
  | .twinSeize p => p.wf
  | .twinResync p => p.wf
  | .twinHello t _ => stampOk t
  | .negTimeout t => stampOk t
  | .heartbeatLoss t => stampOk t
  | .twinFaultRise t => stampOk t
  | .twinKillIn t => stampOk t
  | .twinReleaseWord t => stampOk t
  | .takeoverWaitEnd t => stampOk t
  | .twinTakeOwn t => stampOk t
  | .twinForwardReceive t item => stampOk t && item.wf
  | .twinAck t _ _ _ => stampOk t
  | .twinLinkTimeout t => stampOk t
  | .twinDigest t _ => stampOk t
  | .stateTransfer t copy => stampOk t && (match copy with | some c => copyOk c | none => true)
  | .resyncTimeout t => stampOk t
  | .logMirror t _ => stampOk t
  | .logRead p => p.wf
  | .logMark p => p.wf
  | .logChallenge p => p.wf
  | .logClear p => p.wf
  | .keyWrite p => p.wf
  | .keyInfo p => p.wf
  | .faultStatus p => p.wf
  | .faultClear p => p.wf
  | .curatorWatchdog t => stampOk t
  | .docentClaim p => p.wf
  | .docentComplete p => p.wf
  | .docentFwInterrupt t act => stampOk t && act.wf
  | .docentSrcWrite p => p.wf
  | .docentSoft p => p.wf
  | .docentDisableWrite p => p.wf
  | .evtInEdge t input _ => stampOk t && input < 16
  | .ilkChange t input _ => stampOk t && input < 4
  | .gpoWrite p => p.wf
  | .mgtRound t _ _ => stampOk t
  | .analogTrip t => stampOk t
  | .standbyEnter t => stampOk t
  | .standbyRound t _ => stampOk t
  | .aonEdgeLatch t source _ => stampOk t && 1 ≤ source && source ≤ 26
  | .wakeTimer t => stampOk t
  | .vinRise t boot => stampOk t && boot.wf
  | .vinLoss t => stampOk t
  | .resetAssert t => stampOk t
  | .resetRelease t boot => stampOk t && boot.wf
  | .refLoss t _ => stampOk t
  | .blockGate t region block => stampOk t && gateable region block
  | .blockUngate t region block => stampOk t && gateable region block
  | .presetSave p => p.wf
  | .presetFactory p => p.wf
  | .fwLoad p => p.wf
  | .calEntryWrite p => p.wf
  | .calExport p => p.wf
  | .wrdHoldMaxClear p => p.wf
  | .timeSrcWrite p => p.wf
  | .laserSyncEdge t beam => stampOk t && beam < 24
  | .ethLinkChange t port _ _ => stampOk t && port < 3
  | .arpIcmpRequest t port _ => stampOk t && port < 3
  | .ptpIntervalTimer t port _ => stampOk t && port < 3
  | .vmotRestore t _ => stampOk t
  | .perstEdge t _ => stampOk t
  | .twinHbEdge t => stampOk t
  | .twinKillRelease t => stampOk t
  | .storeDmaDone t _ _ _ => stampOk t
  | .storePinDone t => stampOk t
  | .gallerySnapshotDone t => stampOk t
  | .fwLoadDone t => stampOk t
  | .i2cTransferDone t bus _ _ => stampOk t && (bus == 8 || bus < 8)
  | .powerStateReached t => stampOk t

end Sys2Proof
end

