-- ==== Sys2Proof/Safety.lean ====
section
/-!
DEFINITION. What counts as a safe state, and when a module takes an event or a host command, in the terms that statements use.
-/
namespace Sys2Proof.Machine

open Sys2Proof

/-- No gate of any beam is high while LASER_EN_A or LASER_EN_B is low or a SAFETY fault is in effect (R122, R124). -/
def State.GateSafe (s : State) : Prop := ∀ b ∈ s.beams, b.laser.gate = true → s.gateAllowed = true

/-! ## Events -/

/-- A module that has power and whose clocks run. -/
def State.up (s : State) : Bool := s.power.state ≠ 0 && !s.clockless

/-- What a next state holds after an event whose own effect has led to s: what follows every event, and the unclocked path. -/
def State.closed (s : State) : State := s.finish.gatePath

/-- An event c of a module that is up completes: whenever `due` holds of the state a in which the event at t finds the module, exec
answers the state that `effect` makes of a, and what follows every event. `there`: the unit exists on the grade. -/
def UnitEventCompletes (there : State → Prop) (c : TS → Instr) (due : State → TS → Bool) (effect : State → TS → State) : Prop :=
  ∀ (s : State) (t : TS), there s → s.up = true → due (s.arrived t) t = true →
    exec (c t) s = .next (effect (s.arrived t) t).closed

/-- An event that names no unit, or one that every grade has. -/
def EventCompletes (c : TS → Instr) (due : State → TS → Bool) (effect : State → TS → State) : Prop :=
  UnitEventCompletes (fun _ => True) c due effect

/-- An event of beam n, or of its head port. -/
def BeamEventCompletes (n : Nat) (c : TS → Instr) (due : State → TS → Bool) (effect : State → TS → State) : Prop :=
  UnitEventCompletes (fun s => n < s.nBeams) c due effect

/-- An event of camera pipeline p. -/
def PipeEventCompletes (p : Nat) (c : TS → Instr) (due : State → TS → Bool) (effect : State → TS → State) : Prop :=
  UnitEventCompletes (fun s => p < s.nPipes) c due effect

/-- A module that has power while its clocks stand: in STANDBY, in reset, after the analog trip. -/
def State.stopped (s : State) : Bool := s.power.state ≠ 0 && s.clockless

/-- The state in which an event at t finds a module whose clocks stand. -/
def State.stood (s : State) (t : TS) : State := State.aonPass { s with out := [] } t

/-- An event c of a module whose clocks stand completes. -/
def StoppedEventCompletes (c : TS → Instr) (due : State → TS → Bool) (effect : State → TS → State) : Prop :=
  ∀ (s : State) (t : TS), s.stopped = true → due (s.stood t) t = true → exec (c t) s = .next (effect (s.stood t) t).gatePath

/-! ## Return frames of a head -/

/-- The symbols of the code groups that reach port n from the SOF on, at the running disparity that the port has read (R212). -/
def State.received (a : State) (n : Nat) (codes : List (BitVec 10)) : List (Option Sym) :=
  let groups := codes.map (·.toNat)
  (decodeSyms ((a.head n).rxRd.getD (groups.headD 0 = encodeSym true K27_7)) groups).1

/-- The port with what it keeps of the line itself: the running disparity and the idle commas in a row. -/
def State.lineRead (a : State) (n : Nat) (codes : List (BitVec 10)) : State :=
  let groups := codes.map (·.toNat)
  let ss := a.received n codes
  let rd := (decodeSyms ((a.head n).rxRd.getD (groups.headD 0 = encodeSym true K27_7)) groups).2
  a.updHead n fun h =>
    { h with rxRd := if groups.length = 320 then some rd else none,
             commas := idleCommas ss (if a.rg P.HP_GEN n = 1 then 268 else 17) (if ss.all (·.isSome) then h.commas else 0) }

/-- Every code group is valid, the frame begins with its SOF, and the CRC of its real-time section of `len` octets holds (R213, R214,
R225, R241). -/
def sectionGood (ss : List (Option Sym)) (len : Nat) : Bool :=
  ss.all (·.isSome) && ((ss.getD 0 none).any fun y => y = K27_7) && allData ((ss.drop 1).take len) &&
    u16 (octets ss) (len - 1) = crc16 (field (octets ss) 1 (len - 2))

/-! ## Host commands -/

/-- The state in which a packet of session i finds the module. -/
def State.heard (s : State) (p : Packet) (i : Nat) : State :=
  let a := s.arrived p.stamp
  a.updSession i fun x => { x with lastAt := a.now }

/-- The sequence of a packet of session i; the 16 bits of SHP2 are extended (R87). -/
def State.seqNo (s : State) (p : Packet) (i : Nat) : Nat :=
  if p.gen = 2 then extendSeq 16 (((s.heard p i).session i).stream p.stream).expected p.seq else p.seq % 2 ^ 32

/-- The command of a packet as its interpreter sees it. -/
def State.ctxOf (s : State) (op : Nat) (p : Packet) (i : Nat) : Ctx :=
  let a := s.heard p i
  ⟨i, p.stream, s.seqNo p i, a.host.ordCount, op, a.now, p.flags, p.payload, false⟩

/-- The state once the command has been consumed (R47). -/
def State.taken (s : State) (op : Nat) (p : Packet) (i : Nat) : State :=
  let a := s.heard p i
  a.consume i p.stream (s.seqNo p i) op p.flags a.now p.payload false

/-- The state in which its interpreter begins it: what it causes is stamped after its acceptance (R82). -/
def State.begun (s : State) (op : Nat) (p : Packet) (i : Nat) : State :=
  let b := (s.taken op p i).popCommand i p.stream
  let b := if i = 0 then b.updTwin fun t => { t with held := t.held.filter fun h => !(h.stream = p.stream && h.seq = s.seqNo p i) }
    else b
  b.setCause (some (s.heard p i).now)

/-- A packet of session i is in sequence, nothing else waits, and its command is begun at once (R42, R47, R50, R68). -/
def State.reaches (s : State) (op : Nat) (p : Packet) (i : Nat) : Bool :=
  let a := s.arrived p.stamp
  let h := s.heard p i
  let q := (h.session i).stream p.stream
  s.up && p.ep.known && a.portCarries p.ep [udpShp3, udpShp2] && !a.packetDiscarded p && (a.sessionAt p.ep = some i) &&
  ((h.session i).gen = p.gen ∧ ¬(op = 0x0003 ∧ p.stream = 0)) &&
  p.trailerOk && q.refused.isEmpty && s.seqNo p i = q.expected && q.hasRoom && !h.backlogged i &&
  (s.taken op p i).up && ((s.taken op p i).waitingCount = 1) &&
  (s.taken op p i).nextCommand = some (s.ctxOf op p i)

/-- The same, and no check before the opcode's own rejects the command. -/
def State.takes (s : State) (op : Nat) (p : Packet) (i : Nat) : Bool :=
  s.reaches op p i && ((s.begun op p i).checkBad (s.ctxOf op p i)).isNone

/-- A packet of session i is consumed in sequence, and no command may begin: it waits. -/
def State.takesHeld (s : State) (op : Nat) (p : Packet) (i : Nat) : Bool :=
  let a := s.arrived p.stamp
  let h := s.heard p i
  let q := (h.session i).stream p.stream
  s.up && p.ep.known && a.portCarries p.ep [udpShp3, udpShp2] && !a.packetDiscarded p && (a.sessionAt p.ep = some i) &&
  ((h.session i).gen = p.gen ∧ ¬(op = 0x0003 ∧ p.stream = 0)) &&
  p.trailerOk && q.refused.isEmpty && s.seqNo p i = q.expected && q.hasRoom && !h.backlogged i &&
  (s.taken op p i).up && (s.taken op p i).nextCommand.isNone

/-- What a next state holds after a host command whose own effect has led to s. -/
def State.answered (s : State) : State := ((((s.setCause none).interpretAll 1).afterRun).gpoMove).gatePath

/-- A host command of opcode op completes: whenever its packet is taken and `able` holds of the state b in which its interpreter
begins it, exec answers the state that `effect` makes of b, and what follows every event. -/
def CommandCompletes (c : Packet → Instr) (op : Nat) (able : State → Ctx → Bool) (effect : State → Ctx → State) : Prop :=
  ∀ (s : State) (p : Packet) (i : Nat), s.takes op p i = true → able (s.begun op p i) (s.ctxOf op p i) = true →
    exec (c p) s = .next (effect (s.begun op p i) (s.ctxOf op p i)).answered

/-! ## Parameter writes -/

/-- A PARAM_WRITE passes every check of R76 and R506. -/
def State.mayWrite (b : State) (c : Ctx) : Bool :=
  (b.entryBad (b.afterWrites [(u32 c.payload 0, u32 c.payload 4)]) c.sess c.stream (u32 c.payload 0) (u32 c.payload 4)).isNone

/-- A PARAM_WRITE of the data plane waits for its control-frame boundary (R26). -/
def State.queueWrite (b : State) (c : Ctx) : State :=
  { b with writes := b.writes ++
      [⟨b.boundary, c.sess, c.stream, c.seq, c.op, (b.targets (u32 c.payload 0)).map fun q => (q, u32 c.payload 4), c.payload⟩] }

/-- A data-plane parameter row completes when its write is queued for the boundary. -/
def WriteCompletes (c : Packet → Instr) (pid : Nat → Bool) : Prop :=
  CommandCompletes c 0x0101 (fun b x => b.mayWrite x && pid (u32 x.payload 0) && pidRegion (u32 x.payload 0) ≠ 0) State.queueWrite

/-- A management parameter row completes when its write has acted, and is decided OK with the value the parameter then reads. -/
def ManageCompletes (c : Packet → Instr) (pid : Nat → Bool) (act : State → Ctx → Nat → State) : Prop :=
  CommandCompletes c 0x0101
    (fun b x => b.mayWrite x && pid (u32 x.payload 0) && !isBroadcast (u32 x.payload 0) && pidRegion (u32 x.payload 0) = 0 &&
      u32 x.payload 0 ≠ P.SYS_FW_LOAD)
    (fun b x =>
      let s := act b x (u32 x.payload 4)
      s.decide x.k rOK s.now (le 4 (s.paramValue (u32 x.payload 0))))

end Sys2Proof.Machine
end

