-- ==== Sys2Proof/Certificates/Slice0/Obligations.lean ====
section
/-!
DEFINITION. The statements for the provers.
-/

open Sys2Proof Sys2Proof.Machine


/-! ## The machine as a whole (R2, R29, R49, R88, R122, R124, R246) -/

/-- One step runs the command at the front of the queue on the state with the queue's rest; an empty queue idles (log entry 2). -/
def Obligations.StepRunsTheFront : Prop :=
  (∀ (s : State) (c : Instr) (rest : List Instr), s.pending = c :: rest → Machine.step s = exec c { s with pending := rest }) ∧
  ∀ s : State, s.pending = [] → Machine.step s = .next s

/-- R122, R124: the gate rule as an invariant of every step: from any state in which no gate is high while an enable is low or a SAFETY fault is in
effect, every step leads to such a state; and every command leads to such a state from any state whatever. -/
def Obligations.GatesStaySafe : Prop :=
  (∀ s s' : State, s.GateSafe → Machine.step s = .next s' → s'.GateSafe) ∧
  ∀ (c : Instr) (s s' : State), exec c s = .next s' → s'.GateSafe

/-- What State.reset holds: no gate is high, nothing waits, the queue is empty, memory lists nothing, and a register nothing has written reads its
reset value; a register written with a 32-bit value reads that value, and every other register as before. -/
def Obligations.RegistersHoldTheirValues : Prop :=
  State.reset.GateSafe ∧ State.reset.pending = [] ∧ State.reset.store.mem = [] ∧ State.reset.writes = [] ∧ State.reset.faults = [] ∧
  (∀ pid, State.reset.reg pid = regReset false pid) ∧
  (∀ (s : State) (pid v : Nat), v < 2 ^ 32 → (s.setReg pid v).reg pid = v) ∧
  (∀ (s : State) (pid q v : Nat), q ≠ pid → (s.setReg pid v).reg q = s.reg q) ∧
  ∀ (s : State) (pid v : Nat), { s.setReg pid v with params := s.params } = s

/-- Every command answers a next state, or the one fault: a unit that the hardware does not have. On the larger grade every well-formed command
answers a next state. -/
def Obligations.EveryCommandAnswers : Prop :=
  (∀ (c : Instr) (s : State), (∃ t, exec c s = .next t) ∨ ∃ u, exec c s = .fault (.noSuchUnit u)) ∧
  ∀ (c : Instr) (s : State), c.wf = true → s.straps.grade = .yq2460 → ∃ t, exec c s = .next t

/-- A module that is OFF does nothing but start when its supply rises: only its outputs of the step before are gone. -/
def Obligations.OffDoesNothing : Prop :=
  ∀ (c : Instr) (s s' : State), s.power.state = 0 → (∀ t b, c ≠ .vinRise t b) → exec c s = .next s' →
    s' = State.gatePath { s with out := [] }

/-- R49: a command that its interpreter rejects is decided with the result, and its body does not run. A decision touches the slot of its command
only, and a command that is decided already keeps its reply. -/
def Obligations.CommandsAreDecidedOnce : Prop :=
  (∀ (s : State) (op : Nat) (p : Packet) (i r : Nat), s.reaches op p i = true →
    (s.begun op p i).checkBad (s.ctxOf op p i) = some r →
    s.hostCommand op p = .next ((s.begun op p i).decide (s.ctxOf op p i).k r (s.begun op p i).now []).answered) ∧
  ∀ (b : State) (k : Ticket) (res eff : Nat) (payload : List Byte),
    let d := b.decide k res eff payload
    { d with host := b.host } = b ∧
    (∀ i j, (i ≠ k.sess ∨ j ≠ k.stream) → (d.session i).stream j = (b.session i).stream j) ∧
    (∀ q, q ≠ k.seq → ((d.session k.sess).stream k.stream).slot? q = ((b.session k.sess).stream k.stream).slot? q) ∧
    (∀ sl, ((b.session k.sess).stream k.stream).slot? k.seq = some sl →
      ((d.session k.sess).stream k.stream).slot? k.seq =
        some (if sl.dec = none then { sl with dec := some ⟨res, eff, payload, b.now⟩ } else sl))

/-- R88: a session keeps the generation of its SESSION_OPEN; a packet of the other generation is answered NO_AUTH, and no stream consumes it. -/
def Obligations.OtherGenerationIsRefused : Prop :=
  (∀ (s : State) (p : Packet) (level slot first : Nat) (resume : Bool),
    let o := s.openNow p level slot first resume
    o.2.host.sessions.length = 8 → (o.2.session o.1).gen = p.gen) ∧
  ∀ (s : State) (c : Packet → Instr) (op i : Nat) (p : Packet),
    let a := s.arrived p.stamp
    let h := s.heard p i
    (∀ q t, exec (c q) t = t.hostCommand op q) → s.up = true → p.ep.known = true → a.portCarries p.ep [udpShp3, udpShp2] = true →
    a.packetDiscarded p = false → a.sessionAt p.ep = some i → ¬(op = 0x0003 ∧ p.stream = 0) → (h.session i).gen ≠ p.gen →
    exec (c p) s = .next (h.answer p op none rNOAUTH []).closed ∧
      ∀ k, ((h.answer p op none rNOAUTH []).session i).stream k = (h.session i).stream k

/-- R2: the place of a beam in its block, as its source path names it, and its stream. -/
def Obligations.BeamsHaveTheirPlaces : Prop :=
  ∀ n < 24,
    (∀ s : State, pathRegion (s.beamSrc n) = 1 ∧ pathBlock (s.beamSrc n) = n / 4 ∧ pathCell (s.beamSrc n) = n % 4) ∧
    (∀ c : Ctx, c.stream = n + 1 → c.beam = n) ∧
    ∀ op, op / 256 = 0x10 ∨ op / 256 = 0x11 → streamTakes (n + 1) op = true

/-! ## SHP: sessions, streams and parameters (R38-R89) -/

/-- R69, R71, R72, R76, R83, R85, R86: the queries of a session, the lock and a nonce are decided at once; closing a session, the re-read of retained
replies, the flush of a stream; a FENCE waits until FENCE_COMPLETE finds the work of the streams it names drained. Completes: nop, heartbeat,
sessionChallenge, sessionLock, deviceInfo, sessionClose, replyReread, streamFlush, fence, fenceComplete. -/
def Obligations.SessionCommandsComplete : Prop :=
  CommandCompletes .nop 0x0000 (fun _ _ => true) (fun b c => b.decide c.k rOK b.now []) ∧
  CommandCompletes .heartbeat 0x0001 (fun _ _ => true) (fun b c => b.decide c.k rOK b.now b.heartbeatReply) ∧
  CommandCompletes .sessionChallenge 0x0002 (fun _ _ => true)
    (fun b c => (b.giveNonce false (b.session c.sess).ep c.sess).2.decide c.k rOK b.now (nonceBytes b.host.nonceCount)) ∧
  CommandCompletes .sessionLock 0x0005 (fun _ c => c.sess = 0)
    (fun b c => (b.updHost fun h => { h with locked := true }).decide c.k rOK b.now []) ∧
  CommandCompletes .deviceInfo 0x0009 (fun _ _ => true)
    (fun b c => b.decide c.k rOK b.now
      (le 2 b.gradeCode ++ le 2 3 ++ le 8 Config.dieSerial ++ le 4 (b.fwVersion 0) ++ le 4 (b.fwVersion 1) ++
        le 1 (if b.power.recovery then 0xFF else b.power.fwRun) ++ zeros 3)) ∧
  CommandCompletes .sessionClose 0x0004 (fun _ _ => true)
    (fun b c => (b.decide c.k rOK b.now []).closeSession c.sess 1 (c.ord + 1)) ∧
  CommandCompletes .replyReread 0x0006
    (fun _ c => u8 c.payload 0 ≤ 31 && 1 ≤ u32 c.payload 8 && u32 c.payload 8 ≤ 256)
    (fun b c =>
      let got := rereadSlots ((b.session c.sess).stream (u8 c.payload 0)).slots (u32 c.payload 4) (u32 c.payload 8)
      let s := got.foldl (fun s sl => s.redeliver c.sess (u8 c.payload 0) sl) b
      s.decide c.k rOK s.now (le 4 got.length)) ∧
  CommandCompletes .streamFlush 0x0007 (fun _ c => 1 ≤ u8 c.payload 0 && u8 c.payload 0 ≤ 31)
    (fun b c =>
      let r := b.flushStream (u8 c.payload 0) (bit (u8 c.payload 1) 0)
      let ends := seqEnds ((r.2.session 0).stream (u8 c.payload 0)).expected r.1
      r.2.decide c.k rOK r.2.now (le 4 r.1.length ++ le 4 ends.1 ++ le 4 ends.2)) ∧
  (∀ (s : State) (p : Packet) (i : Nat), s.takesHeld 0x0008 p i = true →
    exec (.fence p) s = .next (((s.taken 0x0008 p i).afterRun).gpoMove).gatePath) ∧
  ∀ k w r, EventCompletes (fun t => .fenceComplete t k)
    (fun a _ => k < 32 && ((a.session 0).stream k).waiting = w :: r && a.fenceReady (w.ctx 0 k))
    (fun a _ => ((a.popCommand 0 k).updTwin fun t =>
      { t with held := t.held.filter fun h => !(h.stream = k && h.seq = w.seq) }).decide ⟨0, k, w.seq⟩ rOK a.now [])

/-- R70: SESSION_OPEN at level OBSERVE needs no tag; at OPERATE and INTEGRATE, one that the key slot confirms. It is not consumed, and its reply
carries the grade, the instance and the expected sequences. Completes: sessionOpen. -/
def Obligations.SessionOpens : Prop :=
  ∀ (s : State) (p : Packet),
    let a := s.arrived p.stamp
    let g := match a.sessionAt p.ep with | some i => s.heard p i | none => a
    let h := g.setCause (some (max g.now (g.log.cause.getD g.now)))
    let level := u8 p.payload 0
    let n := h.takeNonce false p.ep 0
    let b := if level = 0 then h else n.2
    s.up = true → p.ep.known = true → a.portCarries p.ep [udpShp3, udpShp2] = true → a.packetDiscarded p = false → p.stream = 0 →
    p.trailerOk = true → h.power.started = true → flagsBad p.flags 0x0003 p.gen = false → p.payload.length = 24 → level ≤ 2 →
    u8 p.payload 1 ≤ 7 → ¬(p.gen = 2 ∧ level = 2) →
    (level = 0 ∨ (b.twin.state ≠ 3 ∧ b.straps.serialHost = false ∧
      b.tagOk (u8 p.payload 1) level n.1 [BitVec.ofNat 8 level, BitVec.ofNat 8 (u8 p.payload 1)] (field p.payload 8 16) = true)) →
    b.openBad p.ep level (bit (u8 p.payload 2) 0) = none →
    let o := b.openNow p level (u8 p.payload 1) (u32 p.payload 4) (bit (u8 p.payload 2) 0)
    exec (.sessionOpen p) s = .next (((o.2.answer p 0x0003 (some o.1) rOK (o.2.openReply o.1)).setCause g.log.cause).closed)

/-- R76, R77: a readable PID gives its value, and up to 64 of them theirs, in the order asked. Completes: paramRead, paramReadBlock. -/
def Obligations.ParameterReadsComplete : Prop :=
  CommandCompletes .paramRead 0x0100 (fun b c => (b.readBad c.stream (u32 c.payload 0)).isNone)
    (fun b c => b.decide c.k rOK b.now (le 4 (b.paramValue (u32 c.payload 0)))) ∧
  CommandCompletes .paramReadBlock 0x0102
    (fun b c =>
      let pids := (List.range (u32 c.payload 0)).map fun i => u32 c.payload (4 + 4 * i)
      1 ≤ u32 c.payload 0 && u32 c.payload 0 ≤ 64 && pids.all fun q => (b.readBad c.stream q).isNone)
    (fun b c => b.decide c.k rOK b.now
      (((List.range (u32 c.payload 0)).map fun i => u32 c.payload (4 + 4 * i)).flatMap fun q => le 4 (b.paramValue q)))

/-- R26, R76, R77: a write of the data plane waits for its control-frame boundary; one of the management plane acts at once. Completes: paramWrite,
paramWriteBlock. -/
def Obligations.ParameterWritesComplete : Prop :=
  WriteCompletes .paramWrite (fun _ => true) ∧
  (∀ pid, pidRegion pid = 0 → ManageCompletes .paramWrite (fun q => q = pid) (fun b x v => b.applyParam x.k false pid v)) ∧
  CommandCompletes .paramWriteBlock 0x0103
    (fun b c =>
      let es := blockEntries c.payload
      1 ≤ es.length && es.length ≤ 64 && (firstFailing (fun (e : Nat × Nat) => b.entryBad (b.afterWrites es) c.sess c.stream e.1 e.2) 0 es).isNone &&
        ((b.afterWrites es).blockLoadBad es).isNone && es.any fun e => pidRegion e.1 ≠ 0)
    (fun b c => { b with writes := b.writes ++ [⟨b.boundary, c.sess, c.stream, c.seq, 0x0103,
      (blockEntries c.payload).flatMap fun e => (b.targets e.1).map fun q => (q, e.2), c.payload⟩] })

/-- R41, R42, R71, R69: what has no reply: a discarded packet is counted; a session times out; a nonce expires. Completes: packetDiscard,
sessionTimeout, nonceExpire, replyBatchTimeout. -/
def Obligations.SessionEventsComplete : Prop :=
  (∀ cause, EventCompletes (fun t => .packetDiscard t cause) (fun _ _ => true) (fun a _ => a.bumpBy P.BLK_FRAME_ERR 0 1)) ∧
  (∀ i, EventCompletes (fun t => .sessionTimeout t i)
    (fun a _ => i < 8 && (a.session i).isOpen && a.rg P.SESS_TMO i ≠ 0 && a.now ≥ (a.session i).lastAt + a.rg P.SESS_TMO i * 1000000)
    (fun a _ => a.closeSession i 2 0)) ∧
  (∀ ep, EventCompletes (fun t => .nonceExpire t ep) (fun _ _ => ep.known)
    (fun a _ => a.updHost fun h => { h with nonces := h.nonces.filter fun n => n.ep ≠ ep || a.now ≤ n.issued + 10000000000 })) ∧
  (∀ k, EventCompletes (fun t => .replyBatchTimeout t k) (fun _ _ => k < 32) (fun a _ => a))

/-- R59, R60, R62: the rings' doorbells, enables and registers, a fetched descriptor, and the PCIe link. Completes: sqTail, rqHead, sqEnable,
rqEnable, bar0RegisterWrite, descriptorFetch, pcieLinkChange. -/
def Obligations.RingEventsComplete : Prop :=
  (∀ k v, EventCompletes (fun t => .sqTail t k v) (fun a _ => k < 32 && v < 2 ^ (a.sub k).size)
    (fun a _ => a.updSub k fun r => { r with tail := v })) ∧
  (∀ q v, EventCompletes (fun t => .rqHead t q v) (fun a _ => q < 4 && v < (a.ring q).bytes)
    (fun a _ => a.updRing q fun r => { r with headDb := v })) ∧
  (∀ k v, EventCompletes (fun t => .sqEnable t k v) (fun a _ => k < 32 && bit v 0 && !(a.sub k).enabled)
    (fun a _ => a.updSub k fun r => { r with enabled := true, tail := 0, head := 0, stopped := false })) ∧
  (∀ q v, EventCompletes (fun t => .rqEnable t q v) (fun a _ => q < 4 && bit v 0 && !(a.ring q).enabled)
    (fun a _ => (a.updRing q fun r => { r with enabled := true, headDb := 0, tail := 0, wraps := 0 }).tailBack q)) ∧
  (∀ k v, EventCompletes (fun t => .bar0RegisterWrite t (0x1008 + 32 * k) v) (fun a _ => k < 32 && !(a.sub k).enabled && 6 ≤ v % 16 && v % 16 ≤ 12)
    (fun a _ => a.updSub k fun r => { r with size := v % 16 })) ∧
  (∀ k op p, EventCompletes (fun t => .descriptorFetch t k (.packet (packetWire p) op p))
    (fun a _ => k < 32 && (a.sub k).enabled && (a.sub k).head ≠ (a.sub k).tail && a.host.pcieUp)
    (fun a _ =>
      let head := ((a.sub k).head + 1) % 2 ^ (a.sub k).size
      ((a.updSub k fun r => { r with head := head }).put (.hostWrite (a.sub k).headWb (le 4 head))).packet op { p with ep := .pcie })) ∧
  (∀ k, EventCompletes (fun t => .descriptorFetch t k .corrupt)
    (fun a _ => k < 32 && (a.sub k).enabled && (a.sub k).head ≠ (a.sub k).tail && a.host.pcieUp)
    (fun a _ =>
      let head := ((a.sub k).head + 1) % 2 ^ (a.sub k).size
      ((a.updSub k fun r => { r with head := head }).put (.hostWrite (a.sub k).headWb (le 4 head))).bumpBy P.BLK_FRAME_ERR 0 1)) ∧
  (∀ gen width, EventCompletes (fun t => .pcieLinkChange t (some (gen, width))) (fun _ _ => true)
    (fun a _ => a.updHost fun h => { h with pcieUp := true, pcieGen := gen, pcieWidth := width })) ∧
  EventCompletes (fun t => .pcieLinkChange t none) (fun _ _ => true)
    (fun a _ => a.updHost fun h => { h with pcieUp := false, pcieGen := 0, pcieWidth := 0 })

/-- R89: a good SHP1 frame takes the place of its sequence in the stream of its address: with the command that its byte and payload stand for, or,
where they stand for none or for one that is not allowed there, with a flag that R39 rejects, so that it is decided BAD_PARAM (the mapping of the
bytes is a free function, log entry 45). Completes: shp1Frame. -/
def Obligations.Shp1FrameCompletes : Prop :=
  ∀ (s : State) (f : Shp1Frame) (stream : Nat),
    let a := s.arrived f.stamp
    let b := a.shp1Open f.ep
    let h := b.updSession 0 fun x => { x with lastAt := b.now }
    let q := (h.session 0).stream stream
    let r := if q.slots.isEmpty then h.updStream 0 stream fun q => { q with expected := f.seq } else h
    let got : Nat × List Byte × Nat := match Config.shp1Command f.command f.payload with
      | some (op, payload) => (op, payload, if shp1Allowed stream op payload then 0 else 1)
      | none => (0, [], 1)
    s.up = true → f.ep.known = true → a.straps.serialHost = true → a.portCarries f.ep [udpShp1] = true → f.crcOk = true →
    f.payload.length ≤ 250 → a.power.started = true → a.twin.state ≠ 3 → shp1Stream f.address = some stream → (b.session 0).ep = f.ep →
    exec (.shp1Frame f) s = .next (State.closed
      (r.sequence 0 ⟨f.ep, f.stamp, 1, got.2.2, stream, f.seq, true, got.2.1⟩ got.1
        (extendSeq 8 ((r.session 0).stream stream).expected f.seq))) ∧
    flagsBad 1 got.1 1 = true


/-! ## Exposure (R90-R134) -/

/-- R127, R128: BEAM_ENABLE arms a beam from OFF, resumes an interrupted one, waits behind a shutdown, or is OK where the beam is already on its way;
BEAM_DISABLE joins the cell's waiting controls. Completes: beamEnable, beamDisable. -/
def Obligations.BeamControlsComplete : Prop :=
  CommandCompletes .beamEnable 0x1000
    (fun b c => c.beam < b.nBeams && b.rg P.BEAM_FC_ACC c.beam ≠ noAcc && (b.beam c.beam).ctl.isEmpty && (b.beam c.beam).st = 0)
    (fun b c => b.startArming c.beam ⟨true, bit (u8 c.payload 0) 0, 0, c.sess, c.stream, c.seq, c.ord, false, none⟩) ∧
  CommandCompletes .beamEnable 0x1000
    (fun b c => c.beam < b.nBeams && b.rg P.BEAM_FC_ACC c.beam ≠ noAcc && (b.beam c.beam).ctl.isEmpty && (b.beam c.beam).st = 5 &&
      bit (u8 c.payload 0) 0 && b.intCause c.beam = 0)
    (fun b c => (b.resumeBeam c.beam).decide c.k rOK b.now (le 1 3 ++ zeros 3)) ∧
  CommandCompletes .beamEnable 0x1000
    (fun b c => c.beam < b.nBeams && b.rg P.BEAM_FC_ACC c.beam ≠ noAcc && ((b.beam c.beam).st = 4 || !(b.beam c.beam).ctl.isEmpty))
    (fun b c =>
      ((b.decide c.k rQUEUED neverTS (le 1 (b.beam c.beam).st ++ zeros 3)).updBeam c.beam fun x =>
        { x with ctl := x.ctl ++ [⟨true, bit (u8 c.payload 0) 0, 0, c.sess, c.stream, c.seq, c.ord, true, none⟩] }).ctl c.beam) ∧
  CommandCompletes .beamEnable 0x1000
    (fun b c => c.beam < b.nBeams && b.rg P.BEAM_FC_ACC c.beam ≠ noAcc && (b.beam c.beam).ctl.isEmpty &&
      1 ≤ (b.beam c.beam).st && (b.beam c.beam).st ≤ 3)
    (fun b c => b.decide c.k rOK b.now (le 1 (b.beam c.beam).st ++ zeros 3)) ∧
  CommandCompletes .beamDisable 0x1001
    (fun b c => c.beam < b.nBeams && u8 c.payload 0 ≤ 2)
    (fun b c => (b.updBeam c.beam fun y =>
        { y with ctl := y.ctl ++ [⟨false, false, u8 c.payload 0, c.sess, c.stream, c.seq, c.ord, false, none⟩] }).ctl c.beam)

/-- R95, R96: an exposure command of an open cell joins its queue with its tag, and is decided OK_QUEUED; a list is put on loan. Completes:
exposeList, exposeInline, catalogueMark. -/
def Obligations.ExposuresComplete : Prop :=
  CommandCompletes .exposeList 0x1002
    (fun b c =>
      let acc := u32 c.payload 0
      c.beam < b.nBeams && (accPool acc = 0 || accPool acc = 6) && u32 c.payload 4 % 8 = 0 && u32 c.payload 8 % 8 = 0 &&
        u32 c.payload 8 ≠ 0 && u32 c.payload 4 + u32 c.payload 8 ≤ ((b.acc? acc).map (·.size)).getD 0 && (b.loanCheck acc).isNone &&
        !(b.beam c.beam).closed)
    (fun b c => (b.takeLoan (u32 c.payload 0)).enqueue c (u32 c.payload 12) (.list (u32 c.payload 0) (u32 c.payload 4) (u32 c.payload 8))) ∧
  CommandCompletes .exposeInline 0x1003
    (fun b c => c.beam < b.nBeams && (c.payload.drop 4).length % 8 = 0 && !(b.beam c.beam).closed)
    (fun b c => b.enqueue c (u32 c.payload 0) (.inline (c.payload.drop 4))) ∧
  CommandCompletes .catalogueMark 0x1004
    (fun b c => c.beam < b.nBeams && !(b.beam c.beam).closed)
    (fun b c => b.enqueue c (u32 c.payload 0) .mark)

/-- What joining a beam's queue leaves (R95): one more command at its end, the reply OK_QUEUED without an effective TS64; the other beams, the
parameters, memory, motion and the pipelines are as before. -/
def Obligations.EnqueueEffect : Prop :=
  ∀ (s : State) (c : Ctx) (tag : Nat) (kind : ExpKind), c.beam < s.beams.length →
    ((s.enqueue c tag kind).beam c.beam).cmds = (s.beam c.beam).cmds ++ [⟨c.ord, c.seq, tag, kind, false, 0, 0, false, 0, 0, 0, 0, s.now⟩] ∧
    (∀ m, m ≠ c.beam → (s.enqueue c tag kind).beam m = s.beam m) ∧
    (s.enqueue c tag kind).params = s.params ∧ (s.enqueue c tag kind).store = s.store ∧ (s.enqueue c tag kind).mot = s.mot ∧
    (s.enqueue c tag kind).pipes = s.pipes ∧ (s.enqueue c tag kind).gal = s.gal ∧ (s.enqueue c tag kind).log = s.log ∧
    (∀ k acc off n, (s.enqueue c tag kind).memBytes acc off n = s.memBytes acc off n ∧ (s.enqueue c tag kind).reg k = s.reg k)

/-- R119, R126, R231: how a beam leaves ARMING and STOPPING. Completes: armingComplete, armTimeout, laserIdentReply, beamParkReached, parkTimeout. -/
def Obligations.BeamTransitionsComplete : Prop :=
  (∀ n, BeamEventCompletes n (fun t => .armingComplete t n)
    (fun a _ => (a.beam n).st = 1 && a.headReady n && a.beamAwake n && (a.rg P.LSR_READY_REQ n = 0 || a.readyActive n) &&
      (a.rg P.LSR_MODE n ≠ 2 || (a.beam n).laser.identOk) && (a.beam n).arming.isSome)
    (fun a _ =>
      let s := match (a.beam n).arming with | some c => a.decide ⟨c.sess, c.stream, c.seq⟩ rOK a.now (le 1 2 ++ zeros 3) | none => a
      ((s.updBeam n fun b => { b with arming := none }).beamTo n 2 0).ctl n)) ∧
  (∀ n, BeamEventCompletes n (fun t => .armTimeout t n)
    (fun a _ => (a.beam n).st = 1 && a.now ≥ (a.beam n).armAt + a.rg P.BEAM_ARM_TMO n * 1000000)
    (fun a _ => a.armFail n true)) ∧
  (∀ n f, BeamEventCompletes n (fun t => .laserIdentReply t n (some f))
    (fun a _ => (a.beam n).st = 1 && a.rg P.LSR_MODE n = 2 && !(a.beam n).laser.identOk &&
      (match (a.beam n).laser.identAt with | some b => b + 2560 ≤ a.now && a.now < b + 5120 | none => false) &&
      bit f 30 && !bit f 31 && bit f 1 && bits f 5 2 == crc4 (bitsMsb 1 1 ++ bitsMsb 24 (bits f 29 6)) 0)
    (fun a _ => (a.setRg P.LSR_SER_ID n (bits f 29 6)).updBeam n fun b => { b with laser := { b.laser with identOk := true } })) ∧
  (∀ n h p, BeamEventCompletes n (fun t => .beamParkReached t n)
    (fun a _ => (a.beam n).st = 4 && (a.beam n).shut = some h && h.parkT = some p && p ≤ (a.now : Int) && !a.portFaulted n)
    (fun a _ => a.reachOff n)) ∧
  (∀ n h, BeamEventCompletes n (fun t => .parkTimeout t n)
    (fun a _ => (a.beam n).st = 4 && a.portFaulted n && (a.beam n).shut = some h &&
      a.now ≥ h.began + a.rg P.HP_PARK_TMO n * 1000000)
    (fun a _ => (a.headLink n (a.axisSrc n) (a.head n).state (a.head n).state 3).reachOff n))

/-- R91, R96, R112, R133: a queued command begins, is fetched and planned, reaches its mark or its end; the tables are latched. Completes:
exposeBegin, listEnd, catalogueMarkReached, vectorFetch, vectorPlan, tableLatch. -/
def Obligations.BeamWorkCompletes : Prop :=
  (∀ n c, BeamEventCompletes n (fun t => .exposeBegin t n)
    (fun a _ => (a.beam n).nextCmd = some c && a.mayBegin n && (a.beam n).st = 3)
    (fun a _ =>
      let s := a.updBeam n fun b => { b.updCmd c.ord (fun c => { c with begun := true }) with tagNow := c.tag }
      (s.setRg P.BEAM_TAG_NOW n c.tag).listStart n c)) ∧
  (∀ n c r acc off len, BeamEventCompletes n (fun t => .listEnd t n)
    (fun a _ => (a.beam n).cmds = c :: r && c.kind = .list acc off len && (a.beam n).cmdDone c)
    (fun a _ => (((a.listEnd n c).returnLoans [acc]).updBeam n fun b => { b with cmds := b.cmds.drop 1 }).ctl n)) ∧
  (∀ n c r data, BeamEventCompletes n (fun t => .listEnd t n)
    (fun a _ => (a.beam n).cmds = c :: r && c.kind = .inline data && (a.beam n).cmdDone c)
    (fun a _ => (((a.listEnd n c).returnLoans []).updBeam n fun b => { b with cmds := b.cmds.drop 1 }).ctl n)) ∧
  (∀ n c r, BeamEventCompletes n (fun t => .catalogueMarkReached t n)
    (fun a _ => (a.beam n).cmds = c :: r && c.kind = .mark && c.begun)
    (fun a _ =>
      ((a.record (a.beamSrc n) 0x1003 (le 4 c.tag ++ le 4 (a.rg P.BEAM_VEC_DONE n) ++ le 4 (ofSigned 32 (a.beam n).px) ++
        le 4 (ofSigned 32 (a.beam n).py))).updBeam n fun b => { b with cmds := b.cmds.drop 1 }).ctl n)) ∧
  (∀ n c, BeamEventCompletes n (fun t => .vectorFetch t n)
    (fun a _ =>
      let b := a.beam n
      let len := recLen (a.cmdBytes c c.fetched (min 8 (c.len - c.fetched)))
      (b.st = 2 || b.st = 3) && (b.cmds.find? fun c => c.fetched < c.len) = some c && len ≠ 0 && c.fetched + len ≤ c.len && len ≤ 16384 &&
        b.ringFill + len ≤ 65536 && !a.cmdPoison c c.fetched len)
    (fun a _ =>
      let b := a.beam n
      let len := recLen (a.cmdBytes c c.fetched (min 8 (c.len - c.fetched)))
      let s := match c.kind with | .list acc off _ => a.readLines acc (off + c.fetched) len | _ => a
      let v : VRec := ⟨c.ord, c.recNo + (b.ring.filter fun r => r.ord = c.ord).length, c.fetched, s.cmdBytes c c.fetched len, false⟩
      s.updBeam n fun b => { b.updCmd c.ord (fun c => { c with fetched := c.fetched + len }) with ring := b.ring ++ [v] })) ∧
  (∀ n c v r, BeamEventCompletes n (fun t => .vectorPlan t n)
    (fun a _ => ((a.beam n).st = 2 || (a.beam n).st = 3) && (a.beam n).planCmd = some c && (a.beam n).ring = v :: r && v.ord = c.ord &&
      (match c.kind with | .list .. | .inline .. => true | _ => false))
    (fun a _ => (a.planArmed n).planOne n v c)) ∧
  (∀ n w, BeamEventCompletes n (fun t => .tableLatch t n)
    (fun a _ => a.writes = [w] && w.due ≤ a.now && (w.tables.any fun p => pidInst p = n) &&
      w.tables.all fun p => (a.beam (pidInst p)).frontPause.isSome)
    (fun a _ => State.applyOne { a with writes := [] } w))

/-- R23, R24, R26, R91: the frame tick and the micro-step run at their instants, in this order. Completes: frameTick, microStepTick. -/
def Obligations.TicksComplete : Prop :=
  EventCompletes (fun t => .frameTick t)
    (fun a t => t % 2560 = 0 && a.tick < t && a.now = t && a.expRuns)
    (fun a t =>
      let s : State := { a.frameEnds t with tick := t, frameNo := t / 2560, frameAt := t }
      (((s.applyDue).frameBegins t).powerTick).twinTick.twinSwitchTick.stepTick) ∧
  EventCompletes (fun t => .frameTick t)
    (fun a t => t % 2560 = 0 && a.tick < t && a.now = t && !a.expRuns)
    (fun a t =>
      let s : State := { a with tick := t, frameNo := t / 2560, frameAt := t }
      ((s.applyDue).powerTick).twinTick.twinSwitchTick.stepTick) ∧
  EventCompletes (fun t => .microStepTick t)
    (fun a t => a.microDue t && a.micro < t && a.now = t && a.expRuns && a.pathTime t % 2560 ≠ 0)
    (fun a t =>
      let p := a.pathTime t
      let s := State.applyTables { a with micro := t } fun _ => true
      let s := forEach (List.range a.nBeams) (fun n s => s.microFront n p) s
      forEach (List.range a.nBeams) (fun n s => s.microLaser n p) s) ∧
  EventCompletes (fun t => .microStepTick t)
    (fun a t => a.microDue t && a.micro < t && a.now = t && a.expRuns && a.pathTime t % 2560 = 0)
    (fun a t =>
      let p := a.pathTime t
      let s := State.applyTables { a with micro := t } fun _ => true
      let s := forEach (List.range a.nBeams) (fun n s => s.microFront n p) s
      forEach (List.range a.nBeams) (fun n s =>
        let s := s.microLaser n p
        (s.setRgI P.BEAM_POS_X n (s.beam n).px).setRgI P.BEAM_POS_Y n (s.beam n).py) s) ∧
  EventCompletes (fun t => .microStepTick t)
    (fun a t => a.microDue t && a.micro < t && a.now = t && !a.expRuns)
    (fun a t => { a with micro := t })

/-- R117, R120, R122, R124: changes of the laser enables and of the laser port's pins answer the state of their effect. Completes: laserEnChange,
safetyFault, laserReadyChange, laserAlarm, laserSyncEdge. -/
def Obligations.LaserPinsComplete : Prop :=
  (∀ a b, EventCompletes (fun t => .laserEnChange t a b) (fun _ _ => a && b)
    (fun s t => (((s.updPower fun p => { p with laserEnA := a, laserEnB := b }).enableCycle t).docLevel 21 a).docLevel 22 b)) ∧
  (∀ a b, EventCompletes (fun t => .laserEnChange t a b) (fun _ _ => !(a && b))
    (fun s t => ((((s.updPower fun p => { p with laserEnA := a, laserEnB := b }).enableCycle t).docLevel 21 a).docLevel 22 b).gatesLow)) ∧
  (∀ d, EventCompletes (fun t => .safetyFault t)
    (fun a _ => a.power.enDiff = some d && !a.power.safety && d + 10000000 < a.now)
    (fun a _ =>
      let s := (a.updPower fun p => { p with safety := true }).gatesLow
      s.record (s.srcPath 0 4 1) 0x100D
        (le 1 (b2n s.power.laserEnA) ++ le 1 (b2n s.power.laserEnB) ++ zeros 2 ++ le 4 ((s.now - d) / 1000000) ++ zeros 16))) ∧
  (∀ n on, BeamEventCompletes n (fun t => .laserReadyChange t n on) (fun _ _ => true)
    (fun a _ => a.updBeam n fun b => { b with laser := { b.laser with readyIn := on } })) ∧
  (∀ n on, BeamEventCompletes n (fun t => .laserAlarm t n on)
    (fun _ _ => true)
    (fun a _ => a.updBeam n fun b => { b with laser := { b.laser with alarmIn := on } })) ∧
  (∀ n, BeamEventCompletes n (fun t => .laserSyncEdge t n)
    (fun a _ => a.rg P.LSR_SYNC_EN n ≠ 1)
    (fun a _ => a.updBeam n fun b => { b with laser := { b.laser with lastSync := a.now } })) ∧
  (∀ n g, BeamEventCompletes n (fun t => .laserSyncEdge t n)
    (fun a _ => (a.beam n).st = 3 && a.syncWaits n && (a.rg P.BEAM_GATE_MIN n : Int) ≤ g.t1 - a.laserNow n &&
      ((a.beam n).gates.find? fun g => !g.opened && !g.closed && g.t0 ≤ a.laserNow n && a.laserNow n < g.t1) = some g)
    (fun a _ => (a.updBeam n fun b => { b with laser := { b.laser with lastSync := a.now } }).openGate n g (a.laserNow n)))

/-! ## Rasters, the Gallery map and the Warder (R135-R171) -/

/-- R11, R143, R144, R150, R151, R170: a descriptor becomes the pending set; a run and a push join the beam's queue; a halt waits for the blanking of
the run; the parameters of rasters, of the map's geometry and of the longest hold take their write. Completes: rasterCommit, rasterRun, rasterHalt,
rasterPush, rasPscaleWrite, galleryGeometryWrite, wrdHoldMaxClear. -/
def Obligations.RasterCommandsComplete : Prop :=
  CommandCompletes .rasterCommit 0x1100
    (fun b c => c.beam < b.nBeams && (b.descBad c.payload).isNone && b.rg P.BEAM_RAS_SRC c.beam ≠ 0 &&
      !((b.blankingDue c.beam).beam c.beam).ras.pendingFresh)
    (fun b c =>
      let n := c.beam
      let b := b.blankingDue n
      let late := b.inBlanking n
      let s := (b.takeLoans (descLoans c.payload)).updBeam n fun b =>
        { b with ras := { b.ras with pending := some c.payload, pendingSeq := c.seq, pendingFresh := true } }
      s.decide c.k (if late then rDEFERRED else rOK) s.now (le 4 (b.rg P.BEAM_RAS_REGION_NO n + (if late then 2 else 1)))) ∧
  CommandCompletes .rasterRun 0x1101
    (fun b c => c.beam < b.nBeams && b.rg P.BEAM_RAS_SRC c.beam ≠ 0 && !(b.beam c.beam).closed && (b.beam c.beam).ras.pendingFresh &&
      !(b.rg P.BEAM_RAS_SRC c.beam = 2 && (b.xy2Of c.beam).isSome) &&
      b.rg P.BEAM_RAS_SYNC_DLY c.beam ≥ (b.rg P.BEAM_ADV c.beam + 22) * 256)
    (fun b c => b.enqueue c (u32 c.payload 0) .rasRun) ∧
  CommandCompletes .rasterHalt 0x1102
    (fun b c => c.beam < b.nBeams && b.rg P.BEAM_RAS_SRC c.beam ≠ 0 && (b.beam c.beam).cmds.any fun x => x.kind == .rasRun)
    (fun b c => (b.blankingDue c.beam).updBeam c.beam fun y =>
      { y with ras := { y.ras with halts := y.ras.halts ++ [⟨false, false, 0, c.sess, c.stream, c.seq, c.ord, false, none⟩] } }) ∧
  CommandCompletes .rasterHalt 0x1102
    (fun b c => c.beam < b.nBeams && b.rg P.BEAM_RAS_SRC c.beam ≠ 0 && !(b.beam c.beam).cmds.any fun x => x.kind == .rasRun)
    (fun b c => b.decide c.k rOK b.now (le 4 (b.rg P.BEAM_RAS_REGION_NO c.beam))) ∧
  CommandCompletes .rasterPush 0x1103
    (fun b c => c.beam < b.nBeams && (b.descBad c.payload).isNone && b.rg P.BEAM_RAS_SRC c.beam = 0 && !(b.beam c.beam).closed)
    (fun b c => (b.takeLoans (descLoans c.payload)).enqueue c (rdTag c.payload) (.rasPush c.payload)) ∧
  WriteCompletes .rasPscaleWrite (fun q => inInst q 0 = P.BEAM_RAS_PSCALE) ∧
  WriteCompletes .galleryGeometryWrite (fun q => q = P.GAL_ORG_X || q = P.GAL_ORG_Y || q = P.GAL_CELL) ∧
  WriteCompletes .wrdHoldMaxClear (fun q => inInst q 0 = P.BEAM_WRD_HOLD_MAX)

/-- R145, R148, R151, R169: the events of the raster timing generator, each at the states where it is due, answer the state of their effect.
Completes: rasterBlanking, rasRegionEnd, lineSyncEdge, lineBufferFill. -/
def Obligations.RasterEventsComplete : Prop :=
  (∀ n c, BeamEventCompletes n (fun t => .rasterBlanking t n)
    (fun a _ =>
      let b := a.beam n
      b.st = 3 && b.planCmd = some c && c.kind = .rasRun && c.begun && !b.ras.regionOpen && !b.ras.blanking &&
        b.vecs.all (·.done) && (match b.ras.endAt with | some e => decide (e ≤ a.laserNow n / 2 * 2 + 1) | none => true))
    (fun a _ => a.blankRun n c)) ∧
  (∀ n c d, BeamEventCompletes n (fun t => .rasterBlanking t n)
    (fun a _ => (a.beam n).st = 3 && (a.beam n).planCmd = some c && c.kind = .rasPush d)
    (fun a _ => a.blankPush n c d)) ∧
  (∀ n c d, BeamEventCompletes n (fun t => .rasRegionEnd t n)
    (fun a _ =>
      let b := a.beam n
      (b.cmds.find? fun c => c.begun && (match c.kind with | .rasRun | .rasPush _ => true | _ => false)) = some c &&
        c.kind = .rasRun && b.descFor c.ord = some d && b.ras.regionOpen && rdH d ≤ b.ras.exposed + b.ras.skipped)
    (fun a _ =>
      let r := (a.beam n).ras
      (a.record (a.beamSrc n) 0x1102
        (le 4 (rdTag d) ++ le 4 (a.rg P.BEAM_RAS_REGION_NO n) ++ le 2 r.exposed ++ le 2 r.skipped ++ le 2 r.clamped ++
          le 4 r.repeated)).updBeam n fun b => { b with ras := { b.ras with regionOpen := false, cache := [] } })) ∧
  (∀ i up, EventCompletes (fun t => .lineSyncEdge t i up) (fun _ _ => i < 16)
    (fun a t => forEach (List.range a.nBeams) (fun n s =>
      if s.rg P.BEAM_RAS_SRC n = 1 ∧ s.rg P.BEAM_RAS_SYNC_IN n = i ∧ bit (s.rg P.BEAM_RAS_SYNC_EDGE n) 0 = !up then s.rasEdge n t else s) a)) ∧
  (∀ n c d, BeamEventCompletes n (fun t => .lineBufferFill t n)
    (fun a _ =>
      let b := a.beam n
      (b.cmds.find? fun c => match c.kind, b.descFor c.ord with
          | .rasPush _, some d => c.recNo > 0 && b.nextRow c < rdH d
          | .rasRun, some d => c.begun && b.nextRow c < rdH d
          | _, _ => false) = some c &&
        b.descFor c.ord = some d && b.bufFill + rowBytes d (b.nextRow c) ≤ 16384)
    (fun a _ =>
      let row := (a.beam n).nextRow c
      let s := a.readLines (rdPower d) (16 + a.memNat (rdPower d) 8 4 * row) ((3 * rdW d + 1) / 2)
      let s := if rdMod d = noAcc ∨ row % 2 = 1 then s
        else s.readLines (rdMod d) (16 + s.memNat (rdMod d) 8 4 * (row / 2)) ((rdW d + 1) / 2)
      s.updBeam n fun b =>
        let b := b.updCmd c.ord fun c => { c with fetched := row + 1 }
        { b with ras := { b.ras with bufRows := b.ras.bufRows ++ [bufKey c.ord row] } }))

/-- R155, R158, R159, R162, R163, R166: the map is cleared, copied and read, and the Warder's states are told; the map's and the Warder's own events,
each at the states where it is due, answer the state of their effect. Completes: galleryClear, gallerySnapshot, galleryRead, warderStatus,
galleryDeposit, gallerySweep, warderReserve, warderZoneExpire, wardStarve, gallerySnapshotDone. -/
def Obligations.GalleryCompletes : Prop :=
  CommandCompletes .galleryClear 0x1200 (fun b _ => !b.anyRunning)
    (fun b c => let s := b.galClearBy 1; s.decide c.k rOK s.now []) ∧
  CommandCompletes .gallerySnapshot 0x1201
    (fun b c => (b.loanCheck (u32 c.payload 0)).isNone && accPool (u32 c.payload 0) = 6 &&
      ((b.acc? (u32 c.payload 0)).map (·.size)).getD 0 ≥ galBytes && b.gal.snaps.isEmpty)
    (fun b c =>
      let s := b.takeLoan (u32 c.payload 0)
      State.snapStart { s with gal := { s.gal with snaps := s.gal.snaps ++ [(c.k, u32 c.payload 0)] } }) ∧
  (∀ cell, CommandCompletes .galleryRead 0x1202
    (fun b c => b.galCell (i32 c.payload 0) (i32 c.payload 4) = some cell)
    (fun b c => b.decide c.k rOK b.now
      (le 4 (b.galWord cell) ++ le 4 (ofSigned 32 (galAge (b.galWord cell) b.now)) ++ le 4 (b.galEnergy (b.galWord cell) b.now)))) ∧
  CommandCompletes .warderStatus 0x1210 (fun _ _ => true) (fun b c => b.decide c.k rOK b.now b.warderStatus) ∧
  (∀ n d, BeamEventCompletes n (fun t => .galleryDeposit t n)
    (fun a _ => (a.beam n).dep = some d && (d.shut || !(a.beam n).laser.gate || d.since + 10240 ≤ a.now))
    (fun a _ =>
      let w := a.galWord d.cell
      let e : Int := fNum (a.galEnergy w a.now) / (fDen : Int)
      let e' := (min 65535 (e + roundDiv (fNum d.energy) (fDen * a.rg P.GAL_E_LSB 0))).toNat
      (a.galPut d.cell (d.lastMs * 65536 + e')).updBeam n fun b => { b with dep := none })) ∧
  EventCompletes (fun t => .gallerySweep t) (fun a _ => a.gal.expOn)
    (fun a _ => State.bumpBy
      { a with gal := { a.gal with cells := a.gal.cells.filter fun c => !galCold c.2 a.now, sweptAt := a.now } } P.GAL_SWEEPS 0 1) ∧
  (∀ n, BeamEventCompletes n (fun t => .warderReserve t n) (fun _ _ => true) (fun a _ => a.warderReserve n)) ∧
  EventCompletes (fun t => .warderZoneExpire t) (fun _ _ => true)
    (fun a _ => { a with gal := { a.gal with zones := a.gal.zones.filter fun z => z.future || z.haloOn a.now || z.plumeOn a.now } }) ∧
  (∀ n, BeamEventCompletes n (fun t => .wardStarve t n)
    (fun a _ => (a.beam n).holdNow && !(a.beam n).starved && a.now - (a.beam n).holdAt ≥ a.rg P.WRD_T_STARVE 0 * 1000)
    (fun a _ =>
      let w := (a.beam n).wsegs.find? fun w => w.status ≠ 3
      let s := (a.bumpBy P.BEAM_WRD_STARVES n 1).updBeam n fun b => { b with starved := true }
      s.record s.wrdSrc 0x1201
        (le 1 n ++ le 1 (s.blocker n) ++ zeros 2 ++ le 4 ((a.now - (a.beam n).holdAt) / 1000) ++ le 4 ((w.map (·.vec)).getD 0) ++
          le 4 ((w.map (·.tag)).getD 0)))) ∧
  (∀ k acc, EventCompletes (fun t => .gallerySnapshotDone t)
    (fun a _ => a.gal.snaps = [(k, acc)] && (a.acc? acc).isSome)
    (fun a _ =>
      let data := (List.range galCells).flatMap fun cell => a.snapWord cell
      let s := a.storeData acc 0 data
      let s := ({ s with fresh := s.fresh + galCells } : State).returnLoan acc
      let s := s.decide k rOK s.now (le 8 s.gal.snapAt ++ le 8 s.now)
      { s with gal := { s.gal with snaps := [] } }))


/-! ## The Conservator (R172-R208) -/

/-- R178, R179, R195, R204-R206: a slot in OFF is bound; a mode change and a new order wait for their boundary; a slot's status; a trace is put on
loan and begins at the next boundary. Completes: cnsBind, cnsMode, cnsOrder, cnsStatus, cnsTrace. -/
def Obligations.ConservatorCommandsComplete : Prop :=
  CommandCompletes .cnsBind 0x1300
    (fun b c =>
      let i := u8 c.payload 0
      let x := u8 c.payload 2
      let y := u8 c.payload 3
      let others (p : CSlot → Bool) : Bool := (List.range 128).any fun j => j ≠ i && p (b.slotOf j)
      i ≤ 127 && (b.slotOf i).mode = 0 &&
        (match u8 c.payload 1 with
         | 0 => true
         | 1 => x < b.nBeams && y ≤ 2 && b.rg P.HP_MODE x = 1 && !others fun o => o.kind = 1 && o.a = x && o.b = y
         | 2 => x < b.nBeams && y = 0 && !others fun o => o.kind = 2 && o.a = x
         | 3 => x ≤ 63 && bits y 6 3 = 0 && !others fun o => o.kind = 3 && o.b % 8 = y % 8
         | _ => false))
    (fun b c =>
      let i := u8 c.payload 0
      let s := match b.cns.trace with | some t => if t.slot = i then b.traceEnd true else b | none => b
      let s := (s.slotClear i).resetSlotParams i
      let s := s.updSlot i fun _ => { cslotReset with kind := u8 c.payload 1, a := u8 c.payload 2, b := u8 c.payload 3, hyAt := s.now }
      (s.cnsModeRec i 0 0 4 0 0).ok c) ∧
  CommandCompletes .cnsMode 0x1301
    (fun b c =>
      let x := b.slotOf (u8 c.payload 0)
      !b.slotStreamBad c (u8 c.payload 0) && x.kind ≠ 0 && u8 c.payload 1 ≤ 2 &&
        (x.kind = 3 || u8 c.payload 1 ≠ 1 || bit (u8 c.payload 2) 0 || (fFinite (u32 c.payload 4) && fFinite (u32 c.payload 8))) &&
        !(x.kind = 1 && u8 c.payload 1 = 0 && (b.beam x.a).st ≠ 0))
    (fun b c => b.atBoundary c []) ∧
  CommandCompletes .cnsOrder 0x1302
    (fun _ c => (List.range 128).all fun i => (c.payload.map (·.toNat)).contains i)
    (fun b c => b.atBoundary c []) ∧
  CommandCompletes .cnsStatus 0x1303
    (fun b c => !b.slotStreamBad c (u8 c.payload 0))
    (fun b c =>
      let i := u8 c.payload 0
      let x := b.slotOf i
      let head := le 1 x.kind ++ le 1 x.modeWord ++ le 1 x.a ++ le 1 x.b
      if x.kind = 3 then
        b.ok c (head ++ zeros 2 ++ le 2 (b.hy i P.HYL_IMPL_COUNT) ++ le 4 (fOfInt (b.hy i P.HYL_OUT : Nat)) ++ zeros 12)
      else if x.kind = 0 then b.ok c (head ++ zeros 20)
      else
        b.ok c (head ++ le 2 (b.sf i P.MPL_RES_CNT) ++ le 2 (b.sf i P.MPL_IMPL_COUNT) ++
          (b.sfVec i P.MPL_U 2 ++ b.sfVec i P.MPL_U_GOOD 2).flatMap (le 4))) ∧
  CommandCompletes .cnsTrace 0x1304
    (fun b c =>
      let acc := u32 c.payload 4
      let frames := u32 c.payload 8
      !b.slotStreamBad c (u8 c.payload 0) && (b.slotOf (u8 c.payload 0)).kind ≠ 0 && 1 ≤ frames && frames ≤ 1000000 && accPool acc = 6 &&
        (b.loanCheck acc).isNone && 64 * frames ≤ ((b.acc? acc).map (·.size)).getD 0 && b.cns.trace.isNone)
    (fun b c =>
      let s := (b.takeLoan (u32 c.payload 4)).setRg P.CNS_TRACE_SLOT 0 (u8 c.payload 0)
      s.updCns fun x => { x with trace := some ⟨u8 c.payload 0, u32 c.payload 4, u32 c.payload 8, 0, c.sess, c.stream, c.seq, s.boundary⟩ })

/-- R182, R190, R192, R193, R200, R206: the engine's events, each at the states where it is due, answer the state of their effect. Completes:
cnsTraceEnd, cnsOverrun, cnsImplausible, mpGapReset, hySwitch, hyImplausible. -/
def Obligations.ConservatorEventsComplete : Prop :=
  (∀ i tr, EventCompletes (fun t => .cnsTraceEnd t i)
    (fun a _ => i < 128 && a.cns.trace = some tr && tr.frames ≤ tr.written)
    (fun a _ =>
      let s := (((a.updCns fun c => { c with trace := none }).setRg P.CNS_TRACE_SLOT 0 0xFF).returnLoan tr.acc)
      s.record s.engineSrc 0x1307 (le 1 tr.slot ++ le 1 0 ++ zeros 2 ++ le 4 tr.written ++ le 4 tr.acc))) ∧
  (∀ slots, EventCompletes (fun t => .cnsOverrun t slots) (fun _ _ => slots.all (· < 128))
    (fun a _ => a.updCns fun c => { c with late := slots })) ∧
  (∀ i, EventCompletes (fun t => .cnsImplausible t i)
    (fun a _ =>
      let c := a.slotOf i
      i < 128 && (c.kind = 1 || c.kind = 2) && c.mode = 1 && c.byCmd && !c.impl && a.expRuns && a.sf i P.MPL_RES_CNT ≥ a.sf i P.MPL_RES_N)
    (fun a _ =>
      let c := a.slotOf i
      let row := (a.outOfBand i).getD 0
      let s := (a.flushModes i (a.sf i P.MPL_U) (a.sf i P.MPL_XI)).updSlot i fun c => { c with impl := true }
      let s := s.setSf i P.MPL_IMPL_COUNT 0 (s.sf i P.MPL_IMPL_COUNT + 1)
      let seq := s.seqOf (s.slotSrc i)
      let s := s.record (s.slotSrc i) 0x1301
        (le 1 i ++ le 1 c.kind ++ le 1 c.a ++ le 1 row ++ le 4 (s.sf i P.MPL_E row) ++ le 4 (s.sf i P.MPL_RES_BAND row) ++
          le 2 (s.sf i P.MPL_RES_N) ++ zeros 2 ++ le 4 ((a.sfVec i P.MPL_U_GOOD 2).getD 0 0))
      s.slotFault i 0x1301 seq (a.slotHanded i))) ∧
  (∀ i, EventCompletes (fun t => .mpGapReset t i)
    (fun a _ =>
      let c := a.slotOf i
      i < 128 && c.kind = 2 && c.mode ≠ 0 && c.heldNow && c.held = a.sf i P.MPL_MP_GAP_FR)
    (fun a _ => a.setVec i P.MPL_X (a.sfVec i P.MPL_X0 6))) ∧
  (∀ i, EventCompletes (fun t => .hySwitch t i)
    (fun a _ =>
      let c := a.slotOf i
      let half := fDiv (a.hy i P.HYL_HY_BAND) (fOfInt 2)
      let low := fLt (a.hy i P.HYL_IN_NOW) (fSub (a.hy i P.HYL_HY_REF) half)
      let high := fLt (fAdd (a.hy i P.HYL_HY_REF) half) (a.hy i P.HYL_IN_NOW)
      i < 128 && c.kind = 3 && c.mode = 2 && a.expRuns && a.hy i P.HYL_OUT = 0 && (if a.hy i P.HYL_HY_DIR = 1 then high else low) &&
        a.now - c.hyAt ≥ a.hy i P.HYL_HY_TOFF_MIN * 1000000)
    (fun a _ => ((a.setRg P.HYL_OUT i 1).bump P.HYL_SWITCHES i).updSlot i fun c => { c with hyAt := a.now })) ∧
  (∀ i, EventCompletes (fun t => .hySwitch t i)
    (fun a _ =>
      let c := a.slotOf i
      let half := fDiv (a.hy i P.HYL_HY_BAND) (fOfInt 2)
      let low := fLt (a.hy i P.HYL_IN_NOW) (fSub (a.hy i P.HYL_HY_REF) half)
      let high := fLt (fAdd (a.hy i P.HYL_HY_REF) half) (a.hy i P.HYL_IN_NOW)
      i < 128 && c.kind = 3 && c.mode = 2 && a.expRuns && a.hy i P.HYL_OUT = 1 && (if a.hy i P.HYL_HY_DIR = 1 then low else high) &&
        a.now - c.hyAt ≥ a.hy i P.HYL_HY_TON_MIN * 1000000)
    (fun a _ => ((a.setRg P.HYL_OUT i 0).bump P.HYL_SWITCHES i).updSlot i fun c => { c with hyAt := a.now })) ∧
  (∀ i, EventCompletes (fun t => .hyImplausible t i)
    (fun a _ =>
      let c := a.slotOf i
      let chan := a.power.hk.getD c.a ⟨[], false, false, false, false, 0⟩
      i < 128 && c.kind = 3 && c.mode ≠ 0 && !c.impl && a.expRuns && (chan.faulted || a.now - a.power.hkAt > a.hy i P.HYL_HY_STALE * 256000000))
    (fun a _ =>
      let old := (a.slotOf i).mode
      let out := match a.hy i P.HYL_HY_SAFE with | 0 => 0 | 1 => 1 | _ => a.hy i P.HYL_OUT
      let s := (a.flushModes i (fOfInt (a.hy i P.HYL_OUT : Nat)) 0).updSlot i fun c => { c with mode := 1, impl := true, byCmd := false }
      let s := ((s.setRg P.HYL_MAN_OUT i out).hyOut i out).bump P.HYL_IMPL_COUNT i
      let seq := s.seqOf (s.slotSrc i)
      let s := s.record (s.slotSrc i) 0x1301
        (le 1 i ++ le 1 3 ++ le 1 (a.slotOf i).a ++ le 1 0xFF ++ le 4 (s.hy i P.HYL_IN_NOW) ++ zeros 16)
      let s := s.slotFault i 0x1301 seq false
      if old = 1 then s else s.cnsModeRec i old 1 2 (fOfInt (out : Nat)) 0))

/-- R200: a melt-pool slot in AUTO that is declared implausible holds its last good output in MANUAL, with IMPL set. -/
def Obligations.ImplausibleHoldsLastGood : Prop :=
  ∀ (s : State) (i : Nat), i < s.cns.slots.length → (s.slotOf i).kind = 2 → (s.slotOf i).mode = 2 → (s.slotOf i).impl = false →
    s.expRuns = true → s.sf i P.MPL_RES_CNT ≥ s.sf i P.MPL_RES_N → i < 128 → (∀ j < 2, s.sf i P.MPL_U_GOOD j < 2 ^ 32) →
    let s' := s.implausible i
    (s'.slotOf i).mode = 1 ∧ (s'.slotOf i).impl = true ∧ (∀ j < 2, s'.sf i P.MPL_U j = s.sf i P.MPL_U_GOOD j) ∧
      (∀ j < 2, s'.sf i P.MPL_MAN_U j = s.sf i P.MPL_U_GOOD j) ∧ (∀ j, j ≠ i → s'.slotOf j = s.slotOf j)

/-- R195: a slot that is bound has, after its CNS_MODE has taken effect, the mode the command gives; the other slots keep theirs. -/
def Obligations.ModeTakesEffect : Prop :=
  ∀ (s : State) (i mode u0 u1 : Nat) (hold : Bool), i < s.cns.slots.length → (s.slotOf i).kind ≠ 0 → mode ≤ 2 →
    let s' := s.applyMode i mode hold u0 u1
    (s'.slotOf i).mode = mode ∧ (s'.slotOf i).kind = (s.slotOf i).kind ∧ (∀ j, j ≠ i → s'.slotOf j = s.slotOf j) ∧
      s'.beams = s.beams ∧ s'.mot = s.mot ∧ s'.host = s.host

/-! ## Heads and XY2-100 ports (R209-R250) -/

/-- R212-R217, R223, R225, R241: a return frame is errored where a code group is not valid, or its SOF or the CRC of its real-time section fails; else
its section is taken, in either generation. Completes: headReturnFrame. -/
def Obligations.ReturnFramesComplete : Prop :=
  (∀ n sof codes, BeamEventCompletes n (fun t => .headReturnFrame t n sof codes)
    (fun a _ => (a.head n).state ≠ 0 && !(a.head n).arrived && a.rg P.HP_GEN n = 1 && !sectionGood (a.received n (sof :: codes)) 45)
    (fun a _ =>
      let s := (a.lineRead n (sof :: codes)).updHead n fun h => { h with arrived := true, rowsOk := false, pyrOk := false }
      (s.formMelt n).headErrored n 1)) ∧
  (∀ n sof codes, BeamEventCompletes n (fun t => .headReturnFrame t n sof codes)
    (fun a _ => (a.head n).state ≠ 0 && !(a.head n).arrived && a.rg P.HP_GEN n = 1 && sectionGood (a.received n (sof :: codes)) 45)
    (fun a _ =>
      let ss := a.received n (sof :: codes)
      let f := octets ss
      let rt := field f 4 12 ++ field f 16 2 ++ field f 18 26
      let d0 := deltaOf (u16 rt 36)
      let d1 := deltaOf (u16 rt 38)
      let b := a.lineRead n (sof :: codes)
      let s := if allData ((ss.drop 46).take 220) && u32 f 262 = crc32c (field f 1 261) then b.headPage n (field f 46 216) else b.headCrc n 4
      s.headSection n (u8 f 1 % 8) (bit (u8 f 1) 4) (bit (u8 f 1) 5) (bit (u8 f 1) 3) (bit (u8 f 1) 7)
        [i24 rt 0, i24 rt 3, i24 rt 6] [u16 rt 9, u16 rt 11, u16 rt 13] (u8 rt 35) ((List.range 10).map fun k => u16 rt (15 + 2 * k))
        (if a.straps.roleB then d1 else d0) (if a.straps.roleB then d0 else d1))) ∧
  (∀ n sof codes, BeamEventCompletes n (fun t => .headReturnFrame t n sof codes)
    (fun a _ => (a.head n).state ≠ 0 && !(a.head n).arrived && a.rg P.HP_GEN n ≠ 1 && !sectionGood (a.received n (sof :: codes)) 14)
    (fun a _ =>
      ((a.lineRead n (sof :: codes)).updHead n fun h => { h with arrived := true, rowsOk := false, pyrOk := false }).headErrored n 1)) ∧
  (∀ n sof codes, BeamEventCompletes n (fun t => .headReturnFrame t n sof codes)
    (fun a _ => (a.head n).state ≠ 0 && !(a.head n).arrived && a.rg P.HP_GEN n ≠ 1 && sectionGood (a.received n (sof :: codes)) 14)
    (fun a _ =>
      let f := octets (a.received n (sof :: codes))
      (a.lineRead n (sof :: codes)).headSection n (u8 f 1 % 8) (bit (u8 f 1) 4) (bit (u8 f 1) 5) true false [i24 f 3, i24 f 6, i24 f 9] [0, 0, 0]
        (u8 f 12) [] (some 160) (some 160)))

/-- R210, R222, R225, R229, R244-R247: a frame that does not come, a training that takes too long, a lost lock; the XY2-100 frames; the parameters
that act on a port take their write. Completes: headFrameMissing, headLinkTimeout, headLockLost, xy2Frame, xy2StatusFrame, hpFaultClear, hpGenWrite,
xy2Assign. -/
def Obligations.HeadEventsComplete : Prop :=
  (∀ n, BeamEventCompletes n (fun t => .headFrameMissing t n)
    (fun a _ =>
      let h := a.head n
      2 ≤ h.state && h.aligned && !h.arrived && h.sent && h.sentAt + h.aLast + 40 ≤ a.now)
    (fun a _ =>
      let s := a.updHead n fun h => { h with arrived := true, rowsOk := false, pyrOk := false }
      (if s.rg P.HP_GEN n = 1 then s.formMelt n else s).headErrored n 3)) ∧
  (∀ n, BeamEventCompletes n (fun t => .headLinkTimeout t n)
    (fun a _ => (a.head n).state = 1 && (a.head n).trainAt + a.rg P.HP_LINK_TMO n * 1000000 ≤ a.now)
    (fun a _ => (a.updHead n fun h => { h with trainAt := a.now }).headTo n 1 3)) ∧
  (∀ n, BeamEventCompletes n (fun t => .headLockLost t n) (fun a _ => (a.head n).state = 2) (fun a _ => (a.unalign n).headTo n 1 4)) ∧
  (∀ n, BeamEventCompletes n (fun t => .headLockLost t n) (fun a _ => (a.head n).state = 3) (fun a _ => (a.axisFault n 4 7).unalign n)) ∧
  (∀ n, BeamEventCompletes n (fun t => .headLockLost t n) (fun a _ => (a.head n).state = 4) (fun a _ => a.unalign n)) ∧
  (∀ q, EventCompletes (fun t => .xy2Frame t q)
    (fun a _ => q < 4 && a.now % 10000 = 0 && a.rg P.XY2_BEAM q < a.nBeams && a.expRuns)
    (fun a _ =>
      let n := a.rg P.XY2_BEAM q
      let h := a.head n
      let v (x : Nat) : Int :=
        if a.rg P.HP_FAULT n = 1 then a.rgI (P.HP_PARK_HU + x) n
        else
          let p := h.setNow.getD x 0
          roundDiv (p * 2560 + ((a.now - a.now / 2560 * 2560 : Nat) : Int) * (h.setNext.getD x 0 - p)) 2560
      let vs := [0, 1, 2].map v
      let codes := xy2Sent (a.rg P.XY2_INV q) 0 vs
      let s := forEach [0, 1, 2] (fun x s => s.setRg (P.XY2_CODE + x) q (codes.getD x 0)) a
      if a.twin.own && !a.killed then s.put (.legacyFrame q 0xFFFFE ((xy2Sent (a.rg P.XY2_INV q) (a.rg P.XY2_SWAP q) vs).map xy2Word)) else s)) ∧
  (∀ q w, EventCompletes (fun t => .xy2StatusFrame t q w)
    (fun a _ => q < 4 && a.rg P.XY2_BEAM q < a.nBeams && a.rg P.XY2_STAT_MASK q ≠ 0 && popCount 20 w % 2 = 0)
    (fun a _ =>
      let st := bits w 16 1
      let hit : Bool := Nat.land (Nat.xor (Nat.xor st (a.rg P.XY2_STAT_POL q)) 0xFFFF) (a.rg P.XY2_STAT_MASK q) ≠ 0
      let s := ({ a with xy2 := a.xy2.modify q fun _ => ⟨false, hit⟩ } : State).setRg P.XY2_STAT q st
      if hit then s.axisFault (a.rg P.XY2_BEAM q) (2 ^ 10) 7 else s)) ∧
  (∀ q w, EventCompletes (fun t => .xy2StatusFrame t q w)
    (fun a _ => q < 4 && a.rg P.XY2_BEAM q < a.nBeams && a.rg P.XY2_STAT_MASK q ≠ 0 && popCount 20 w % 2 = 1)
    (fun a _ =>
      let s := ({ a with xy2 := a.xy2.modify q fun p => ⟨true, p.causeNow || p.lastBad⟩ } : State).bump P.XY2_STAT_ERR q
      if (a.xy2.getD q xy2Reset).lastBad then s.axisFault (a.rg P.XY2_BEAM q) 2 7 else s)) ∧
  WriteCompletes .hpFaultClear (fun q => inInst q 0 = P.HP_FAULT) ∧
  WriteCompletes .hpGenWrite (fun q => inInst q 0 = P.HP_GEN) ∧
  WriteCompletes .xy2Assign (fun q => inInst q 0 = P.XY2_BEAM)

/-- R243: an XY2-100 word carries its code between the bits 001 and a parity bit that makes the number of ones even. -/
def Obligations.Xy2WordIsRight : Prop :=
  ∀ code < 65536, bits (xy2Word code) 19 17 = 1 ∧ bits (xy2Word code) 16 1 = code ∧ popCount 20 (xy2Word code) % 2 = 0

/-- R246: the code of a value, and what INV and SWAP make of the codes of the three axes. -/
def Obligations.Xy2CodeIsRight : Prop :=
  (∀ v : Int, -8388608 ≤ v → v ≤ 8388607 → (xy2Code v false : Int) = 32768 + v.fdiv 256) ∧
  xy2Code (-8388608) false = 0 ∧ xy2Code 8388607 false = 65535 ∧
  (∀ (v : Int), xy2Code v true = 65535 - xy2Code v false ∧ xy2Code v false ≤ 65535) ∧
  ∀ (inv : Nat) (x y z : Int),
    xy2Sent inv 0 [x, y, z] = [xy2Code x (bit inv 0), xy2Code y (bit inv 1), xy2Code z (bit inv 2)] ∧
    xy2Sent inv 1 [x, y, z] = [xy2Code y (bit inv 1), xy2Code x (bit inv 0), xy2Code z (bit inv 2)]

/-- R228: a first axis fault sets FAULT and FAULT_CAUSE of its port, and the beam is not in RUN after it. -/
def Obligations.AxisFaultSets : Prop :=
  ∀ (s : State) (n causes axes : Nat), n < s.nBeams → causes ≠ 0 → causes < 2 ^ 16 → axes < 8 → s.rg P.HP_FAULT n = 0 →
    s.rg P.HP_FAULT_CAUSE n < 2 ^ 32 → n < s.beams.length →
    let s' := s.axisFault n causes axes
    s'.rg P.HP_FAULT n = 1 ∧ s'.rg P.HP_FAULT_CAUSE n = Nat.lor (s.rg P.HP_FAULT_CAUSE n) (causes + axes * 2 ^ 16) ∧ (s'.beam n).st ≠ 3

/-! ## Motion and the lamp (R251-R291, R321-R333) -/

/-- R274, R279: a move joins its cell's queue; it is OK where it begins at the next boundary, OK_QUEUED where it waits; a homing waits. Completes:
prfMove, prfHome, prfChange. -/
def Obligations.MovesComplete : Prop :=
  CommandCompletes .prfMove 0x2000
    (fun b c =>
      let p := c.payload
      let x := b.prf (u8 p 0)
      let target := toSigned 48 (u64 p 4)
      let dir : Int := if u8 p 1 = 0 then (target - x.base).sign else target.sign
      u8 p 0 ≤ 7 && u8 p 1 ≤ 2 && 1 ≤ u32 p 12 && u32 p 12 ≤ 5120000 && u32 p 16 ≠ 0 && u32 p 20 ≠ 0 && !(u8 p 1 = 2 && target = 0) &&
        !b.prfClosed (u8 p 0) && (b.limitOn (u8 p 0) dir).isNone)
    (fun b c =>
      let p := c.payload
      let a := u8 p 0
      let mode := u8 p 1
      let target := toSigned 48 (u64 p 4)
      let x := b.prf a
      let m : Move := ⟨mode, if mode = 1 then (match x.lastTarget with | some l => l + target | none => target) else target,
        mode = 1 && x.lastTarget.isNone, u32 p 12, u32 p 16, u32 p 20, u32 p 24, u32 p 28, b.nextFrame, c.seq, c.ord⟩
      let s := b.updPrf a fun y => { y with queue := y.queue ++ [m], lastTarget := if mode = 2 ∨ m.fromEnd then none else some m.target }
      if x.queue.isEmpty && (x.st = 1 || (x.st = 2 && (match x.run with | some r => r.mode = 2 | none => false))) then
        s.decide c.k rOK s.nextFrame []
      else s.queued c) ∧
  CommandCompletes .prfHome 0x2003
    (fun b c => u8 c.payload 0 ≤ 7 && !b.prfClosed (u8 c.payload 0) &&
      (b.limitOn (u8 c.payload 0) (if b.rg P.PRF_HOME_DIR (u8 c.payload 0) = 1 then 1 else -1)).isNone)
    (fun b c => (b.updPrf (u8 c.payload 0) fun y =>
      { y with queue := y.queue ++ [⟨3, 0, false, 0, 0, 0, 0, u32 c.payload 4, b.nextFrame, c.seq, c.ord⟩], lastTarget := none }).queued c) ∧
  CommandCompletes .prfChange 0x2001
    (fun b c =>
      let p := c.payload
      let x := b.prf (u8 p 0)
      u8 p 0 ≤ 7 && u32 p 4 ≠ 0 && (u32 p 4 ≤ 5120000 || u32 p 4 = 2 ^ 32 - 1) && u32 p 8 ≠ 0 && u32 p 12 ≠ 0 && x.st = 2 && x.run.isSome &&
        (u64 p 16 = 2 ^ 64 - 1 || (match x.run with | some m => toSigned 48 (u64 p 16) = m.target | none => false)))
    (fun b c =>
      let get (off : Nat) : Option Nat := if u32 c.payload off = 2 ^ 32 - 1 then none else some (u32 c.payload off)
      b.updPrf (u8 c.payload 0) fun y => { y with changes := y.changes ++ [⟨c.k, b.boundary, get 4, get 8, get 12⟩] })

/-- R252, R258, R267, R274, R288, R289: a stop, a position, a drive, an armed index, a latch that is read. Completes: prfStop, prfSetPos, drvEnable,
fbkArmIndex, fbkLatchRead, prfFaultClear, fbkFaultClear, fbkTypeWrite, idxModeWrite. -/
def Obligations.MotionControlsComplete : Prop :=
  CommandCompletes .prfStop 0x2002
    (fun b c => u8 c.payload 0 ≤ 7 && u8 c.payload 1 ≤ 1 && (b.prf (u8 c.payload 0)).moving && !bit (u8 c.payload 2) 0)
    (fun b c =>
      let quick : Bool := u8 c.payload 1 = 1
      b.updPrf (u8 c.payload 0) fun y =>
        { y with
          stoppers := y.stoppers ++ [c.k]
          stopAsk := if y.st = 3 ∧ !quick then y.stopAsk
            else some (match y.stopAsk with | some (q, t) => (q || quick, t) | none => (quick, b.nextFrame)) }) ∧
  CommandCompletes .prfStop 0x2002
    (fun b c => u8 c.payload 0 ≤ 7 && u8 c.payload 1 ≤ 1 && !(b.prf (u8 c.payload 0)).moving && !bit (u8 c.payload 2) 0)
    (fun b c => b.ok c) ∧
  CommandCompletes .prfSetPos 0x2004
    (fun b c => u8 c.payload 0 ≤ 7 && (b.prf (u8 c.payload 0)).st = 1 && (b.prf (u8 c.payload 0)).queue.isEmpty)
    (fun b c =>
      let a := u8 c.payload 0
      let v := toSigned 48 (u64 c.payload 4)
      let n := b.rg P.PRF_MAP_PORT a
      let s := (b.setPosition a v).updPrf a fun y => { y with c0 := v, r0 := (b.port n).raw, lastTarget := some v, devRun := 0 }
      (s.updPort n fun q => { q with uncertain := false }).ok c) ∧
  CommandCompletes .drvEnable 0x2005
    (fun b c =>
      let a := u8 c.payload 0
      a ≤ 7 && u8 c.payload 1 = 1 && (b.prf a).st = 0 && !(a < 6 && b.mot.vmotLow) &&
        !(a ≥ 6 && b.sdFlt (a - 6) && b.rg P.SD_FLT_ACT (a - 6) = 0))
    (fun b c =>
      let a := u8 c.payload 0
      let s := (b.driveSet a true).updPrf a fun y =>
        { y with st := 1, c0 := y.pos / 65536, r0 := (b.port (b.rg P.PRF_MAP_PORT a)).raw, devRun := 0, restAt := b.now }
      s.ok c (le 1 (s.prf a).st ++ zeros 3)) ∧
  CommandCompletes .drvEnable 0x2005
    (fun b c => u8 c.payload 0 ≤ 7 && u8 c.payload 1 = 0 && !(b.prf (u8 c.payload 0)).moving)
    (fun b c =>
      let a := u8 c.payload 0
      let s := ((b.flushMoves a).driveSet a false).updPrf a fun y => { y with st := if y.st = 5 then 5 else 0 }
      s.ok c (le 1 (s.prf a).st ++ zeros 3)) ∧
  CommandCompletes .fbkArmIndex 0x2006
    (fun b c => u8 c.payload 0 ≤ 7 && b.rg P.FBK_IDX_MODE (u8 c.payload 0) = 2)
    (fun b c => (b.updPort (u8 c.payload 0) fun p => { p with armed := true }).ok c) ∧
  CommandCompletes .fbkLatchRead 0x2007
    (fun _ c => u8 c.payload 0 ≤ 7 && u8 c.payload 1 ≤ 2)
    (fun b c =>
      let n := u8 c.payload 0
      let l := (b.port n).latches.getD (u8 c.payload 1) flatchReset
      let s := b.updPort n fun p => { p with latches := p.latches.modify (u8 c.payload 1) fun l => { l with captured := false, past := false } }
      s.ok c (le 8 (ofSigned 64 l.pos) ++ le 8 l.posTs ++ le 8 l.trigTs ++ le 4 l.speed ++
        le 4 (b2n l.valid + 2 * b2n l.captured + 4 * b2n l.past + 8 * b2n l.uncertain))) ∧
  WriteCompletes .prfFaultClear (fun q => inInst q 0 = P.PRF_FAULT) ∧
  WriteCompletes .fbkFaultClear (fun q => inInst q 0 = P.FBK_FAULT) ∧
  WriteCompletes .fbkTypeWrite (fun q => inInst q 0 = P.FBK_TYPE) ∧
  WriteCompletes .idxModeWrite (fun q => inInst q 0 = P.FBK_IDX_MODE)

/-- R274, R277, R281, R282, R284, R285: the events of profile cells, switches and power stages, each at the states where it is due, answer the state
of their effect. Completes: prfMoveBegin, prfMoveEnd, prfStall, switchEdge, stpHoldCurrent, stpOvercurrent, vmotUndervoltage, stpOpenLoad,
sdFaultInput. -/
def Obligations.MotionEventsComplete : Prop :=
  (∀ a, EventCompletes (fun t => .prfMoveBegin t a)
    (fun s _ =>
      let c := s.prf a
      a < 8 && c.st = 1 && s.now % 2560 = 0 && s.expRuns && (match c.queue with | m :: _ => m.due ≤ s.now | [] => false))
    (fun s _ => s.prfBegin a)) ∧
  (∀ a m e, EventCompletes (fun t => .prfMoveEnd t a)
    (fun s _ =>
      let c := s.prf a
      a < 8 && c.run = some m && c.endAt = some e && m.mode ≤ 2 && c.moving && planEnd c.plan 0 ≤ (s.now : Int) * 65536)
    (fun s _ =>
      let c := s.prf a
      let t := if c.plan.isEmpty then s.now else c.restTime
      ((s.updPrf a fun c => { c with run := none, pos := e * 65536, plan := [] }).prfRecord a 2 m e t).prfRest a t)) ∧
  (∀ a, EventCompletes (fun t => .prfStall t a)
    (fun s _ => a < 8 && s.rg P.PRF_MAP_PORT a ≤ 7 && (s.prf a).st ≠ 0 && (s.prf a).st ≠ 5 && s.rg P.PRF_DEV_N a ≤ (s.prf a).devRun)
    (fun s _ => s.prfStalled a 1)) ∧
  (∀ i, EventCompletes (fun t => .switchEdge t i false) (fun _ _ => i < 12)
    (fun s t => (s.switchEdge i false t).switchAccept i)) ∧
  (∀ i, EventCompletes (fun t => .switchEdge t i true) (fun _ _ => i < 12)
    (fun s t => ((s.switchEdge i true t).switchAccept i).camFollow (18 + i) 8 t)) ∧
  (∀ a, EventCompletes (fun t => .stpHoldCurrent t a)
    (fun s _ => a < 6 && (s.stp a).on && !(s.stp a).holding && !(s.prf a).moving && (s.prf a).restAt + s.rg P.STP_T_HOLD a * 1000000 ≤ s.now)
    (fun s _ => (s.updStp a fun q => { q with holding := true }).putCoils a)) ∧
  (∀ a, EventCompletes (fun t => .stpOvercurrent t a)
    (fun s _ => a < 6 && (s.stp a).on)
    (fun s _ =>
      let s := (s.updStp a fun q => { q with on := false, fault := true, oc := true, holding := false }).putCoils a
      s.prfFault a 2 0x2008 (le 1 a ++ le 1 (s.stp a).stat ++ zeros 2 ++ le 4 s.mot.vmot ++ le 2 (s.stp a).phase ++ zeros 14) true)) ∧
  (∀ mv, EventCompletes (fun t => .vmotUndervoltage t mv) (fun _ _ => mv < 8000)
    (fun s _ => forEach (List.range 6) (fun a s => s.stageFault a true) (s.updMot fun m => { m with vmot := mv, vmotLow := true }))) ∧
  (∀ a coilB, EventCompletes (fun t => .stpOpenLoad t a coilB) (fun s _ => a < 6 && (s.stp a).on && s.drives)
    (fun s _ => s.updStp a fun q => if coilB then { q with openB := true } else { q with openA := true })) ∧
  -- an input that does not become active, or that finds its cell DISABLED or in FAULT, only takes its level
  (∀ b level, EventCompletes (fun t => .sdFaultInput t b level)
    (fun s _ =>
      let q := s.updSd b fun x => { x with flt := level }
      b < 2 && (!q.sdFlt b || s.sdFlt b || (s.rg P.SD_FLT_ACT b ≠ 1 && ((s.prf (6 + b)).st = 0 || (s.prf (6 + b)).st = 5))))
    (fun s _ => s.updSd b fun x => { x with flt := level })) ∧
  -- with FLT_ACT 1 it writes its record
  (∀ b level, EventCompletes (fun t => .sdFaultInput t b level)
    (fun s _ => b < 2 && (s.updSd b fun x => { x with flt := level }).sdFlt b && !s.sdFlt b && s.rg P.SD_FLT_ACT b = 1)
    (fun s _ =>
      let s := s.updSd b fun x => { x with flt := level }
      s.record (s.prfSrc (6 + b)) 0x2009 (le 1 (6 + b) ++ le 1 (s.sdPins b) ++ zeros 22))) ∧
  -- else the pulses stop at once, the cell is in FAULT with cause 3, and the position of a move comes to rest at QSTOP_DEC
  (∀ b level, EventCompletes (fun t => .sdFaultInput t b level)
    (fun s _ => b < 2 && (s.updSd b fun x => { x with flt := level }).sdFlt b && !s.sdFlt b && s.rg P.SD_FLT_ACT b ≠ 1 &&
      (s.prf (6 + b)).st ≠ 0 && (s.prf (6 + b)).st ≠ 5)
    (fun s _ =>
      let a := 6 + b
      let e := (s.prf a).evalAt s.now
      let s := s.updSd b fun x => { x with flt := level }
      let pay := le 1 a ++ le 1 (s.sdPins b) ++ zeros 22
      let s := (s.updSd b fun x => { x with owed := [], stopped := true }).prfFault a 3 0x2009 pay false
      let rest := planStop ((s.rg P.PRF_QSTOP_DEC a : Int) * profUnit) 0 ((s.now : Int) * 65536) (e.1 * 65536) e.2.1 e.2.2
      (s.updPrf a fun c => { c with plan := rest, endAt := none }).placeFrame a))

/-- R252-R267: the feedback ports count, index, sample, read and latch. A level at a ball is accepted once it has stood for FILT x 4 ns. Completes:
fbkEdge, fbkIndex, fbkHallChange, fbkLatchTrigger, fbkSincosSample, fbkAbsRead, fbkStandstill. -/
def Obligations.FeedbackEventsComplete : Prop :=
  (∀ n x y, EventCompletes (fun t => .fbkEdge t n x y) (fun _ _ => n < 8) (fun a t => a.fbkInput n [(0, x), (1, y)] t)) ∧
  (∀ n x, EventCompletes (fun t => .fbkIndex t n x) (fun _ _ => n < 8) (fun a t => a.fbkInput n [(2, x)] t)) ∧
  (∀ n code, EventCompletes (fun t => .fbkHallChange t n code) (fun _ _ => n < 8)
    (fun a t => a.fbkInput n [(3, bit code 2), (4, bit code 1), (5, bit code 0)] t)) ∧
  (∀ n x, EventCompletes (fun t => .fbkLatchTrigger t n x) (fun _ _ => n < 8)
    (fun a t => let s := a.fbkInput n [(6, x)] t; if x then s.camFollow 1 n t else s)) ∧
  (∀ n sn cs, EventCompletes (fun t => .fbkSincosSample t n sn cs)
    (fun a _ => n < 8 && a.fbkType n = 2 && a.expRuns) (fun a t => (a.fbkSample n sn cs t).prfIndex n)) ∧
  (∀ n stamp, EventCompletes (fun t => .fbkAbsRead t n stamp none)
    (fun a _ => n < 8 && (a.fbkType n = 3 || a.fbkType n = 4) && a.expRuns && stamp % 2560 = 100 && (a.port n).absAt.isNone &&
      a.twin.ownAt ≤ stamp && (a.port n).absBad + 1 < a.rg P.FBK_ABS_ERR_N n)
    (fun a _ => a.updPort n fun q => { q with absAt := some stamp, absCrc := true, absBad := q.absBad + 1, neRun := 0 })) ∧
  -- a good read of fewer than 48 bits counts its difference from the one before, the first of all its value; one of 48 gives the position itself
  (∀ n stamp bs v, EventCompletes (fun t => .fbkAbsRead t n stamp (some bs))
    (fun a _ => n < 8 && (a.fbkType n = 3 || a.fbkType n = 4) && a.expRuns && stamp % 2560 = 100 && (a.port n).absAt.isNone &&
      a.twin.ownAt ≤ stamp && decodeAbs (a.fbkType n = 3) (a.rg P.FBK_ABS_CODE n = 1) (a.rg P.FBK_ABS_BITS n) (some bs) == .good v true true)
    (fun a _ =>
      let nb := a.rg P.FBK_ABS_BITS n
      let d : Int := if nb ≥ 48 then wrap48 (toSigned 48 v - a.fbkSign n * (a.port n).raw)
        else toSigned nb (ofSigned nb ((v : Int) - (((a.port n).absPrev.getD 0 : Nat) : Int)))
      (a.updPort n fun q => { q with
        absAt := some stamp, absCrc := false, absBad := 0, neRun := 0, absPrev := some v, absTs := stamp }).countEdge n
        (a.fbkSign n * d) stamp)) ∧
  (∀ n, EventCompletes (fun t => .fbkStandstill t n)
    (fun a _ => n < 8 && a.fbkType n ≠ 0 && a.now = a.tick && a.expRuns && (a.port n).last.2 + a.rg P.FBK_T_STILL n * 1000 ≤ a.now)
    (fun a _ => (a.setRg P.FBK_SPEED n 0).updPort n fun p => { p with valid := true, ref := none, still := true })) ∧
  (∀ n x y, StoppedEventCompletes (fun t => .fbkEdge t n x y) (fun _ _ => n < 8) (fun a t => a.fbkInput n [(0, x), (1, y)] t)) ∧
  (∀ n x, StoppedEventCompletes (fun t => .fbkIndex t n x) (fun _ _ => n < 8) (fun a t => a.fbkInput n [(2, x)] t)) ∧
  (∀ n code, StoppedEventCompletes (fun t => .fbkHallChange t n code) (fun _ _ => n < 8)
    (fun a t => a.fbkInput n [(3, bit code 2), (4, bit code 1), (5, bit code 0)] t))

/-- R253-R258, R263: what an accepted level does: a step of the quadrature sequence counts, a jump of two is illegal, an index resets, the Hall states
count in their order. A level that has not stood for FILT x 4 ns changes no count. -/
def Obligations.AcceptedLevelsCount : Prop :=
  (∀ (s : State) (n : Nat) (x y : Bool) (t : TS), s.fbkType n = 1 → s.expRuns = true →
    let step := (quadPlace x y + 4 - quadPlace (s.port n).a (s.port n).b) % 4
    let b := s.updPort n fun p => { p with a := x, b := y }
    (step = 1 → s.fbkEdge n x y t = b.countEdge n (s.fbkSign n) t) ∧ (step = 3 → s.fbkEdge n x y t = b.countEdge n (-s.fbkSign n) t) ∧
      (step = 2 → s.fbkEdge n x y t = b.illegal n t) ∧ (step = 0 → s.fbkEdge n x y t = b)) ∧
  (∀ (s : State) (n : Nat) (t : TS), s.fbkType n = 1 → s.expRuns = true → s.rg P.FBK_IDX_GATE n = 0 → s.rg P.FBK_IDX_MODE n = 1 →
    (s.port n).z = false →
    let b := ((s.updPort n fun p => { p with z := true }).latchTrigger n 2 t).bump P.FBK_IDX_CNT n
    s.fbkIndex n true t = b.indexReset n t) ∧
  (∀ (s : State) (n code : Nat) (t : TS), s.fbkType n = 5 → s.expRuns = true → code < 8 →
    let b := (s.hallSamples n t).updPort n fun p => { p with hall := code, hallNext := t }
    (code = 0 ∨ code = 7 → s.fbkHall n code t = b.hallSamples n (t + 1)) ∧
    (1 ≤ code → code ≤ 6 → (b.port n).hallLast ≠ 0 → b.rg P.FBK_HALL_ORDER n = 0 →
      (hallPlace code + 6 - hallPlace (b.port n).hallLast) % 6 = 1 →
      s.fbkHall n code t = (b.updPort n fun p => { p with hallBad := false, hallLast := code }).countEdge n (b.fbkSign n) t)) ∧
  (∀ (s : State) (n : Nat) (levels : List (Nat × Bool)) (t : TS),
    let q := (s.fbkInput n levels t).port n
    q.accepted = (s.port n).accepted ∧ q.raw = (s.port n).raw ∧ q.pos = (s.port n).pos ∧ q.latches = (s.port n).latches) ∧
  ∀ (s : State) (n k : Nat),
    (∀ x ∈ (s.port n).ins.zip (s.port n).accepted, x.1.1 = x.2 ∨ s.now < x.1.2 + max 1 (s.rg P.FBK_FILT n * 4)) →
    State.fbkSettle n k s = s

/-- R322, R325, R326, R329, R333: the lamp's commands and its events answer the state of their effect. Completes: lampEnable, lampTest, lampSet,
lampPattern, lampStrobe, lampI2cXfer, lampTestDone, lampPeriodStart, strobeEdge, strobeWindowEnd. -/
def Obligations.LampCompletes : Prop :=
  CommandCompletes .lampEnable 0x2800 (fun _ c => u8 c.payload 0 = 0)
    (fun b c => let s := b.lampOff; s.ok c s.lampMasks) ∧
  CommandCompletes .lampEnable 0x2800
    (fun b c => u8 c.payload 0 = 1 && !b.lampCfgBad && bit (u8 c.payload 1) 0)
    (fun b c =>
      let s := b.strobeStop
      let s := if s.lamp.st = 2 then s else s.lampOn
      s.ok c s.lampMasks) ∧
  CommandCompletes .lampEnable 0x2800
    (fun b c => u8 c.payload 0 = 1 && !b.lampCfgBad && !bit (u8 c.payload 1) 0)
    (fun b c =>
      let s := b.strobeStop
      ((s.updLamp fun l => { l with test := some ⟨c.k, s.now, true, s.lamp.st⟩ }).lampTo 1).lampDark) ∧
  CommandCompletes .lampTest 0x2802 (fun b _ => b.lamp.st ≠ 3)
    (fun b c => ((b.updLamp fun l => { l with test := some ⟨c.k, b.now, false, b.lamp.st⟩ }).lampTo 1).lampDark) ∧
  CommandCompletes .lampSet 0x2801
    (fun b c =>
      let p := c.payload
      1 ≤ u16 p 0 && u16 p 0 ≤ 64 && p.length = 4 + 4 * u16 p 0 && b.lampLit &&
        ((List.range (u16 p 0)).all fun i => u8 p (4 + 4 * i) ≤ 15 && u8 p (5 + 4 * i) ≤ 3 && u16 p (6 + 4 * i) ≤ b.dutyFull))
    (fun b c =>
      let es := (List.range (u16 c.payload 0)).map fun i => (u8 c.payload (4 + 4 * i), u8 c.payload (5 + 4 * i), u16 c.payload (6 + 4 * i))
      let start := b.nextPeriod b.now
      b.updLamp fun l => { l with sets := l.sets ++ [(c.k, start, es)], effAt := some (l.effAt.getD start) }) ∧
  CommandCompletes .lampSet 0x2801
    (fun b c =>
      let p := c.payload
      1 ≤ u16 p 0 && u16 p 0 ≤ 64 && p.length = 4 + 4 * u16 p 0 && !b.lampLit &&
        ((List.range (u16 p 0)).all fun i => u8 p (4 + 4 * i) ≤ 15 && u8 p (5 + 4 * i) ≤ 3 && u16 p (6 + 4 * i) ≤ b.dutyFull))
    (fun b c =>
      let es := (List.range (u16 c.payload 0)).map fun i => (u8 c.payload (4 + 4 * i), u8 c.payload (5 + 4 * i), u16 c.payload (6 + 4 * i))
      let s := es.foldl (fun (s : State) e => s.setRg (P.LMP_DUTY + e.2.1) e.1 e.2.2) b
      s.decide c.k rOK b.now []) ∧
  CommandCompletes .lampPattern 0x2803
    (fun _ c => u8 c.payload 0 ≤ 7 && (List.range 16).all fun i => u8 c.payload (4 + i) ≤ 200)
    (fun b c => (b.updLamp fun l =>
      { l with patterns := l.patterns.set (u8 c.payload 0) ((List.range 16).map fun i => u8 c.payload (4 + i)) }).ok c) ∧
  CommandCompletes .lampStrobe 0x2804
    (fun b c => u8 c.payload 0 = 1 && b.lamp.st = 2 && b.rg P.LAMP_ROWS 0 = 1 && b.rg P.LAMP_COMPAT 0 = 0)
    (fun b c => (((b.updLamp fun l => { l with step := 0, shown := 0, due := [] }).lampTo 3).strobeRecord true).ok c) ∧
  CommandCompletes .lampStrobe 0x2804 (fun _ c => u8 c.payload 0 = 0) (fun b c => b.strobeStop.ok c) ∧
  CommandCompletes .lampI2cXfer 0x2805
    (fun _ c => u8 c.payload 0 ≤ 127 && u8 c.payload 1 ≤ 16 && u8 c.payload 2 ≤ 16)
    (fun b c => (b.updLamp fun l => { l with
      xfers := l.xfers ++ [⟨c.k, u8 c.payload 0, (c.payload.drop 4).take (u8 c.payload 1), u8 c.payload 2, true, false⟩] }).lampBus) ∧
  (∀ te opens, EventCompletes (fun t => .lampTestDone t [] opens)
    (fun a _ => a.lamp.test = some te && te.began + 320000 ≤ a.now && a.expRuns)
    (fun a _ =>
      let s := a.updLamp fun l =>
        { l with test := none, shorts := [], disabled := 0, openMask := if a.rg P.LAMP_ROWS 0 = 1 then opens % 2 ^ 16 else 0 }
      let s := forEach (List.range 16) (fun c s => s.faultOff (s.lampSrc c) clsContained) s.lampStats
      let s := if te.enable then s.lampOn else if te.back ≥ 2 then s.lampRestore else s.lampTo 0
      s.decide te.k rOK s.now s.lampMasks)) ∧
  EventCompletes (fun t => .lampPeriodStart t) (fun _ _ => true) (fun a _ => a) ∧
  EventCompletes (fun t => .strobeEdge t) (fun a _ => a.lamp.st = 3 && a.expRuns)
    (fun a t => a.updLamp fun l => { l with
      step := (l.step + 1) % a.rg P.LAMP_STR_LEN 0
      due := l.due ++ [(t + a.rg P.LAMP_STR_DLY 0, bits (a.rg P.LAMP_STR_SEQ 0) (4 * a.lamp.step + 2) (4 * a.lamp.step),
        a.rg P.LAMP_STR_W 0)] }) ∧
  (∀ w, EventCompletes (fun t => .strobeWindowEnd t)
    (fun a _ => a.lamp.windows.getLast? = some w && a.lamp.st = 3 && w.stop ≤ a.now && a.drives && a.expRuns)
    (fun a _ => a.put (.lampDuties w.stop (if a.rg P.LAMP_STR_IDLE 0 = 1 then a.lamp.eff else a.lamp.eff.map fun _ => 0))))


/-! ## Camera pipelines (R292-R320) -/

/-- R306, R314-R317, R319, R332: the commands of a pipeline, its buffers among them. Completes: pipeStart, pipeStop, pipeRelease, camCommit,
camI2cXfer, pipeStatus, pipeBufs. -/
def Obligations.PipelineCommandsComplete : Prop :=
  CommandCompletes .pipeStart 0x3000
    (fun b c =>
      let p := u8 c.payload 0
      p < b.nPipes && !(b.pipe p).slots.isEmpty && !b.pipeCfgBad p &&
        !((List.range b.nPipes).any fun q => (b.pipe q).run && b.rg P.PIPE_SRC_PORT q = b.rg P.PIPE_SRC_PORT p &&
          Nat.land (b.rg P.PIPE_VC_MASK q) (b.rg P.PIPE_VC_MASK p) ≠ 0) &&
        (b.rg P.PIPE_SHADE_ACC p = noAcc || (b.loanCheck (b.rg P.PIPE_SHADE_ACC p)).isNone))
    (fun b c =>
      let p := u8 c.payload 0
      let s := (b.shadeLatch p (b.rg P.PIPE_SHADE_ACC p)).updPipe p fun q =>
        { q with run := true, first := true, cur := none, drop := [], ended := none }
      let s := s.setRg P.PIPE_STATE p 1
      (s.record (s.pipeSrc p) 0x3001 (le 1 0 ++ le 1 1 ++ le 1 1 ++ zeros 1 ++ le 4 (s.pipe p).fn ++ zeros 16)).ok c) ∧
  CommandCompletes .pipeStop 0x3001
    (fun b c => u8 c.payload 0 < b.nPipes && u8 c.payload 1 = 1)
    (fun b c =>
      let s := b.pipeAbandon (u8 c.payload 0) 1
      s.ok c (le 4 (s.pipe (u8 c.payload 0)).fn)) ∧
  CommandCompletes .pipeStop 0x3001
    (fun b c => u8 c.payload 0 < b.nPipes && u8 c.payload 1 = 0 && (b.pipe (u8 c.payload 0)).run)
    (fun b c =>
      let p := u8 c.payload 0
      let s := b.updPipe p fun q => { q with stops := q.stops ++ [c.k] }
      if (b.pipe p).cur.isSome then s else (s.pipeHalt p 1).pipeStopDecide p) ∧
  CommandCompletes .pipeStop 0x3001
    (fun b c => u8 c.payload 0 < b.nPipes && u8 c.payload 1 = 0 && !(b.pipe (u8 c.payload 0)).run)
    (fun b c => (b.updPipe (u8 c.payload 0) fun q => { q with ending := q.ending ++ [c.k] }).pipeStopDecide (u8 c.payload 0)) ∧
  CommandCompletes .pipeRelease 0x3003
    (fun b c => u8 c.payload 0 < b.nPipes)
    (fun b c =>
      let p := u8 c.payload 0
      let s := forEach (List.range 16) (fun i s =>
        if bit (u16 c.payload 2) i then
          s.updPipe p fun q => { q with slots := q.slots.modify i fun x => if x.owner = 2 then { x with owner := 0 } else x }
        else s) b
      let s := s.slotSweep p
      s.ok c (le 2 (s.pipe p).freeMask ++ zeros 2)) ∧
  CommandCompletes .camCommit 0x3004
    (fun b c =>
      let p := u8 c.payload 0
      let k := u8 c.payload 1
      p < b.nPipes && 1 ≤ k && k ≤ 32 && c.payload.length = 4 + 8 * k &&
        (List.range k).all fun i => (commitWrite (c.payload.drop (4 + 8 * i))).isSome)
    (fun b c =>
      let p := u8 c.payload 0
      let q := b.pipe p
      let gen := (q.gen + 1) % 2 ^ 32
      let ws := (List.range (u8 c.payload 1)).map fun i => commitWrite (c.payload.drop (4 + 8 * i))
      let m : Commit := ⟨gen, ws.filterMap id, if q.run then none else some c.k, c.seq, q.fn, false⟩
      let s := (b.updPipe p fun q =>
        { q with gen := gen, commits := q.commits ++ [m], baseGen := if q.run then q.baseGen else gen }).setRg P.PIPE_GEN p gen
      (if q.run then s.queued c (le 4 gen) else s).camBus p) ∧
  CommandCompletes .camI2cXfer 0x3005
    (fun b c => u8 c.payload 0 < b.nPipes && u8 c.payload 1 ≤ 127 && u8 c.payload 2 ≤ 16 && u8 c.payload 3 ≤ 16)
    (fun b c =>
      let p := u8 c.payload 0
      (b.updPipe p fun q => { q with xfers := q.xfers ++
        [⟨c.k, u8 c.payload 1, (c.payload.drop 4).take (u8 c.payload 2), u8 c.payload 3, !(b.pipe p).run, false⟩] }).camBus p) ∧
  CommandCompletes .pipeStatus 0x3006
    (fun b c => u8 c.payload 0 < b.nPipes)
    (fun b c =>
      let q := b.pipe (u8 c.payload 0)
      b.ok c (le 1 (b2n q.run) ++ zeros 1 ++ le 2 q.freeMask ++ le 4 q.fn ++ le 4 q.gen ++ q.pub)) ∧
  CommandCompletes .pipeBufs 0x3002
    (fun b c =>
      let p := u8 c.payload 0
      let k := u8 c.payload 1
      let deflate := bit (u8 c.payload 2) 0
      let size (a : Nat) : Nat := ((b.acc? a).map (·.size)).getD 0
      let at_ (i : Nat) : Nat := u32 c.payload (8 + 4 * i)
      p < b.nPipes && 1 ≤ k && k ≤ 16 && c.payload.length = 8 + 12 * k && !(b.pipe p).run &&
        (b.loanCheck (u32 c.payload 4)).isNone && accPool (u32 c.payload 4) = 6 && 8192 ≤ size (u32 c.payload 4) &&
        (List.range k).all fun i =>
          (b.loanCheck (at_ (3 * i))).isNone && (b.loanCheck (at_ (3 * i + 1))).isNone &&
          accPool (at_ (3 * i)) = 2 && accPool (at_ (3 * i + 1)) = 3 && b.frameBytes p ≤ size (at_ (3 * i)) && 3168 ≤ size (at_ (3 * i + 1)) &&
          (!deflate || ((b.loanCheck (at_ (3 * i + 2))).isNone && accPool (at_ (3 * i + 2)) = 2)))
    (fun b c =>
      let p := u8 c.payload 0
      let k := u8 c.payload 1
      let deflate := bit (u8 c.payload 2) 0
      let slots : List PSlot := (List.range k).map fun i =>
        ⟨u32 c.payload (8 + 12 * i), u32 c.payload (12 + 12 * i), if deflate then u32 c.payload (16 + 12 * i) else noAcc, 0⟩
      let s := (u32 c.payload 4 :: slots.flatMap fun x => [x.frame, x.stats] ++ (if deflate then [x.comp] else [])).foldl State.takeLoan b
      let s := ((b.pipe p).slots.flatMap fun x => if x.owner = 3 then [] else x.accs).foldl State.returnLoan s
      let s := if (s.pipe p).index = noAcc then s else s.returnLoan (s.pipe p).index
      let s := s.updPipe p fun q => { q with
        done := q.done.map fun (d : PDone) => { d with slot := none }, ref := q.ref.map fun (r : PRef) => { r with slot := 16 } }
      (s.updPipe p fun q => { q with index := u32 c.payload 4, slots := slots, last := k - 1, deflate := deflate }).ok c)

/-- R294-R297, R308, R312, R315, R317, R318: packets of a camera reach the pipelines of their port and channel, and a pipeline's own events, each at
the states where it is due, answer the state of their effect. Completes: csiFrameStart, csiLine, csiFrameEnd, frameTimeout, blobPublish,
frameIndexWrite, camCommitDone, camTrigger, i2cTransferDone. -/
def Obligations.PipelineEventsComplete : Prop :=
  (∀ port vc n ecc, PipeEventCompletes port (fun t => .csiFrameStart t port vc n ecc) (fun _ _ => vc < 16)
    (fun a _ => let b := a.phySync port; forEach (b.pipesOn port vc) (fun p s => s.csiStart p vc n ecc) b)) ∧
  (∀ port vc l, PipeEventCompletes port (fun t => .csiLine t port vc l) (fun _ _ => vc < 16)
    (fun a _ => let b := a.phySync port; forEach (b.pipesOn port vc) (fun p s => s.csiLine p vc l) b)) ∧
  (∀ port vc n ecc, PipeEventCompletes port (fun t => .csiFrameEnd t port vc n ecc) (fun _ _ => vc < 16)
    (fun a _ => let b := a.phySync port; forEach (b.pipesOn port vc) (fun p s => s.csiEnd p vc n ecc) b)) ∧
  (∀ p f, PipeEventCompletes p (fun t => .frameTimeout t p)
    (fun a _ => (a.pipe p).cur = some f && f.lastPkt + a.rg P.PIPE_FRAME_TMO p * 1000000 ≤ a.now)
    (fun a _ => a.frameEnd p f true false)) ∧
  (∀ p d, PipeEventCompletes p (fun t => .blobPublish t p)
    (fun a _ => ((a.pipe p).done.find? fun d => !d.published) = some d && (a.acc? d.accs.stats).isSome)
    (fun a _ =>
      let s := a.updPipe p fun q =>
        { q with done := q.done.map fun (x : PDone) => if x.fn = d.fn then { x with published := true } else x, pub := d.blob }
      let b : Blob := ⟨d.fn, d.start, u32 d.blob 16, u32 d.blob 24, u16 d.blob 28, s.now⟩
      let s : State := { s with cns := { s.cns with blobs := s.cns.blobs.set p (some b) } }
      s.storeData d.accs.stats 0 (d.stats ++ d.blob))) ∧
  (∀ p d r, PipeEventCompletes p (fun t => .frameIndexWrite t p)
    (fun a _ => (a.pipe p).done = d :: r && d.published && !d.zip && (a.acc? d.index).isSome)
    (fun a _ =>
      let s := a.storeData d.index (d.fn % 256 * 32)
        (le 4 d.fn ++ le 4 d.gen ++ le 8 d.start ++ le 4 d.accs.frame ++ le 4 d.accs.stats ++ le 4 d.comp ++ le 1 d.place ++ le 1 d.pat ++
          le 2 d.status)
      let s := s.updPipe p fun q =>
        { q with done := r, slots := match d.slot with | some i => q.slots.modify i fun x => { x with owner := 2 } | none => q.slots }
      (s.docEdge (125 + p)).pipeStopDecide p)) ∧
  (∀ p made bus m r, PipeEventCompletes p (fun t => .camCommitDone t p made bus)
    (fun a _ => (a.pipe p).commits = m :: r && m.begun)
    (fun a _ =>
      let made := min made m.writes.length
      let w := (a.pipe p).fn
      let s := if a.twin.state = 2 && !a.twin.lost then a.put (.twin 17 (le 1 p ++ le 4 m.gen ++ le 4 w ++ le 1 made ++ le 1 bus)) else a
      s.commitDone p made bus w)) ∧
  (∀ p, PipeEventCompletes p (fun t => .camTrigger t p) (fun a _ => a.camPeriodic p a.now && a.expRuns)
    (fun a _ =>
      let s := a.updPipe p fun q => { q with trigAt := a.now }
      let s := if s.drives then s.put (.camTrigger p a.now (s.rg P.PIPE_TRIG_W p) (s.rg P.PIPE_TRIG_POL p = 0)) else s
      s.strobeFrom p false a.now)) ∧
  (∀ p result data x r, PipeEventCompletes p (fun t => .i2cTransferDone t p result data)
    (fun a _ => (a.pipe p).xfers = x :: r && x.begun && result = 0 && p ≠ 8)
    (fun a _ => ((a.updPipe p fun q => { q with xfers := r }).decide x.k rOK a.now (i2cReply 0 data x.readLen)).camBus p)) ∧
  (∀ result data x r, EventCompletes (fun t => .i2cTransferDone t 8 result data)
    (fun a _ => a.lamp.xfers = x :: r && x.begun)
    (fun a _ => ((a.updLamp fun l => { l with xfers := r }).decide x.k (if result = 0 then rOK else rFAULT) a.now
      (i2cReply result data x.readLen)).lampBus))

/-- R294: the packets a pipeline takes are those of its port and of a channel its mask has, while it runs and the domain does. -/
def Obligations.PipelineTakesItsChannel : Prop :=
  ∀ (s : State) (port vc p : Nat),
    p ∈ s.pipesOn port vc ↔ s.expRuns = true ∧ p < s.nPipes ∧ (s.pipe p).run = true ∧ s.rg P.PIPE_SRC_PORT p = port ∧
      bit (s.rg P.PIPE_VC_MASK p) vc = true

/-! ## The Accession Store (R335-R369) -/

/-- R337-R344, R366: the store's commands answer the state of their effect. Completes: storeAlloc, storeFree, storeWrite, storeRead, storeDmaIn,
storeDmaOut, storeInfo, storePin. -/
def Obligations.StoreCommandsComplete : Prop :=
  CommandCompletes .storeAlloc 0x0200
    (fun b c =>
      let pool := u8 c.payload 0
      let size := u32 c.payload 4
      pool ≤ 6 && pool ≠ 4 && 1 ≤ size && size ≤ 2 ^ 30 && !b.store.stopped && !b.noSpaceFor pool size)
    (fun b c =>
      let r := b.allocAcc (u8 c.payload 0) (u32 c.payload 4)
      r.2.ok c (le 4 r.1 ++ le 4 (granulesOf (u32 c.payload 4)))) ∧
  (∀ a, CommandCompletes .storeFree 0x0201
    (fun b c => b.acc? (u32 c.payload 0) = some a && accPool (u32 c.payload 0) ≠ 7 && a.state ≠ 3)
    (fun b c =>
      let acc := u32 c.payload 0
      if a.loans = 0 then (b.releaseAcc acc).ok c (le 4 0)
      else (b.updAcc acc fun a => { a with state := 3, freedAt := b.now, loansAtFree := a.loans }).decide c.k rDEFERRED b.now (le 4 a.loans))) ∧
  CommandCompletes .storeWrite 0x0202
    (fun b c =>
      let acc := u32 c.payload 0
      !b.storeParam acc (u32 c.payload 4) (c.payload.drop 8).length && !poolClosed acc && !b.storeBusy acc)
    (fun b c =>
      let data := c.payload.drop 8
      (b.storeData (u32 c.payload 0) (u32 c.payload 4) data).ok c) ∧
  CommandCompletes .storeRead 0x0203
    (fun b c =>
      let len := u32 c.payload 8
      1 ≤ len && len ≤ 16384 && !b.storeParam (u32 c.payload 0) (u32 c.payload 4) len &&
        (b.firstPoison (u32 c.payload 0) (u32 c.payload 4) len).isNone)
    (fun b c => (b.readLines (u32 c.payload 0) (u32 c.payload 4) (u32 c.payload 8)).ok c
      (b.memBytes (u32 c.payload 0) (u32 c.payload 4) (u32 c.payload 8))) ∧
  CommandCompletes .storeDmaIn 0x0204
    (fun b c =>
      let acc := u32 c.payload 0
      !b.storeParam acc (u32 c.payload 4) (u32 c.payload 8) && !poolClosed acc && !b.storeBusy acc && (c.twin || b.onPcie c))
    (fun b c => b.updStore fun st =>
      { st with dma := st.dma ++ [⟨c.sess, c.stream, c.seq, u32 c.payload 0, u32 c.payload 4, u32 c.payload 8, u64 c.payload 16, true⟩] }) ∧
  CommandCompletes .storeDmaOut 0x0205
    (fun b c => !b.storeParam (u32 c.payload 0) (u32 c.payload 4) (u32 c.payload 8) && (c.twin || b.onPcie c))
    (fun b c => b.updStore fun st =>
      { st with dma := st.dma ++ [⟨c.sess, c.stream, c.seq, u32 c.payload 0, u32 c.payload 4, u32 c.payload 8, u64 c.payload 16, false⟩] }) ∧
  (∀ a, CommandCompletes .storeInfo 0x0206
    (fun b c => b.acc? (u32 c.payload 0) = some a)
    (fun b c => b.ok c (le 1 (accPool (u32 c.payload 0)) ++ le 1 a.state ++ le 1 a.poisonCount ++ le 1 (b2n a.pinned) ++ le 4 a.size ++
      le 2 (min a.loans 65535) ++ zeros 2 ++ le 8 a.created))) ∧
  (∀ a, CommandCompletes .storePin 0x0207
    (fun b c =>
      let acc := u32 c.payload 0
      b.acc? acc = some a && u8 c.payload 4 = 1 && accPool acc = 5 && a.state = 0 && !a.pinned && !(b.store.pins.any fun j => j.acc = acc) &&
        (b.loanCheck acc).isNone && a.granules * 4096 ≤ b.pinFree)
    (fun b c =>
      let acc := u32 c.payload 0
      let s := (b.takeLoan acc).setRg P.SF_PIN_USED 0 ((b.takeLoan acc).rg P.SF_PIN_USED 0 + a.granules * 4096)
      s.updStore fun st => { st with pins := st.pins ++ [⟨c.sess, c.stream, c.seq, acc, 0, a.size, 0, true⟩] }))

/-- R341, R344, R351, R352, R354, R356, R358, R364, R366: the store's events, each at the states where it is due, answer the state of their effect.
Completes: loanReturn, dramReadComplete, dramAlert, dramRefresh, rowHammerRefresh, rhWindowClear, dramPageClose, rankPowerDown, storeDmaDone,
storePinDone. -/
def Obligations.StoreEventsComplete : Prop :=
  (∀ acc x, EventCompletes (fun t => .loanReturn t acc)
    (fun a _ => a.acc? acc = some x && 1 ≤ x.loans && x.state ≠ 3)
    (fun a _ => a.updAcc acc fun x => { x with loans := x.loans - 1 })) ∧
  (∀ acc x, EventCompletes (fun t => .loanReturn t acc)
    (fun a _ => a.acc? acc = some x && x.loans = 1 && x.state = 3)
    (fun a _ =>
      let s := a.releaseAcc acc
      s.record (s.srcPath 4 3 0) 0x4006 (le 4 acc ++ le 4 x.loansAtFree ++ le 4 ((a.now - x.freedAt) / 1000) ++ zeros 12))) ∧
  (∀ acc off q, EventCompletes (fun t => .dramReadComplete t acc off .dramSingle q)
    (fun a _ => (a.acc? acc).isSome && !a.frontOnly acc && (a.firstPoison acc (off / 64 * 64) 64).isNone)
    (fun a _ =>
      let pl := a.placeOf acc off
      let s := (((a.bankUsed pl.1 pl.2.1).issue 1 pl.1 pl.2.1 pl.2.2.1).fillLine acc off).bump P.RANK_CE_COUNT pl.1
      s.record (s.rankSrc pl.1) 0x4001
        (le 1 pl.2.1 ++ zeros 1 ++ le 2 pl.2.2.2 ++ le 4 pl.2.2.1 ++ le 4 acc ++ le 4 (off / 64 * 64) ++ zeros 8))) ∧
  (∀ acc off q, EventCompletes (fun t => .dramReadComplete t acc off .none q)
    (fun a _ => (a.acc? acc).isSome && !a.frontOnly acc && (a.firstPoison acc (off / 64 * 64) 64).isNone)
    (fun a _ =>
      let pl := a.placeOf acc off
      ((a.bankUsed pl.1 pl.2.1).issue 1 pl.1 pl.2.1 pl.2.2.1).fillLine acc off)) ∧
  (∀ r commands attempts stall, EventCompletes (fun t => .dramAlert t r commands attempts stall false)
    (fun a _ => r < 4 && (a.rank r).state ≤ 1)
    (fun a _ =>
      let q := a.unacked (r / 2)
      let tries := min 3 (max 1 attempts)
      let s := (a.bump P.DDR_REPLAYS (r / 2)).bump P.RANK_PAR_ERR r
      -- each replay precharges the rank and activates again the rows that its commands need
      let s := forEach (List.range tries) (fun _ s =>
        (rowsNeeded q r).foldl (fun s a => s.openBank r a.1 a.2) (s.updRank r fun x => { x with openRow := List.replicate 8 none })) s
      let s := s.updStore fun st => { st with retry := st.retry.set (r / 2) [] }
      s.record (s.rankSrc r) 0x4003
        (le 1 (min (max commands q.length) 64) ++ le 1 tries ++ zeros 2 ++ le 4 stall ++ zeros 16))) ∧
  (∀ r waiting, EventCompletes (fun t => .dramRefresh t r waiting)
    (fun a _ => r < 4 && (a.rank r).state ≤ 1 && (a.rank r).refDue ≤ a.now && waiting && (a.rank r).postponed < 8)
    (fun a _ => a.updRank r fun x =>
      { x with postponed := x.postponed + 1, refDue := max a.now ((a.rank r).refDue + a.refi (r / 2)) })) ∧
  (∀ r waiting, EventCompletes (fun t => .dramRefresh t r waiting)
    (fun a _ => r < 4 && (a.rank r).state ≤ 1 && (a.rank r).refDue ≤ a.now && (!waiting || 8 ≤ (a.rank r).postponed))
    (fun a _ => ((a.issue 2 r 0 0).updRank r fun x =>
      { x with
        state := 0
        lastUse := a.now
        openRow := List.replicate 8 none
        postponed := if waiting then 8 else 0
        refDue := max a.now ((a.rank r).refDue + a.refi (r / 2)) }).setRg P.RANK_STATE r 0)) ∧
  (∀ r bank row, EventCompletes (fun t => .rowHammerRefresh t r bank row)
    (fun a _ => r < 4 && bank < 8 && row < 65536 && (a.rank r).state ≤ 1)
    (fun a _ =>
      let s := a.issue 0 r bank row
      let hot := (rhTouch ((s.rank r).rh.getD bank []) row (s.rg P.DDR_RH_THR (r / 2))).2.isSome
      let left := if hot ∨ s.rg P.DDR_PAGE_IDLE (r / 2) = 0 then none else some row
      let s := ((s.activate r bank 40000 [row]).updRank r fun x => { x with openRow := x.openRow.set bank left }).bankUsed r bank
      (s.updRank r fun x => { x with state := 0 }).setRg P.RANK_STATE r 0)) ∧
  (∀ ch, EventCompletes (fun t => .rhWindowClear t ch)
    (fun a _ => ch < 2 && a.store.rhAt.getD ch 0 + a.rg P.DDR_RH_WIN ch * 1000000 ≤ a.now)
    (fun a _ =>
      let s := a.updStore fun st => { st with rhAt := st.rhAt.set ch a.now }
      (s.updRank (2 * ch) fun x => { x with rh := List.replicate 8 [] }).updRank (2 * ch + 1) fun x =>
        { x with rh := List.replicate 8 [] })) ∧
  (∀ r bank, EventCompletes (fun t => .dramPageClose t r bank)
    (fun a _ => r < 4 && bank < 8 && (a.rank r).used.getD bank 0 + a.rg P.DDR_PAGE_IDLE (r / 2) ≤ a.now)
    (fun a _ =>
      let s := match (a.rank r).openRow.getD bank none with | some row => a.issue 3 r bank row | none => a
      s.updRank r fun x => { x with openRow := x.openRow.set bank none })) ∧
  (∀ r, EventCompletes (fun t => .rankPowerDown t r)
    (fun a _ => r < 4 && (a.rank r).state = 0 && (a.rank r).lastUse + a.rg P.DDR_RANK_PD (r / 2) ≤ a.now)
    (fun a _ => (a.updRank r fun x => { x with state := 1, openRow := List.replicate 8 none }).setRg P.RANK_STATE r 1)) ∧
  (∀ moved data j r, EventCompletes (fun t => .storeDmaDone t moved true data)
    (fun a _ => a.store.dma = j :: r && j.inward && (a.acc? j.acc).isSome)
    (fun a _ =>
      let b := a.updStore fun st => { st with dma := r }
      let b := if b.forwards && j.sess = 0 then b.put (.twin 19 (le 1 j.stream ++ le 4 j.seq ++ data.take j.len)) else b
      (b.storeData j.acc j.off (data.take j.len)).decide ⟨j.sess, j.stream, j.seq⟩ rOK a.now (le 4 j.len))) ∧
  (∀ j r, EventCompletes (fun t => .storePinDone t)
    (fun a _ => a.store.pins = j :: r)
    (fun a _ =>
      let s := (a.updStore fun st => { st with pins := r }).updAcc j.acc fun x => { x with pinned := true }
      s.decide ⟨j.sess, j.stream, j.seq⟩ rOK a.now (le 4 s.pinFree)))

/-- R362-R365: a compression job is accepted with a loan of its input, its outputs become WRITING, and its end gives them what it made. Completes:
zipCompress, zipDecompress, zipJobEnd. -/
def Obligations.CompressionCompletes : Prop :=
  CommandCompletes .zipCompress 0x4000
    (fun b c =>
      let p := c.payload
      u8 p 0 ≤ 2 && u8 p 1 ≤ 1 && u8 p 2 ≤ 1 && (b.zipBad false (u32 p 4) (u32 p 8) (u32 p 12) (u32 p 16) (u32 p 20)).isNone)
    (fun b c =>
      let p := c.payload
      let e := match u8 p 0 with | 1 => 0 | 2 => 1 | _ => b.shorterZip
      let s := (b.takeLoan (u32 p 4)).updAcc (u32 p 16) fun a => { a with state := 1 }
      let s := if u32 p 20 = noAcc then s else s.updAcc (u32 p 20) fun a => { a with state := 1 }
      (s.updZip e fun z => { z with jobs := z.jobs ++
        [⟨0, c.sess, c.stream, c.seq, u8 p 1, u8 p 2 = 1, u32 p 4, u32 p 8, u32 p 12, u32 p 16, u32 p 20, 0, none⟩] }).zipNext e) ∧
  CommandCompletes .zipDecompress 0x4001
    (fun b c =>
      let p := c.payload
      u8 p 0 ≤ 2 && (b.zipBad false (u32 p 4) (u32 p 8) (u32 p 12) (u32 p 16) (u32 p 20)).isNone)
    (fun b c =>
      let p := c.payload
      let s := (b.takeLoan (u32 p 4)).updAcc (u32 p 16) fun a => { a with state := 1 }
      let s := if u32 p 20 = noAcc then s else s.updAcc (u32 p 20) fun a => { a with state := 1 }
      (s.updZip 2 fun z => { z with jobs := z.jobs ++
        [⟨1, c.sess, c.stream, c.seq, u8 p 0, false, u32 p 4, u32 p 8, u32 p 12, u32 p 16, u32 p 20, 0, none⟩] }).zipNext 2) ∧
  (∀ e j, EventCompletes (fun t => .zipJobEnd t e)
    (fun a _ => e < 3 && (a.zip e).running = some j)
    (fun a _ =>
      let r := a.zipRun j (Config.fresh a.fresh)
      -- where the engine stops before its end, how far it came is a free value
      let s : State := if r.res = rOK ∨ j.kind = 1 then a else { a with fresh := a.fresh + 1 }
      (((s.readLines j.input j.off j.len).updZip e fun z => { z with running := none }).zipFinish e j r).zipNext e))

/-- R342, R366: what a write puts into an accession of the store is what a read of it then gives; every other byte is as before. What the map's
accession and the blob slots of the system pages read as lies in the map and in the pipelines (R155, R312): a write of the store does not reach it. -/
def Obligations.StoreReadsBack : Prop :=
  ∀ (s : State) (acc off : Nat) (data : List Byte),
    (acc ≠ s.gal.acc → acc ≠ systemPages → (s.memWrite acc off data).memBytes acc off data.length = data) ∧
    (∀ off', (s.memWrite acc off data).memByte s.gal.acc off' = s.memByte s.gal.acc off') ∧
    (∀ acc' off', (memKey acc' off' < memKey acc off ∨ memKey acc off + data.length ≤ memKey acc' off') →
      (s.memWrite acc off data).memByte acc' off' = s.memByte acc' off') ∧
    (s.memWrite acc off data).params = s.params ∧ (s.memWrite acc off data).beams = s.beams ∧
    (s.memWrite acc off data).host = s.host ∧ (s.memWrite acc off data).store.accs = s.store.accs

/-- The store's bytes keep their canonical form under every operation over them: strictly rising addresses (the model's own form). -/
def Obligations.StoreStaysCanonical : Prop :=
  Memory.wf State.reset.store.mem = true ∧
  ∀ s : State, Memory.wf s.store.mem = true →
    (∀ acc off data, Memory.wf (s.memWrite acc off data).store.mem = true) ∧
    (∀ acc off n, Memory.wf (s.memDrop acc off n).store.mem = true) ∧
    (∀ acc, Memory.wf (s.releaseAcc acc).store.mem = true) ∧
    (∀ acc off data, Memory.wf (s.storeData acc off data).store.mem = true)

/-! ## Time, launches and the catalogue (R370-R400) -/

/-- R377, R388, R390, R391, R396, R398: the commands of group 0x50xx, and a write of the time sources, answer the state of their effect. Completes:
timeGet, timeSet, timeLaunch, launchFlush, catSeal, catList, catRelease, timeSrcWrite. -/
def Obligations.TimeCommandsComplete : Prop :=
  CommandCompletes .timeGet 0x5000 (fun _ _ => true)
    (fun b c => b.ok c (le 8 b.now ++ le 1 b.time.st ++ le 1 b.timeFlags ++ zeros 2 ++ le 4 (ofSigned 32 (sat32 b.time.lastOfs)))) ∧
  CommandCompletes .timeSet 0x5001
    (fun b c => b.rg P.TIME_SRC 0 = 0 && b.power.state ≠ 4 && b.twin.state ≠ 3 && 0 ≤ tsDiff (u64 c.payload 0) b.now)
    (fun b c =>
      let d := (tsDiff (u64 c.payload 0) b.now).toNat
      b.requestStep d 2 (some (b.now + d)) (some c.k)) ∧
  CommandCompletes .timeLaunch 0x5002
    (fun b c =>
      let p := c.payload
      let len := u16 p 2
      u8 p 0 ≤ 2 && 60 ≤ len && len ≤ (if b.rg P.ETH_JUMBO (u8 p 0) = 1 then 9014 else 1514) && p.length = 16 + len &&
        5000 ≤ tsDiff (u64 p 8) c.stamp && tsDiff (u64 p 8) c.stamp ≤ 60000000000)
    (fun b c => (b.updLaunches (u8 c.payload 0)
      (insertLaunch ⟨u32 c.payload 4, c.stamp + (tsDiff (u64 c.payload 8) c.stamp).toNat, c.payload.drop 16, c.stream, c.seq, c.ord⟩)).queued c) ∧
  CommandCompletes .launchFlush 0x5003
    (fun _ c => u8 c.payload 0 ≤ 2)
    (fun b c =>
      let port := u8 c.payload 0
      let ls := b.launchesOf port
      (ls.foldl (fun s l => s.launchRecord port 3 l 0) (b.updLaunches port fun _ => [])).ok c (le 4 ls.length)) ∧
  CommandCompletes .catSeal 0x5010 (fun _ _ => true)
    (fun b c => b.catSealNow.2.ok c (le 4 (b.catSealNow.1.getD 0xFFFFFFFF))) ∧
  CommandCompletes .catList 0x5011
    (fun _ c => 1 ≤ u32 c.payload 4 && u32 c.payload 4 ≤ 64)
    (fun b c =>
      let gs := (b.catListed.filter fun g => g.number ≥ u32 c.payload 0).take (u32 c.payload 4)
      b.ok c (le 4 gs.length ++ gs.flatMap fun g =>
        le 4 g.number ++ le 4 g.acc ++ le 4 g.size ++ le 1 (b2n g.compressed.isSome) ++ zeros 3 ++ le 8 g.least ++ le 8 g.greatest)) ∧
  (∀ g a, CommandCompletes .catRelease 0x5012
    (fun b c => (b.catListed.find? fun g => g.number = u32 c.payload 0) = some g && b.acc? g.acc = some a && a.state ≠ 3 && a.loans = 0)
    (fun b c => (State.releaseAcc { b with log := { b.log with segs := b.log.segs.filter fun q => q.number ≠ u32 c.payload 0 } } g.acc).ok c)) ∧
  ManageCompletes .timeSrcWrite (fun q => q = P.TIME_SRC) (fun b _ v => (b.setReg P.TIME_SRC v).servoSrcSet b.servoSrc)

/-- R375-R378, R380-R384, R386: the servo, its steps and the PPS signals; PTP messages and timers of a port that runs PTP. Completes: servoOffset,
servoHoldover, timeStepApply, ppsInEdge, ppsOut, twinTimingExchange, refLoss, ptpMessage, ptpIntervalTimer. -/
def Obligations.ServoEventsComplete : Prop :=
  (∀ th per r, EventCompletes (fun t => .servoOffset t)
    (fun a _ => a.time.offers = (th, per) :: r)
    (fun a _ => (a.updTime fun t => { t with offers := r }).servo th per)) ∧
  EventCompletes (fun t => .servoHoldover t)
    (fun a _ => a.time.st = 2 && a.servoSrc ≠ 0 && a.time.lastAt + a.rg P.TIME_HOLD_TMO 0 * 1000000 ≤ a.now)
    (fun a _ => (a.setFreq a.time.i).servoTo 3) ∧
  (∀ q v, EventCompletes (fun t => .timeStepApply t)
    (fun a _ => a.time.step = some q && q.held && a.power.state ≠ 4 && a.now % 2560 = 0 && q.dest = some v)
    (fun a _ =>
      let s := a.stepTo (max v a.now) q.cause true
      match q.k with | some k => s.decide k rOK a.now [] | none => s)) ∧
  (∀ k rising, EventCompletes (fun t => .ppsInEdge t k rising)
    (fun a _ => k < 2 && rising != bit (a.rg P.TIME_PPS_IN_EDGE 0) k)
    (fun a _ =>
      let s := (a.docLevel (289 + k) rising).setRg2 (P.TIME_PPS_IN_TS + 2 * k) 0 ((a.docLevel (289 + k) rising).now : Nat)
      s.offer (2 + k) ((s.now : Int) - ((s.now + 500000000) / 1000000000 * 1000000000 : Nat)) 1000000000)) ∧
  (∀ k, EventCompletes (fun t => .ppsOut t k)
    (fun a _ => k < 2 && a.rg (P.TIME_PPS_OUT_MODE + k) 0 = 1 && a.now % 1000000000 = 0)
    (fun a _ => a.put (.pps k a.now (a.rg P.TIME_PPS_W 0)))) ∧
  (∀ k, EventCompletes (fun t => .ppsOut t k)
    (fun a _ => k < 2 && a.rg (P.TIME_PPS_OUT_MODE + k) 0 = 2 && a.now % a.rg P.TIME_PPS_PERIOD 0 = 0)
    (fun a _ => a.put (.pps k a.now (a.rg P.TIME_PPS_W 0)))) ∧
  (∀ t1 t2 t3 t4, EventCompletes (fun t => .twinTimingExchange t t1 t2 t3 t4)
    (fun a _ => a.twin.state = 3)
    (fun a _ =>
      let raw : Int := ((t2 : Int) - t1) - ((t4 : Int) - t3)
      let theta := roundDiv (raw * 1000 - (a.calInt 245 + a.calInt 246)) 2000
      ((a.updTwin fun t => { t with twinOfs := theta, measured := true }).setRgI P.TIME_TWIN_OFS 0 (sat32 theta)).offer 4 theta 655360)) ∧
  (∀ b, EventCompletes (fun t => .refLoss t b) (fun a _ => !a.time.twinRef)
    (fun a _ =>
      let seq := a.seqOf a.timeSrc
      let s := a.updTime fun t => { t with twinRef := b }
      let s := s.record s.timeSrc 0x000B (le 1 (b2n b) ++ le 1 1 ++ zeros 22)
      if b then s else s.blockEscalate s.timeSrc 0x000B seq clsFatal)) ∧
  (∀ p ip m, EventCompletes (fun t => .ptpMessage t p ip m) (fun _ _ => p < 3) (fun a _ => a.ptpMessage p ip m)) ∧
  (∀ p, EventCompletes (fun t => .ptpIntervalTimer t p .sync)
    (fun a _ => p < 3 && a.ptpOn p && (a.ptp p).state = 6)
    (fun a _ =>
      let r := a.ptpSeq p 1
      let log := r.2.rg P.PTP_LOG_SYNC p
      r.2.ptpSend p (r.2.ptpHeader p 0 44 0x0200 0 r.1 log ++ ptpStampBytes (r.2.now : Nat)) (.sync r.1 log))) ∧
  (∀ p, EventCompletes (fun t => .ptpIntervalTimer t p .qualify)
    (fun a _ => p < 3 && a.ptpOn p && (a.ptp p).state = 5) (fun a _ => a.ptpTo p 6)) ∧
  (∀ p k, EventCompletes (fun t => .ptpIntervalTimer t p k) (fun a _ => p < 3 && !a.ptpOn p) (fun a _ => a))

/-- R373, R388-R390, R395-R397: launches, the summaries and the sealing of a segment, the input pins and the Ethernet links. Completes: launchSend,
launchDrop, catSealTimeout, meltSum, evtInEdge, ethLinkChange, arpIcmpRequest. -/
def Obligations.TimeEventsComplete : Prop :=
  (∀ p l r, EventCompletes (fun t => .launchSend t p)
    (fun a _ => p < 3 && a.launchesOf p = l :: r && l.due ≤ a.now && a.twin.own && a.host.ethUp.getD p false &&
      a.time.lineFree.getD p 0 ≤ a.now && a.now ≤ l.due + a.rg P.TIME_LATE_MAX 0)
    (fun a _ =>
      let s := (a.updLaunches p fun _ => r).updTime fun t =>
        { t with lineFree := t.lineFree.set p (a.now + lineTime (a.host.ethSpeed.getD p 0) l.data.length) }
      (s.put (.ethernet p a.now l.data)).launchRecord p 0 l a.now)) ∧
  (∀ p l r, EventCompletes (fun t => .launchDrop t p)
    (fun a _ => p < 3 && a.launchesOf p = l :: r && a.twin.own && l.due + a.rg P.TIME_LATE_MAX 0 < a.now)
    (fun a _ =>
      let s := (a.updLaunches p fun _ => r).bump P.TIME_LAUNCH_LATE 0
      s.launchRecord p (if a.host.ethUp.getD p false then 1 else 2) l 0)) ∧
  (∀ g, EventCompletes (fun t => .catSealTimeout t)
    (fun a _ => a.log.openSeg = some g && g.firstAt + a.rg P.CAT_SEAL_MS 0 * 1000000 ≤ a.now) (fun a _ => a.catSealNow.2)) ∧
  EventCompletes (fun t => .meltSum t)
    (fun a _ => a.rg P.CAT_SUM_FR 0 ≠ 0 && a.now % 2560 = 0 && (a.now / 2560) % a.rg P.CAT_SUM_FR 0 = 0)
    (fun a _ => forEach (List.range a.nBeams) (fun n s => s.meltSum n) a) ∧
  (∀ i, EventCompletes (fun t => .evtInEdge t i false) (fun _ _ => i < 16)
    (fun a t => ((a.setPin (1 + i) false).docLevel (1 + i) false).latchSource (2 + i) false t)) ∧
  (∀ i, EventCompletes (fun t => .evtInEdge t i true) (fun _ _ => i < 16)
    (fun a t => (((a.setPin (1 + i) true).docLevel (1 + i) true).latchSource (2 + i) true t).camFollow (2 + i) 8 t)) ∧
  (∀ i rising, StoppedEventCompletes (fun t => .evtInEdge t i rising) (fun _ _ => i < 16) (fun a _ => (a.aonEdge (1 + i) rising).finish)) ∧
  (∀ p on speed, EventCompletes (fun t => .ethLinkChange t p on speed) (fun _ _ => p < 3)
    (fun a _ => a.updHost fun h => { h with
      ethUp := h.ethUp.set p on
      ethSpeed := if on then h.ethSpeed.set p speed else h.ethSpeed })) ∧
  (∀ p mac ip, EventCompletes (fun t => .arpIcmpRequest t p (.arp mac ip 0xC0A80001))
    (fun a _ => p < 3 && !a.power.recovery && a.rg P.ETH_IPV4 p = 0xC0A80001 && !a.macHeld p 42)
    (fun a _ => a.put (.arpReply p mac ip 0xC0A80001)))

/-- R25, R378: after a step the time base reads the new TS64 and is valid, no step waits, and the frame counts from the first multiple of 2,560 at or
after the new TS64, so that its tick comes one to two frames later (State.tick is the tick before). -/
def Obligations.StepRestartsTheFrame : Prop :=
  ∀ (s : State) (new : TS) (cause : Nat) (held : Bool),
    let s' := s.stepTo new cause held
    s'.now = new ∧ s'.tick % 2560 = 0 ∧ new ≤ s'.tick ∧ s'.tick < new + 2560 ∧ s'.time.valid = true ∧ s'.time.step = none ∧
      s'.rg2 P.TIME_STEP_PEND 0 = 0

/-! ## The twin pair, the log and faults (R401-R436) -/

/-- R402-R404, R408, R410-R412, R419, R434: the commands of group 0x60xx (TWIN_SWITCH and TWIN_RESYNC, which only a settled pair takes, are forwarded
first, R406, and take effect when their interpreter begins them), and how a module of a pair finds, loses and replaces its partner. Completes:
twinStatus, twinSwitch, twinSeize, twinResync, twinHello, negTimeout, heartbeatLoss, twinFaultRise, twinKillIn, twinKillRelease, twinHbEdge,
twinReleaseWord, takeoverWaitEnd, twinTakeOwn, twinLinkTimeout. -/
def Obligations.TwinCompletes : Prop :=
  CommandCompletes .twinStatus 0x6000 (fun _ _ => true)
    (fun b c => b.ok c (le 1 b.twin.state ++ le 1 (b2n b.straps.roleB) ++ le 1 b.twin.partner ++ le 1 b.twinPins ++
      le 8 (ofSigned 64 (b.rg2 P.TWIN_DIGEST 0)) ++ le 8 b.twin.digestFrame ++ le 4 b.fwdPend)) ∧
  (∀ (s : State) (p : Packet) (i : Nat), s.takesHeld 0x6001 p i = true →
    exec (.twinSwitch p) s = .next ((s.taken 0x6001 p i).afterRun).gatePath) ∧
  (∀ (b : State) (c : Ctx), c.op = 0x6001 → b.checkBad c = none → b.settledPair = true → b.switchQuiet = true →
    b.interpret c =
      let at_ := b.framesAhead 16
      ((b.updTwin fun t => { t with switchAt := some at_ }).put (.twin 10 (le 8 at_))).ok c (le 8 (at_ / 2560))) ∧
  CommandCompletes .twinSeize 0x6002
    (fun b c =>
      let slot := u8 c.payload 0
      let n := b.takeNonce false (b.session c.sess).ep c.sess
      b.twin.state = 3 && slot ≤ 7 && n.2.tagOk slot 1 n.1 [0x53, BitVec.ofNat 8 slot] (field c.payload 4 16))
    (fun b c =>
      let s := (b.takeNonce false (b.session c.sess).ep c.sess).2
      (s.takeStart 4 s.now (some s.now)).updTwin fun t => { t with seize := some c.k }) ∧
  (∀ (s : State) (p : Packet) (i : Nat), s.takesHeld 0x6003 p i = true →
    exec (.twinResync p) s = .next ((s.taken 0x6003 p i).afterRun).gatePath) ∧
  (∀ (b : State) (c : Ctx), c.op = 0x6003 → b.checkBad c = none → b.settledPair = true →
    b.interpret c = (b.updTwin fun t => { t with reAsked := some c.k, resolving := true }).sendCopy) ∧
  (∀ h, EventCompletes (fun t => .twinHello t h) (fun a _ => !a.twin.paired) (fun a _ => a.put (.twin 1 (le 1 0)))) ∧
  (∀ h, EventCompletes (fun t => .twinHello t h) (fun a _ => a.twin.paired) (fun a _ => a.twinHello h)) ∧
  EventCompletes (fun t => .negTimeout t)
    (fun a _ => a.twin.state = 1 && a.twin.paired && !a.killed && !a.twin.mismatch &&
      a.twin.negAt + (a.rg P.TWIN_NEG_TMO 0 * 1000000 + (if a.straps.roleB then 500000000 else 0)) ≤ a.now)
    (fun a _ => a.takeStart 1 a.now none) ∧
  (∀ h, EventCompletes (fun t => .heartbeatLoss t)
    (fun a _ => a.twin.hbAt = some h && h + a.rg P.TWIN_HB_TMO 0 * 1000 ≤ a.now && a.twin.state = 3)
    (fun a _ => ((a.updTwin fun t => { t with hbAt := none }).docLevel 25 false).takeStart 1 (h + a.rg P.TWIN_HB_TMO 0 * 1000) (some h))) ∧
  EventCompletes (fun t => .twinFaultRise t) (fun a _ => a.inPair && a.twin.state = 2)
    (fun a _ => ((a.updTwin fun t => { t with faultIn := true }).docLevel 23 true).shadowLost) ∧
  EventCompletes (fun t => .twinFaultRise t) (fun a _ => !a.inPair)
    (fun a _ => (a.updTwin fun t => { t with faultIn := true }).docLevel 23 true) ∧
  EventCompletes (fun t => .twinKillIn t) (fun a _ => !a.inPair)
    (fun a _ => (a.updTwin fun t => { t with killIn := true, linksCut := t.linksCut || a.inPair }).docLevel 24 true) ∧
  EventCompletes (fun t => .twinKillIn t) (fun a _ => a.inPair && a.twin.state = 3 && !a.twin.own && (a.straps.roleB || a.twin.takeD.isNone))
    (fun a _ =>
      (((a.updTwin fun t => { t with killIn := true, linksCut := t.linksCut || a.inPair }).docLevel 24 true).takeDrop).twinTo 5 4) ∧
  EventCompletes (fun t => .twinKillRelease t) (fun _ _ => true)
    (fun a _ => (a.updTwin fun t => { t with killIn := false }).docLevel 24 false) ∧
  EventCompletes (fun t => .twinHbEdge t) (fun _ _ => true)
    (fun a _ => (a.updTwin fun t => { t with hbAt := some a.now, negAt := a.now }).docPulse 25) ∧
  EventCompletes (fun t => .twinReleaseWord t) (fun a _ => a.twin.takeD.isSome && a.twin.takeB.isNone)
    (fun a _ => a.updTwin fun t => { t with release := true, takeB := some a.nextFrame }) ∧
  (∀ d, EventCompletes (fun t => .takeoverWaitEnd t)
    (fun a _ => a.twin.takeD = some d && a.twin.takeB.isNone && d + 2000 ≤ a.now)
    (fun a _ => a.updTwin fun t => { t with release := false, takeB := some a.nextFrame })) ∧
  (∀ d b, EventCompletes (fun t => .twinTakeOwn t)
    (fun a _ => a.twin.takeD = some d && a.twin.takeB = some b && b ≤ a.now && !a.killed) (fun a _ => a.twinTakeOwn)) ∧
  EventCompletes (fun t => .twinLinkTimeout t)
    (fun a _ => a.twin.heard && a.twin.heardAt + a.rg P.TWIN_LINK_TMO 0 * 1000 ≤ a.now && a.twin.state = 2)
    (fun a _ => (a.updTwin fun t => { t with linkUp := false }).shadowLost)

/-- R406, R407, R409, R410, R431: what passes between the modules of a pair is taken with its effect. Completes: twinForwardReceive, twinAck,
twinDigest, stateTransfer, resyncTimeout, logMirror. -/
def Obligations.TwinTrafficCompletes : Prop :=
  (∀ stream seq op flags acc payload, EventCompletes (fun t => .twinForwardReceive t (.command stream seq op flags acc payload))
    (fun a _ => a.follows && stream ≤ 31)
    (fun a _ => (a.updTwin fun t => { t with heardAt := a.now }).forwardedCommand stream (seq % 2 ^ 32) op flags acc payload)) ∧
  (∀ stream seq op flags result acc eff payload,
    EventCompletes (fun t => .twinForwardReceive t (.reply stream seq op flags result acc eff payload))
    (fun a _ => a.follows && stream ≤ 31)
    (fun a _ => (a.updTwin fun t => { t with heardAt := a.now }).causedBy acc fun s =>
      s.forwardedReply stream (seq % 2 ^ 32) op flags result acc eff payload)) ∧
  (∀ stream seq, EventCompletes (fun t => .twinAck t true stream seq) (fun _ _ => true)
    (fun a _ => (a.updTwin fun t => { t with
      heardAt := a.now
      fwd := t.fwd.filter fun f => !(f.reply = true && f.stream = stream && f.seq = seq) }).updStream 0 stream fun q =>
        { q with slots := q.slots.map fun (sl : Slot) => if sl.seq = seq ∧ sl.mirror = 1 then { sl with mirror := 2 } else sl })) ∧
  EventCompletes (fun t => .twinDigest t none)
    (fun a _ => 2 ≤ a.twin.state && a.twin.state ≤ 4 && a.now = a.tick && a.frameNo % 1024 = 0)
    (fun a _ =>
      let s := a.updTwin fun t => { t with digestFrame := a.frameNo, digestSent := some a.digest }
      (s.setRg2 P.TWIN_DIGEST 0 (a.digest : Nat)).put (.twin 2 (le 8 a.frameNo ++ le 8 a.digest))) ∧
  EventCompletes (fun t => .stateTransfer t none) (fun a _ => a.twin.state = 2 && a.twin.partner = 4) (fun a _ => a.sendCopy) ∧
  (∀ c, EventCompletes (fun t => .stateTransfer t (some c)) (fun a _ => c.boundary ≤ a.now && a.twin.state = 4) (fun a _ => a.takeCopy c)) ∧
  EventCompletes (fun t => .resyncTimeout t)
    (fun a _ => a.twin.state = 4 && a.twin.reBegan + a.rg P.TWIN_RESYNC_TMO 0 * 1000000 ≤ a.now && a.twin.reAttempt < 3)
    (fun a _ =>
      let s := a.record a.twinSrc 0x6004
        (le 1 a.twin.reAttempt ++ le 1 1 ++ zeros 2 ++ le 8 a.twin.reBytes ++ le 4 ((a.now - a.twin.reBegan) / 1000) ++ zeros 8)
      (s.updTwin fun t => { t with reAttempt := t.reAttempt + 1, reBegan := s.now, reBytes := 0, copied := false }).put (.twin 11 [])) ∧
  (∀ r, EventCompletes (fun t => .logMirror t r)
    (fun a _ => r.code ≠ 0x5005 && !(a.log.recs.any fun q => q.src = r.src && q.seq = r.seq && q.powerups = r.powerups))
    (fun a _ => (a.logPlace { r with flags := r.flags ||| 2 }).updTwin fun t => { t with mirrored := t.mirrored + 1 }))

/-- R421, R424, R430, R432-R434: the log, its challenge and its erasure, the key slots, and the faults. Completes: logRead, logMark, logChallenge,
logClear, keyWrite, keyInfo, faultStatus, faultClear, curatorWatchdog. -/
def Obligations.LogCommandsComplete : Prop :=
  CommandCompletes .logRead 0x7000
    (fun _ c => 1 ≤ u32 c.payload 4 && u32 c.payload 4 ≤ 255)
    (fun b c =>
      let oldest := (b.log.recs.head?.map (·.index)).getD b.log.head
      let lost : Bool := u32 c.payload 0 < oldest
      let start := if lost then oldest else u32 c.payload 0
      let rs := (b.log.recs.filter fun r => r.index ≥ start).take (u32 c.payload 4)
      b.decide c.k (if lost then rPARTIAL else rOK) b.now (le 4 start ++ le 4 rs.length ++ rs.flatMap Rec.bytes)) ∧
  CommandCompletes .logMark 0x7001 (fun b c => u32 c.payload 0 ≤ b.log.head)
    (fun b c => (b.updLog fun l => { l with mark := u32 c.payload 0 }).ok c) ∧
  CommandCompletes .logChallenge 0x7002 (fun _ _ => true)
    (fun b c => (b.giveNonce true (b.session c.sess).ep c.sess).2.ok c (nonceBytes b.host.nonceCount)) ∧
  CommandCompletes .logClear 0x7003
    (fun b c =>
      let slot := u8 c.payload 0
      let n := b.takeNonce true (b.session c.sess).ep c.sess
      slot ≤ 7 && n.2.tagOk slot 2 n.1 [0x4C, BitVec.ofNat 8 slot] (field c.payload 4 16))
    (fun b c =>
      let r := (b.takeNonce true (b.session c.sess).ep c.sess).2.logErase (u8 c.payload 0)
      (if r.2.twin.state = 2 then r.2.put (.twin 7 (le 1 (u8 c.payload 0))) else r.2).ok c (le 4 r.1)) ∧
  CommandCompletes .keyWrite 0x7010
    (fun b c =>
      let slot := u8 c.payload 0
      let level := u8 c.payload 1
      (b.session c.sess).level = 2 && slot ≤ 7 && level ≤ 2 &&
        (level = 2 || (List.range 8).any fun i => i ≠ slot && ((b.mram.keys[i]?.map (·.level)).getD 0) = 2))
    (fun b c =>
      let slot := u8 c.payload 0
      let level := u8 c.payload 1
      let writer := (b.session c.sess).slotKey
      let s := b.updMram fun m => { m with keys := m.keys.set slot ⟨level, b.now, writer, if level = 0 then [] else field c.payload 4 32⟩ }
      (s.record s.mramSrc 0x7004 (le 1 slot ++ le 1 level ++ le 1 writer ++ zeros 21)).ok c) ∧
  CommandCompletes .keyInfo 0x7011 (fun _ _ => true) (fun b c => b.ok c (b.mram.keys.flatMap fun k => le 1 k.level)) ∧
  CommandCompletes .faultStatus 0x7020 (fun _ _ => true)
    (fun b c => b.ok c (([0, 1, 2, 3, 4].flatMap fun r => le 1 (b.regionClass r)) ++ le 1 b.chipClass ++ zeros 2)) ∧
  CommandCompletes .faultClear 0x7021
    (fun b c => 1 ≤ u8 c.payload 0 && u8 c.payload 0 ≤ 4 && !b.stopCauseStays (u8 c.payload 0) &&
      !(b.faults.any fun f => f.src = b.srcPath (u8 c.payload 0) 0xF 0xFF && f.cls = clsStop))
    (fun b c => b.ok c (le 1 (b.regionClass (u8 c.payload 0)) ++ zeros 3)) ∧
  CommandCompletes .faultClear 0x7021
    (fun b c => 1 ≤ u8 c.payload 0 && u8 c.payload 0 ≤ 3 &&
      b.faults.any fun f => f.src = b.srcPath (u8 c.payload 0) 0xF 0xFF && f.cls = clsStop)
    (fun b c =>
      let region := u8 c.payload 0
      let handler := b.srcPath region 0xF 0xFF
      let s := (b.faultOff handler clsStop).record handler 0x7002 (le 1 region ++ le 1 clsStop ++ le 2 0xFFFF)
      s.ok c (le 1 (s.regionClass region) ++ zeros 3)) ∧
  EventCompletes (fun t => .curatorWatchdog t) (fun _ _ => true)
    (fun a _ => State.blockEscalate { a with fresh := a.fresh + 1 + 1 } a.curatorSrc (Config.fresh a.fresh % 65536)
      (Config.fresh (a.fresh + 1) % 2 ^ 32) clsFatal)

/-- R426: a catalogue record, which never merges, takes its source's next sequence, and no other source's; the beams, the sessions, motion, the
pipelines, the lamp, the map, the engine, power, the twin, the time base, Docent, the faults and the waiting writes are as before. -/
def Obligations.RecordsAreInSequence : Prop :=
  ∀ (s : State) (src code : Nat) (payload : List Byte) (ts : TS), isCatalogue code = true →
    let s' := s.recordAt src code payload ts
    s'.seqOf src = (s.seqOf src + 1) % 2 ^ 32 ∧ (∀ q, q ≠ src → s'.seqOf q = s.seqOf q) ∧
      s'.beams = s.beams ∧ s'.host = s.host ∧ s'.mot = s.mot ∧ s'.pipes = s.pipes ∧ s'.lamp = s.lamp ∧ s'.gal = s.gal ∧ s'.cns = s.cns ∧
      s'.power = s.power ∧ s'.twin = s.twin ∧ s'.time = s.time ∧ s'.doc = s.doc ∧ s'.faults = s.faults ∧ s'.writes = s.writes

/-! ## Power, housekeeping, machine I/O, Docent and the supply (R437-R491) -/

/-- R465-R474: claiming, completing and configuring sources, and the firmware's own target. Completes: docentClaim, docentComplete, docentSrcWrite,
docentSoft, docentDisableWrite, docentFwInterrupt. -/
def Obligations.DocentCompletes : Prop :=
  CommandCompletes .docentClaim 0x7F00 (fun _ _ => true) (fun b c => b.docClaim.2.ok c b.docClaim.1) ∧
  CommandCompletes .docentComplete 0x7F01
    (fun b c => b.doc.stackH.head? = some (u16 c.payload 0) && !bit c.flags 2)
    (fun b c => (b.updDoc fun d => { d with stackH := d.stackH.drop 1, seen := false }).docNote.ok c (docReply 0 0 0 0 0)) ∧
  CommandCompletes .docentComplete 0x7F01
    (fun b c => b.doc.stackH.head? = some (u16 c.payload 0) && bit c.flags 2)
    (fun b c => b.docPop.docClaim.2.ok c b.docPop.docClaim.1) ∧
  (∀ id, 1 ≤ id → id < 512 →
    ManageCompletes .docentSrcWrite (fun q => q = P.DOC_SRC + id) (fun b _ v => b.docSrcWrite id v)) ∧
  ManageCompletes .docentSoft (fun q => q = P.DOC_SOFT)
    (fun b _ v => forEach (List.range 16) (fun k s => if bit v k then s.docEdge (294 + k) else s) b) ∧
  ManageCompletes .docentDisableWrite (fun q => q = P.DOC_DIS) (fun b _ v => (b.setReg P.DOC_DIS v).docNote) ∧
  (∀ act, EventCompletes (fun t => .docentFwInterrupt t act) (fun _ _ => true) (fun a _ => a.docFw act))

/-- R78, R452, R454, R455, R463: writes of the management parameters that act answer the state of their effect. Completes: gpoWrite, presetSave,
presetFactory, calEntryWrite, calExport, fwLoad, fwLoadDone. -/
def Obligations.ManagementWritesComplete : Prop :=
  ManageCompletes .gpoWrite (fun q => q = P.IO_GPO) (fun b _ v => b.setReg P.IO_GPO v) ∧
  ManageCompletes .presetSave (fun q => q = P.SYS_PRESET_SAVE) (fun b _ v => if v = 1 then b.presetSave else b) ∧
  ManageCompletes .presetFactory (fun q => q = P.SYS_PRESET_FACTORY)
    (fun b _ v => if v = 1 then b.updMram fun m => { m with presets := [] } else b) ∧
  (∀ e, 1 ≤ e → e ≤ 255 → ManageCompletes .calEntryWrite (fun q => q = P.CAL_ENTRY + e)
    (fun b x v =>
      let writer := (b.session x.sess).slotKey
      let s := b.updMram fun m => { m with cal := assocPut m.cal e ⟨v, writer, b.now⟩ }
      s.record s.mramSrc 0x0008 (le 1 e ++ le 1 writer ++ zeros 2 ++ le 4 v ++ zeros 16))) ∧
  ManageCompletes .calExport (fun q => q = P.CAL_EXPORT) (fun b _ v => b.storeData v 0 b.calBytes) ∧
  CommandCompletes .fwLoad 0x0101
    (fun b x => b.mayWrite x && u32 x.payload 0 = P.SYS_FW_LOAD && !(!b.power.recovery && b.power.fwRun = u32 x.payload 4))
    (fun b x => (b.takeLoan (b.rg P.SYS_FW_ACC 0)).updPower fun p =>
      { p with fwJob := some ⟨x.k, u32 x.payload 4, b.rg P.SYS_FW_ACC 0, none, b.now⟩ }) ∧
  (∀ j img, EventCompletes (fun t => .fwLoadDone t)
    (fun a _ => a.power.fwJob = some j && (if j.img.isSome then j.img else a.fwImage j.acc) = some img)
    (fun a _ =>
      let s := (a.returnLoan j.acc).updPower fun p => { p with fwJob := none }
      ((s.updMram fun m => { m with fw := m.fw.set j.slot img }).fwRecord j.slot rOK img.version).decide j.k rOK (if j.img.isSome then j.since else s.now)
        (le 4 (if j.img.isSome then 0xFFFFFFFF else 0)))) ∧
  (∀ j, EventCompletes (fun t => .fwLoadDone t)
    (fun a _ => a.power.fwJob = some j && j.img.isNone && accPool j.acc ≠ 6)
    (fun a _ =>
      let s := (a.returnLoan j.acc).updPower fun p => { p with fwJob := none }
      (s.fwRecord j.slot rCHECKFAIL (u32 (a.fwBytes j.acc) 8)).decideNow j.k rCHECKFAIL))

/-- R32-R34, R440, R457-R462, R487: interlocks, rounds, the trip, VMOT, PERST_L, the gating of a block. Completes: ilkChange, perstEdge, mgtRound,
analogTrip, vmotRestore, blockGate, blockUngate. -/
def Obligations.ManagementEventsComplete : Prop :=
  (∀ k level, EventCompletes (fun t => .ilkChange t k level) (fun _ _ => k < 4)
    (fun a _ => (a.setPin (17 + k) level).docLevel (17 + k) ((a.setPin (17 + k) level).ilkLevel k))) ∧
  (∀ k level, StoppedEventCompletes (fun t => .ilkChange t k level) (fun _ _ => k < 4) (fun a _ => (a.aonEdge (17 + k) level).finish)) ∧
  (∀ rising, EventCompletes (fun t => .perstEdge t rising) (fun _ _ => true)
    (fun a _ => (a.updHost fun h => { h with perstHigh := rising }).docLevel 26 rising)) ∧
  (∀ raw light, EventCompletes (fun t => .mgtRound t raw light)
    (fun a _ => a.now % 256000000 = 0 && a.power.halted ≠ 2 && (a.hkRound raw a.now).1.isNone && !(a.hkRound raw a.now).2.expRuns)
    (fun a _ => ((a.hkRound raw a.now).2.updLog fun l => { l with savedSeqs := l.seqs }).permitRound)) ∧
  (∀ raw light trip, EventCompletes (fun t => .mgtRound t raw light)
    (fun a _ => a.now % 256000000 = 0 && a.power.halted ≠ 2 && (a.hkRound raw a.now).1 = some trip && (a.hkRound raw a.now).2.power.state ≠ 5)
    (fun a _ =>
      let s := (a.hkRound raw a.now).2.updLog fun l => { l with savedSeqs := l.seqs }
      (s.halt 1 (trip.payload (s.now / 256000000))).permitRound)) ∧
  EventCompletes (fun t => .analogTrip t) (fun a _ => a.power.halted ≠ 2 && !a.clockless)
    (fun a _ => State.halt { a with fresh := a.fresh + 1 + 1 } 2
      (Trip.payload ⟨0xFF, 1, Config.fresh a.fresh % 2 ^ 32, Config.fresh (a.fresh + 1) % 2 ^ 32⟩ (a.now / 256000000))) ∧
  (∀ mv, EventCompletes (fun t => .vmotRestore t mv) (fun _ _ => true)
    (fun a _ => a.updMot fun m => { m with vmot := mv, vmotLow := m.vmotLow && mv ≤ 8400 })) ∧
  (∀ r k, EventCompletes (fun t => .blockGate t r k)
    (fun a _ => gateable r k && a.domainRuns r && a.reg (mkPid r 8 k P.BLK_IDLE_GATE) ≠ 0 && (a.blk r k).clk = 2 && !a.blockBusy a.askedBlocks r k &&
      (a.blk r k).idleAt + a.reg (mkPid r 8 k P.BLK_IDLE_GATE) * 1000 < a.now)
    (fun a _ => a.setBlk r k { a.blk r k with clk := 0 })) ∧
  (∀ r k, EventCompletes (fun t => .blockUngate t r k)
    (fun a _ => gateable r k && a.domainRuns r && (a.blk r k).clk = 1)
    (fun a _ => a.setBlk r k { a.blk r k with clk := 2, idleAt := a.now }))

/-- R385, R439, R442-R448, R475: a power request that names the state in force is decided at once, and one whose path is open is taken up; STANDBY and
what happens in it, the reset, the supply. Completes: standbyEnter, standbyRound, aonEdgeLatch, wakeTimer, resetAssert, resetRelease, vinLoss,
vinRise, powerRequest, powerStateReached. -/
def Obligations.PowerCompletes : Prop :=
  (∀ at_, EventCompletes (fun t => .standbyEnter t) (fun a _ => a.power.stbyAt = some at_ && at_ ≤ a.now) (fun a _ => a.standbyEnter)) ∧
  (∀ raw, StoppedEventCompletes (fun t => .standbyRound t raw) (fun a _ => a.standbyDue)
    (fun a _ => (a.standbyRound raw).finish)) ∧
  (∀ id rising, StoppedEventCompletes (fun t => .aonEdgeLatch t id rising)
    (fun a _ => 1 ≤ id && id ≤ 26 && (a.power.state ≠ 1 || a.power.inReset ||
      !(bit ((a.aonLatch id rising).docCfg id) 8 && docSelects ((a.aonLatch id rising).docSense id) (a.pinActive id rising))))
    (fun a _ => (a.aonLatch id rising).finish)) ∧
  (∀ id rising, StoppedEventCompletes (fun t => .aonEdgeLatch t id rising)
    (fun a _ => 1 ≤ id && id ≤ 26 && a.power.state = 1 && !a.power.inReset &&
      bit ((a.aonLatch id rising).docCfg id) 8 && docSelects ((a.aonLatch id rising).docSense id) (a.pinActive id rising))
    (fun a _ => ((a.aonLatch id rising).wake id).finish)) ∧
  StoppedEventCompletes (fun t => .wakeTimer t)
    (fun a _ => a.power.state = 1 && !a.power.inReset && a.rg P.SYS_WAKE_TMR 0 ≠ 0 && a.rg P.SYS_WAKE_TMR 0 * 32768 ≤ a.power.aonTicks)
    (fun a _ => (a.wake 0).finish) ∧
  EventCompletes (fun t => .resetAssert t) (fun a _ => a.power.state ≠ 0 && !a.clockless)
    (fun a _ => (a.outputsOff false).releaseOwn.stopClocks.updPower fun p => { p with inReset := true, pwrGood := false }) ∧
  (∀ boot, StoppedEventCompletes (fun t => .resetRelease t boot) (fun a _ => a.power.inReset && a.power.halted ≠ 2)
    (fun a _ => (State.startUp (a.updPower fun p => { p with inReset := false }).resumeTime boot 1).finish)) ∧
  EventCompletes (fun t => .vinLoss t) (fun a _ => a.power.state ≠ 0 && !a.clockless)
    (fun a _ =>
      let s := (a.outputsOff false).releaseOwn
      let mv := (roundDiv (fNum (s.rg P.HK_VALUE 20) * 1000) fDen).toNat
      (s.record s.curatorSrc 0x000A (le 1 s.power.state ++ zeros 3 ++ le 4 mv ++ zeros 16)).updPower fun p =>
        { p with state := 0, vin := false, pwrGood := false, inReset := false, halted := 0, req := none }) ∧
  (∀ (s : State) (t : TS) (boot : Boot), s.power.state = 0 →
    let n : State := { s with out := [], now := t, tick := t / 2560 * 2560, micro := t / 256 * 256, frameNo := t / 2560, frameAt := t / 2560 * 2560 }
    let n := (n.updMram fun m => { m with powerups := (m.powerups + 1) % 2 ^ 32 }).updPower fun p => { p with stbyFrom := t }
    exec (.vinRise t boot) s = .next ((n.startUp boot 0).finish).gatePath) ∧
  CommandCompletes .powerRequest 0x000A
    (fun b c => 1 ≤ u8 c.payload 0 && u8 c.payload 0 ≤ 4 && b.power.state ≠ 5 && u8 c.payload 0 = b.power.state)
    (fun b c => b.ok c (le 1 (u8 c.payload 0) ++ zeros 3)) ∧
  CommandCompletes .powerRequest 0x000A
    (fun b c => 1 ≤ u8 c.payload 0 && u8 c.payload 0 ≤ 4 && b.power.state ≠ 5 && u8 c.payload 0 ≠ b.power.state && !b.powerBad (u8 c.payload 0))
    (fun b c => (b.updPower fun p => { p with req := some ⟨c.k, u8 c.payload 0, b.now, false⟩ }).powerPump) ∧
  (∀ q, EventCompletes (fun t => .powerStateReached t)
    (fun a _ => a.power.req = some q && a.twin.state ≠ 3 && a.power.state = 2 && 3 ≤ q.target)
    (fun a _ => (a.powerTo 3 1 0).powerPump)) ∧
  (∀ q, EventCompletes (fun t => .powerStateReached t)
    (fun a _ => a.power.req = some q && a.twin.state ≠ 3 && a.power.state = 3 && q.target ≤ 2)
    (fun a _ => (a.powerTo 2 1 0).powerPump))
end

