-- ==== Sys2Proof/Laws/Answer.lean ====
section
/-!
SUPPORT. What exec answers for an event of a module that is up, and for a host command whose packet is taken.
-/
namespace Sys2Proof.Machine

open Sys2Proof

/-- An event of a module that is up. -/
theorem State.eventWhen_up (s : State) (t : TS) (f g : State → State) (h : s.up = true) :
    s.eventWhen t f g = (f (s.arrived t)).closed := by
  simp only [State.up, ne_eq, decide_not, Bool.and_eq_true, Bool.not_eq_true', decide_eq_false_iff_not] at h
  unfold State.eventWhen State.closed
  rw [if_neg h.1, if_neg (by simp [h.2])]

/-- An event that does nothing while the clocks stand, of a module that is up. -/
theorem State.event_up (s : State) (t : TS) (f : State → State) (h : s.up = true) :
    s.event t f = (f (s.arrived t)).closed := s.eventWhen_up t f id h

/-- The answer of a unit that exists. -/
theorem State.onUnit_there (s after : State) (name : String) : s.onUnit true name after = .next after := rfl

/-- The answer for a unit that does not exist. -/
theorem State.onUnit_absent (s after : State) (name : String) : s.onUnit false name after = .fault (.noSuchUnit name) := rfl

/-- A host command whose packet is in sequence is begun at once. -/
theorem State.hostCommand_reaches (s : State) (op : Nat) (p : Packet) (i : Nat) (h : s.reaches op p i = true) :
    s.hostCommand op p = .next ((s.begun op p i).interpret (s.ctxOf op p i)).answered := by
  unfold State.reaches at h
  simp only [Bool.and_eq_true, Bool.not_eq_true', decide_eq_true_eq, List.isEmpty_iff] at h
  obtain ⟨⟨⟨⟨⟨⟨⟨⟨⟨⟨⟨⟨⟨hup, hk⟩, hp⟩, hd⟩, hs⟩, hg, hop⟩, ht⟩, hr⟩, he⟩, hroom⟩, hb⟩, hup2⟩, hw⟩, hn⟩ := h
  unfold State.up at hup hup2
  simp only [Bool.and_eq_true, Bool.not_eq_true', decide_eq_true_eq] at hup hup2
  have hpk : (s.arrived p.stamp).packet op p = s.taken op p i := by
    unfold State.packet
    simp only [hp, hd, hs, Bool.not_true, Bool.false_eq_true, if_false, if_neg hop]
    have e : ((s.arrived p.stamp).updSession i fun x => { x with lastAt := (s.arrived p.stamp).now }) = s.heard p i := rfl
    have e2 : (if p.gen = 2 then extendSeq 16 (((s.heard p i).session i).stream p.stream).expected p.seq else p.seq % 2 ^ 32) = s.seqNo p i := rfl
    rw [e, hg, e2]
    simp only [ne_eq, not_true_eq_false, if_false]
    unfold State.sequence
    have hz : seqDiff (s.seqNo p i) ((s.heard p i).session i |>.stream p.stream).expected = 0 := by
      rw [he]; simp [seqDiff, toSigned, ofSigned]
    simp [hz, hr, ht, hroom, hb]
    rfl
  unfold State.hostCommand State.onUnit State.event State.eventWhen
  rw [if_pos hk, if_neg hup.1, if_neg (by simp [hup.2])]
  simp only [hpk]
  unfold State.finish
  rw [if_neg (by simp [hup2.1, hup2.2])]
  unfold State.settle State.runStreams State.answered
  rw [hw]
  simp only [State.interpretAll, hn]
  rfl

/-- A host command that no check of the interpreter rejects runs its body. -/
theorem State.hostCommand_takes (s : State) (op : Nat) (p : Packet) (i : Nat) (h : s.takes op p i = true) :
    s.hostCommand op p = .next ((s.begun op p i).body (s.ctxOf op p i)).answered := by
  unfold State.takes at h
  simp only [Bool.and_eq_true, Option.isNone_iff_eq_none] at h
  rw [State.hostCommand_reaches s op p i h.1]
  unfold State.interpret State.unless
  rw [h.2]

end Sys2Proof.Machine
end

