-- ==== Sys2Proof/Laws/Assoc.lean ====
section
/-!
SUPPORT. Laws of the canonical lists: the register file and the bytes of the store read back what was written, keep every other
entry, and stay in rising order.
-/
namespace Sys2Proof.Machine

open Sys2Proof

variable {α : Type}

/-- A key that was given a value has it. -/
@[simp] theorem assocGet_put_same (l : List (Nat × α)) (k : Nat) (v : α) : assocGet (assocPut l k v) k = some v := by
  induction l with
  | nil => simp [assocPut, assocGet]
  | cons e r ih =>
    obtain ⟨j, w⟩ := e
    unfold assocPut
    split
    · simp [assocGet]
    · split
      · simp [assocGet]
      · rename_i h1 h2; simp [assocGet, Ne.symm h2, ih]

/-- Every other key keeps its value. -/
theorem assocGet_put_other (l : List (Nat × α)) (k j : Nat) (v : α) (h : j ≠ k) : assocGet (assocPut l k v) j = assocGet l j := by
  induction l with
  | nil => simp [assocPut, assocGet, Ne.symm h]
  | cons e r ih =>
    obtain ⟨i, w⟩ := e
    unfold assocPut
    split
    · simp [assocGet, Ne.symm h]
    · split
      · rename_i h1 h2; subst h2; simp [assocGet, Ne.symm h]
      · simp only [assocGet, ih]

/-- A key that was removed has no value. -/
@[simp] theorem assocGet_del_same (l : List (Nat × α)) (k : Nat) : assocGet (assocDel l k) k = none := by
  induction l with
  | nil => rfl
  | cons e r ih =>
    obtain ⟨i, w⟩ := e
    unfold assocDel
    split
    · exact ih
    · rename_i h; simp [assocGet, Ne.symm h, ih]

/-- Removing a key leaves every other one. -/
theorem assocGet_del_other (l : List (Nat × α)) (k j : Nat) (h : j ≠ k) : assocGet (assocDel l k) j = assocGet l j := by
  induction l with
  | nil => rfl
  | cons e r ih =>
    obtain ⟨i, w⟩ := e
    unfold assocDel
    split
    · rename_i h1; subst h1; simp [assocGet, Ne.symm h, ih]
    · simp only [assocGet, ih]

/-- What a register of the file reads as after it was written. -/
@[simp] theorem State.reg_setReg_same (s : State) (p v : Nat) : (s.setReg p v).reg p = v % 2 ^ 32 := by
  show (assocGet (assocSet s.params p (v % 2 ^ 32) (regReset s.straps.roleB p)) p).getD (regReset s.straps.roleB p) = v % 2 ^ 32
  unfold assocSet
  split
  · rename_i h; rw [assocGet_del_same]; exact h.symm
  · rw [assocGet_put_same]; rfl

/-- A write leaves every other register. -/
theorem State.reg_setReg_other (s : State) (p q v : Nat) (h : q ≠ p) : (s.setReg p v).reg q = s.reg q := by
  show (assocGet (assocSet s.params p (v % 2 ^ 32) (regReset s.straps.roleB p)) q).getD (regReset s.straps.roleB q) = s.reg q
  unfold assocSet State.reg
  split
  · rw [assocGet_del_other _ _ _ h]
  · rw [assocGet_put_other _ _ _ _ h]

/-! ## Rising order -/

/-- A list in rising order, said of its head: every other key is larger. -/
theorem rising_cons (k : Nat) (v : α) (l : List (Nat × α)) : rising ((k, v) :: l) = true ↔ (∀ e ∈ l, k < e.1) ∧ rising l = true := by
  induction l generalizing k v with
  | nil => simp [rising]
  | cons e r ih =>
    obtain ⟨j, w⟩ := e
    simp only [rising, Bool.and_eq_true, decide_eq_true_eq, List.mem_cons, forall_eq_or_imp]
    rw [ih]
    constructor
    · rintro ⟨h1, h2, h3⟩; exact ⟨⟨h1, fun e he => Nat.lt_trans h1 (h2 e he)⟩, h2, h3⟩
    · rintro ⟨⟨h1, h2⟩, h3, h4⟩; exact ⟨h1, h3, h4⟩

/-- The keys of a list that was given one. -/
theorem mem_assocPut (l : List (Nat × α)) (k : Nat) (v : α) (e : Nat × α) (h : e ∈ assocPut l k v) : e = (k, v) ∨ e ∈ l := by
  induction l with
  | nil => simpa [assocPut] using h
  | cons d r ih =>
    obtain ⟨j, w⟩ := d
    unfold assocPut at h
    split at h
    · simpa using h
    · split at h
      · rcases List.mem_cons.1 h with h | h
        · exact .inl h
        · exact .inr (List.mem_cons_of_mem _ h)
      · rcases List.mem_cons.1 h with h | h
        · exact .inr (h ▸ List.mem_cons_self ..)
        · rcases ih h with h | h
          · exact .inl h
          · exact .inr (List.mem_cons_of_mem _ h)

/-- Giving a key a value keeps the order. -/
theorem rising_assocPut (l : List (Nat × α)) (k : Nat) (v : α) (h : rising l = true) : rising (assocPut l k v) = true := by
  induction l with
  | nil => rfl
  | cons e r ih =>
    obtain ⟨j, w⟩ := e
    rw [rising_cons] at h
    unfold assocPut
    split
    · rename_i hk
      rw [rising_cons, rising_cons]
      refine ⟨?_, h⟩
      intro e he
      rcases List.mem_cons.1 he with he | he
      · subst he; exact hk
      · exact Nat.lt_trans hk (h.1 e he)
    · split
      · rename_i h2; subst h2; rw [rising_cons]; exact h
      · rename_i h1 h2
        rw [rising_cons]
        refine ⟨?_, ih h.2⟩
        intro e he
        rcases mem_assocPut _ _ _ _ he with he | he
        · subst he; show j < k; omega
        · exact h.1 e he

/-- A part of a list in rising order is in rising order. -/
theorem rising_filter (l : List (Nat × α)) (p : Nat × α → Bool) (h : rising l = true) : rising (l.filter p) = true := by
  induction l with
  | nil => rfl
  | cons e r ih =>
    obtain ⟨j, w⟩ := e
    rw [rising_cons] at h
    rw [List.filter_cons]
    split
    · rw [rising_cons]
      exact ⟨fun e he => h.1 e (List.mem_filter.1 he).1, ih h.2⟩
    · exact ih h.2

/-- Removing a key keeps the order. -/
theorem rising_assocDel (l : List (Nat × α)) (k : Nat) (h : rising l = true) : rising (assocDel l k) = true := by
  have e : assocDel l k = l.filter fun e => e.1 ≠ k := by
    clear h
    induction l with
    | nil => rfl
    | cons e r ih =>
      obtain ⟨j, w⟩ := e
      unfold assocDel
      rw [List.filter_cons]
      by_cases hk : k = j
      · subst hk; simpa using ih
      · simpa [hk, Ne.symm hk] using ih
  rw [e]; exact rising_filter _ _ h

/-! ## The bytes of the store -/

/-- Memory keeps its canonical form when a byte is written. -/
theorem Memory.wf_put (m : Memory) (a : Nat) (b : Byte) (h : Memory.wf m = true) : Memory.wf (m.put a b) = true := rising_assocPut m a b h

/-- Memory keeps its canonical form when bytes are written. -/
theorem Memory.wf_putAll (m : Memory) (a : Nat) (d : List Byte) (h : Memory.wf m = true) : Memory.wf (m.putAll a d) = true := by
  induction d generalizing m a with
  | nil => exact h
  | cons b r ih => exact ih _ _ (Memory.wf_put m a b h)

/-- Memory keeps its canonical form when a range is dropped. -/
theorem Memory.wf_drop (m : Memory) (lo hi : Nat) (h : Memory.wf m = true) : Memory.wf (m.drop lo hi) = true := rising_filter m _ h

/-- Bytes outside the addresses written are as before. -/
theorem Memory.get_putAll_other (m : Memory) (a : Nat) (d : List Byte) (x : Nat) (h : x < a ∨ a + d.length ≤ x) :
    (m.putAll a d).get x = m.get x := by
  induction d generalizing m a with
  | nil => rfl
  | cons b r ih =>
    show Memory.get (Memory.putAll (m.put a b) (a + 1) r) x = m.get x
    simp only [List.length_cons] at h
    rw [ih _ _ (by omega)]
    exact assocGet_put_other m a x b (by omega)

/-- A byte written reads back. -/
theorem Memory.get_putAll_same (m : Memory) (a : Nat) (d : List Byte) (i : Nat) (h : i < d.length) : (m.putAll a d).get (a + i) = some d[i] := by
  induction d generalizing m a i with
  | nil => simp at h
  | cons b r ih =>
    show Memory.get (Memory.putAll (m.put a b) (a + 1) r) (a + i) = _
    cases i with
    | zero =>
      rw [Memory.get_putAll_other _ _ _ _ (by omega)]
      exact assocGet_put_same m a b
    | succ i =>
      have := ih (m.put a b) (a + 1) i (by simpa using h)
      rw [show a + 1 + i = a + (i + 1) from by omega] at this
      rw [this]; rfl

end Sys2Proof.Machine
end

