-- ==== Sys2Proof/Laws/State.lean ====
section
/-!
SUPPORT. Small lemmas of the updates of a state: what each leaves of every field.
-/
namespace Sys2Proof.Machine

open Sys2Proof

variable (s : State)

/-! ## setReg -/

@[simp] theorem State.setReg_pending (p v : Nat) : (s.setReg p v).pending = s.pending := rfl
@[simp] theorem State.setReg_straps (p v : Nat) : (s.setReg p v).straps = s.straps := rfl
@[simp] theorem State.setReg_now (p v : Nat) : (s.setReg p v).now = s.now := rfl
@[simp] theorem State.setReg_tick (p v : Nat) : (s.setReg p v).tick = s.tick := rfl
@[simp] theorem State.setReg_micro (p v : Nat) : (s.setReg p v).micro = s.micro := rfl
@[simp] theorem State.setReg_frameNo (p v : Nat) : (s.setReg p v).frameNo = s.frameNo := rfl
@[simp] theorem State.setReg_frameAt (p v : Nat) : (s.setReg p v).frameAt = s.frameAt := rfl
@[simp] theorem State.setReg_fresh (p v : Nat) : (s.setReg p v).fresh = s.fresh := rfl
@[simp] theorem State.setReg_out (p v : Nat) : (s.setReg p v).out = s.out := rfl
@[simp] theorem State.setReg_host (p v : Nat) : (s.setReg p v).host = s.host := rfl
@[simp] theorem State.setReg_log (p v : Nat) : (s.setReg p v).log = s.log := rfl
@[simp] theorem State.setReg_params (p v : Nat) : (s.setReg p v).params = assocSet s.params p (v % 2 ^ 32) (regReset s.straps.roleB p) := rfl
@[simp] theorem State.setReg_writes (p v : Nat) : (s.setReg p v).writes = s.writes := rfl
@[simp] theorem State.setReg_faults (p v : Nat) : (s.setReg p v).faults = s.faults := rfl
@[simp] theorem State.setReg_beams (p v : Nat) : (s.setReg p v).beams = s.beams := rfl
@[simp] theorem State.setReg_heads (p v : Nat) : (s.setReg p v).heads = s.heads := rfl
@[simp] theorem State.setReg_cns (p v : Nat) : (s.setReg p v).cns = s.cns := rfl
@[simp] theorem State.setReg_xy2 (p v : Nat) : (s.setReg p v).xy2 = s.xy2 := rfl
@[simp] theorem State.setReg_gal (p v : Nat) : (s.setReg p v).gal = s.gal := rfl
@[simp] theorem State.setReg_store (p v : Nat) : (s.setReg p v).store = s.store := rfl
@[simp] theorem State.setReg_time (p v : Nat) : (s.setReg p v).time = s.time := rfl
@[simp] theorem State.setReg_twin (p v : Nat) : (s.setReg p v).twin = s.twin := rfl
@[simp] theorem State.setReg_mram (p v : Nat) : (s.setReg p v).mram = s.mram := rfl
@[simp] theorem State.setReg_power (p v : Nat) : (s.setReg p v).power = s.power := rfl
@[simp] theorem State.setReg_doc (p v : Nat) : (s.setReg p v).doc = s.doc := rfl
@[simp] theorem State.setReg_blks (p v : Nat) : (s.setReg p v).blks = s.blks := rfl
@[simp] theorem State.setReg_stops (p v : Nat) : (s.setReg p v).stops = s.stops := rfl
@[simp] theorem State.setReg_mot (p v : Nat) : (s.setReg p v).mot = s.mot := rfl
@[simp] theorem State.setReg_pipes (p v : Nat) : (s.setReg p v).pipes = s.pipes := rfl
@[simp] theorem State.setReg_lamp (p v : Nat) : (s.setReg p v).lamp = s.lamp := rfl

/-! ## at -/

@[simp] theorem State.at_pending (t : TS) : (s.at t).pending = s.pending := rfl
@[simp] theorem State.at_straps (t : TS) : (s.at t).straps = s.straps := rfl
@[simp] theorem State.at_now (t : TS) : (s.at t).now = max s.now t := rfl
@[simp] theorem State.at_tick (t : TS) : (s.at t).tick = s.tick := rfl
@[simp] theorem State.at_micro (t : TS) : (s.at t).micro = s.micro := rfl
@[simp] theorem State.at_frameNo (t : TS) : (s.at t).frameNo = s.frameNo := rfl
@[simp] theorem State.at_frameAt (t : TS) : (s.at t).frameAt = s.frameAt := rfl
@[simp] theorem State.at_fresh (t : TS) : (s.at t).fresh = s.fresh := rfl
@[simp] theorem State.at_out (t : TS) : (s.at t).out = s.out := rfl
@[simp] theorem State.at_host (t : TS) : (s.at t).host = s.host := rfl
@[simp] theorem State.at_log (t : TS) : (s.at t).log = s.log := rfl
@[simp] theorem State.at_params (t : TS) : (s.at t).params = s.params := rfl
@[simp] theorem State.at_writes (t : TS) : (s.at t).writes = s.writes := rfl
@[simp] theorem State.at_faults (t : TS) : (s.at t).faults = s.faults := rfl
@[simp] theorem State.at_beams (t : TS) : (s.at t).beams = s.beams := rfl
@[simp] theorem State.at_heads (t : TS) : (s.at t).heads = s.heads := rfl
@[simp] theorem State.at_cns (t : TS) : (s.at t).cns = s.cns := rfl
@[simp] theorem State.at_xy2 (t : TS) : (s.at t).xy2 = s.xy2 := rfl
@[simp] theorem State.at_gal (t : TS) : (s.at t).gal = s.gal := rfl
@[simp] theorem State.at_store (t : TS) : (s.at t).store = s.store := rfl
@[simp] theorem State.at_time (t : TS) : (s.at t).time = s.time := rfl
@[simp] theorem State.at_twin (t : TS) : (s.at t).twin = s.twin := rfl
@[simp] theorem State.at_mram (t : TS) : (s.at t).mram = s.mram := rfl
@[simp] theorem State.at_power (t : TS) : (s.at t).power = s.power := rfl
@[simp] theorem State.at_doc (t : TS) : (s.at t).doc = s.doc := rfl
@[simp] theorem State.at_blks (t : TS) : (s.at t).blks = s.blks := rfl
@[simp] theorem State.at_stops (t : TS) : (s.at t).stops = s.stops := rfl
@[simp] theorem State.at_mot (t : TS) : (s.at t).mot = s.mot := rfl
@[simp] theorem State.at_pipes (t : TS) : (s.at t).pipes = s.pipes := rfl
@[simp] theorem State.at_lamp (t : TS) : (s.at t).lamp = s.lamp := rfl

/-! ## put -/

@[simp] theorem State.put_pending (o : Output) : (s.put o).pending = s.pending := rfl
@[simp] theorem State.put_straps (o : Output) : (s.put o).straps = s.straps := rfl
@[simp] theorem State.put_now (o : Output) : (s.put o).now = s.now := rfl
@[simp] theorem State.put_tick (o : Output) : (s.put o).tick = s.tick := rfl
@[simp] theorem State.put_micro (o : Output) : (s.put o).micro = s.micro := rfl
@[simp] theorem State.put_frameNo (o : Output) : (s.put o).frameNo = s.frameNo := rfl
@[simp] theorem State.put_frameAt (o : Output) : (s.put o).frameAt = s.frameAt := rfl
@[simp] theorem State.put_fresh (o : Output) : (s.put o).fresh = s.fresh := rfl
@[simp] theorem State.put_out (o : Output) : (s.put o).out = s.out ++ [o] := rfl
@[simp] theorem State.put_host (o : Output) : (s.put o).host = s.host := rfl
@[simp] theorem State.put_log (o : Output) : (s.put o).log = s.log := rfl
@[simp] theorem State.put_params (o : Output) : (s.put o).params = s.params := rfl
@[simp] theorem State.put_writes (o : Output) : (s.put o).writes = s.writes := rfl
@[simp] theorem State.put_faults (o : Output) : (s.put o).faults = s.faults := rfl
@[simp] theorem State.put_beams (o : Output) : (s.put o).beams = s.beams := rfl
@[simp] theorem State.put_heads (o : Output) : (s.put o).heads = s.heads := rfl
@[simp] theorem State.put_cns (o : Output) : (s.put o).cns = s.cns := rfl
@[simp] theorem State.put_xy2 (o : Output) : (s.put o).xy2 = s.xy2 := rfl
@[simp] theorem State.put_gal (o : Output) : (s.put o).gal = s.gal := rfl
@[simp] theorem State.put_store (o : Output) : (s.put o).store = s.store := rfl
@[simp] theorem State.put_time (o : Output) : (s.put o).time = s.time := rfl
@[simp] theorem State.put_twin (o : Output) : (s.put o).twin = s.twin := rfl
@[simp] theorem State.put_mram (o : Output) : (s.put o).mram = s.mram := rfl
@[simp] theorem State.put_power (o : Output) : (s.put o).power = s.power := rfl
@[simp] theorem State.put_doc (o : Output) : (s.put o).doc = s.doc := rfl
@[simp] theorem State.put_blks (o : Output) : (s.put o).blks = s.blks := rfl
@[simp] theorem State.put_stops (o : Output) : (s.put o).stops = s.stops := rfl
@[simp] theorem State.put_mot (o : Output) : (s.put o).mot = s.mot := rfl
@[simp] theorem State.put_pipes (o : Output) : (s.put o).pipes = s.pipes := rfl
@[simp] theorem State.put_lamp (o : Output) : (s.put o).lamp = s.lamp := rfl

/-! ## updHost -/

@[simp] theorem State.updHost_pending (f : HostSt → HostSt) : (s.updHost f).pending = s.pending := rfl
@[simp] theorem State.updHost_straps (f : HostSt → HostSt) : (s.updHost f).straps = s.straps := rfl
@[simp] theorem State.updHost_now (f : HostSt → HostSt) : (s.updHost f).now = s.now := rfl
@[simp] theorem State.updHost_tick (f : HostSt → HostSt) : (s.updHost f).tick = s.tick := rfl
@[simp] theorem State.updHost_micro (f : HostSt → HostSt) : (s.updHost f).micro = s.micro := rfl
@[simp] theorem State.updHost_frameNo (f : HostSt → HostSt) : (s.updHost f).frameNo = s.frameNo := rfl
@[simp] theorem State.updHost_frameAt (f : HostSt → HostSt) : (s.updHost f).frameAt = s.frameAt := rfl
@[simp] theorem State.updHost_fresh (f : HostSt → HostSt) : (s.updHost f).fresh = s.fresh := rfl
@[simp] theorem State.updHost_out (f : HostSt → HostSt) : (s.updHost f).out = s.out := rfl
@[simp] theorem State.updHost_host (f : HostSt → HostSt) : (s.updHost f).host = f s.host := rfl
@[simp] theorem State.updHost_log (f : HostSt → HostSt) : (s.updHost f).log = s.log := rfl
@[simp] theorem State.updHost_params (f : HostSt → HostSt) : (s.updHost f).params = s.params := rfl
@[simp] theorem State.updHost_writes (f : HostSt → HostSt) : (s.updHost f).writes = s.writes := rfl
@[simp] theorem State.updHost_faults (f : HostSt → HostSt) : (s.updHost f).faults = s.faults := rfl
@[simp] theorem State.updHost_beams (f : HostSt → HostSt) : (s.updHost f).beams = s.beams := rfl
@[simp] theorem State.updHost_heads (f : HostSt → HostSt) : (s.updHost f).heads = s.heads := rfl
@[simp] theorem State.updHost_cns (f : HostSt → HostSt) : (s.updHost f).cns = s.cns := rfl
@[simp] theorem State.updHost_xy2 (f : HostSt → HostSt) : (s.updHost f).xy2 = s.xy2 := rfl
@[simp] theorem State.updHost_gal (f : HostSt → HostSt) : (s.updHost f).gal = s.gal := rfl
@[simp] theorem State.updHost_store (f : HostSt → HostSt) : (s.updHost f).store = s.store := rfl
@[simp] theorem State.updHost_time (f : HostSt → HostSt) : (s.updHost f).time = s.time := rfl
@[simp] theorem State.updHost_twin (f : HostSt → HostSt) : (s.updHost f).twin = s.twin := rfl
@[simp] theorem State.updHost_mram (f : HostSt → HostSt) : (s.updHost f).mram = s.mram := rfl
@[simp] theorem State.updHost_power (f : HostSt → HostSt) : (s.updHost f).power = s.power := rfl
@[simp] theorem State.updHost_doc (f : HostSt → HostSt) : (s.updHost f).doc = s.doc := rfl
@[simp] theorem State.updHost_blks (f : HostSt → HostSt) : (s.updHost f).blks = s.blks := rfl
@[simp] theorem State.updHost_stops (f : HostSt → HostSt) : (s.updHost f).stops = s.stops := rfl
@[simp] theorem State.updHost_mot (f : HostSt → HostSt) : (s.updHost f).mot = s.mot := rfl
@[simp] theorem State.updHost_pipes (f : HostSt → HostSt) : (s.updHost f).pipes = s.pipes := rfl
@[simp] theorem State.updHost_lamp (f : HostSt → HostSt) : (s.updHost f).lamp = s.lamp := rfl

/-! ## updSession -/

@[simp] theorem State.updSession_pending (i : Nat) (f : Session → Session) : (s.updSession i f).pending = s.pending := rfl
@[simp] theorem State.updSession_straps (i : Nat) (f : Session → Session) : (s.updSession i f).straps = s.straps := rfl
@[simp] theorem State.updSession_now (i : Nat) (f : Session → Session) : (s.updSession i f).now = s.now := rfl
@[simp] theorem State.updSession_tick (i : Nat) (f : Session → Session) : (s.updSession i f).tick = s.tick := rfl
@[simp] theorem State.updSession_micro (i : Nat) (f : Session → Session) : (s.updSession i f).micro = s.micro := rfl
@[simp] theorem State.updSession_frameNo (i : Nat) (f : Session → Session) : (s.updSession i f).frameNo = s.frameNo := rfl
@[simp] theorem State.updSession_frameAt (i : Nat) (f : Session → Session) : (s.updSession i f).frameAt = s.frameAt := rfl
@[simp] theorem State.updSession_fresh (i : Nat) (f : Session → Session) : (s.updSession i f).fresh = s.fresh := rfl
@[simp] theorem State.updSession_out (i : Nat) (f : Session → Session) : (s.updSession i f).out = s.out := rfl
@[simp] theorem State.updSession_log (i : Nat) (f : Session → Session) : (s.updSession i f).log = s.log := rfl
@[simp] theorem State.updSession_params (i : Nat) (f : Session → Session) : (s.updSession i f).params = s.params := rfl
@[simp] theorem State.updSession_writes (i : Nat) (f : Session → Session) : (s.updSession i f).writes = s.writes := rfl
@[simp] theorem State.updSession_faults (i : Nat) (f : Session → Session) : (s.updSession i f).faults = s.faults := rfl
@[simp] theorem State.updSession_beams (i : Nat) (f : Session → Session) : (s.updSession i f).beams = s.beams := rfl
@[simp] theorem State.updSession_heads (i : Nat) (f : Session → Session) : (s.updSession i f).heads = s.heads := rfl
@[simp] theorem State.updSession_cns (i : Nat) (f : Session → Session) : (s.updSession i f).cns = s.cns := rfl
@[simp] theorem State.updSession_xy2 (i : Nat) (f : Session → Session) : (s.updSession i f).xy2 = s.xy2 := rfl
@[simp] theorem State.updSession_gal (i : Nat) (f : Session → Session) : (s.updSession i f).gal = s.gal := rfl
@[simp] theorem State.updSession_store (i : Nat) (f : Session → Session) : (s.updSession i f).store = s.store := rfl
@[simp] theorem State.updSession_time (i : Nat) (f : Session → Session) : (s.updSession i f).time = s.time := rfl
@[simp] theorem State.updSession_twin (i : Nat) (f : Session → Session) : (s.updSession i f).twin = s.twin := rfl
@[simp] theorem State.updSession_mram (i : Nat) (f : Session → Session) : (s.updSession i f).mram = s.mram := rfl
@[simp] theorem State.updSession_power (i : Nat) (f : Session → Session) : (s.updSession i f).power = s.power := rfl
@[simp] theorem State.updSession_doc (i : Nat) (f : Session → Session) : (s.updSession i f).doc = s.doc := rfl
@[simp] theorem State.updSession_blks (i : Nat) (f : Session → Session) : (s.updSession i f).blks = s.blks := rfl
@[simp] theorem State.updSession_stops (i : Nat) (f : Session → Session) : (s.updSession i f).stops = s.stops := rfl
@[simp] theorem State.updSession_mot (i : Nat) (f : Session → Session) : (s.updSession i f).mot = s.mot := rfl
@[simp] theorem State.updSession_pipes (i : Nat) (f : Session → Session) : (s.updSession i f).pipes = s.pipes := rfl
@[simp] theorem State.updSession_lamp (i : Nat) (f : Session → Session) : (s.updSession i f).lamp = s.lamp := rfl

/-! ## updStream -/

@[simp] theorem State.updStream_pending (i k : Nat) (f : StreamSt → StreamSt) : (s.updStream i k f).pending = s.pending := rfl
@[simp] theorem State.updStream_straps (i k : Nat) (f : StreamSt → StreamSt) : (s.updStream i k f).straps = s.straps := rfl
@[simp] theorem State.updStream_now (i k : Nat) (f : StreamSt → StreamSt) : (s.updStream i k f).now = s.now := rfl
@[simp] theorem State.updStream_tick (i k : Nat) (f : StreamSt → StreamSt) : (s.updStream i k f).tick = s.tick := rfl
@[simp] theorem State.updStream_micro (i k : Nat) (f : StreamSt → StreamSt) : (s.updStream i k f).micro = s.micro := rfl
@[simp] theorem State.updStream_frameNo (i k : Nat) (f : StreamSt → StreamSt) : (s.updStream i k f).frameNo = s.frameNo := rfl
@[simp] theorem State.updStream_frameAt (i k : Nat) (f : StreamSt → StreamSt) : (s.updStream i k f).frameAt = s.frameAt := rfl
@[simp] theorem State.updStream_fresh (i k : Nat) (f : StreamSt → StreamSt) : (s.updStream i k f).fresh = s.fresh := rfl
@[simp] theorem State.updStream_out (i k : Nat) (f : StreamSt → StreamSt) : (s.updStream i k f).out = s.out := rfl
@[simp] theorem State.updStream_log (i k : Nat) (f : StreamSt → StreamSt) : (s.updStream i k f).log = s.log := rfl
@[simp] theorem State.updStream_params (i k : Nat) (f : StreamSt → StreamSt) : (s.updStream i k f).params = s.params := rfl
@[simp] theorem State.updStream_writes (i k : Nat) (f : StreamSt → StreamSt) : (s.updStream i k f).writes = s.writes := rfl
@[simp] theorem State.updStream_faults (i k : Nat) (f : StreamSt → StreamSt) : (s.updStream i k f).faults = s.faults := rfl
@[simp] theorem State.updStream_beams (i k : Nat) (f : StreamSt → StreamSt) : (s.updStream i k f).beams = s.beams := rfl
@[simp] theorem State.updStream_heads (i k : Nat) (f : StreamSt → StreamSt) : (s.updStream i k f).heads = s.heads := rfl
@[simp] theorem State.updStream_cns (i k : Nat) (f : StreamSt → StreamSt) : (s.updStream i k f).cns = s.cns := rfl
@[simp] theorem State.updStream_xy2 (i k : Nat) (f : StreamSt → StreamSt) : (s.updStream i k f).xy2 = s.xy2 := rfl
@[simp] theorem State.updStream_gal (i k : Nat) (f : StreamSt → StreamSt) : (s.updStream i k f).gal = s.gal := rfl
@[simp] theorem State.updStream_store (i k : Nat) (f : StreamSt → StreamSt) : (s.updStream i k f).store = s.store := rfl
@[simp] theorem State.updStream_time (i k : Nat) (f : StreamSt → StreamSt) : (s.updStream i k f).time = s.time := rfl
@[simp] theorem State.updStream_twin (i k : Nat) (f : StreamSt → StreamSt) : (s.updStream i k f).twin = s.twin := rfl
@[simp] theorem State.updStream_mram (i k : Nat) (f : StreamSt → StreamSt) : (s.updStream i k f).mram = s.mram := rfl
@[simp] theorem State.updStream_power (i k : Nat) (f : StreamSt → StreamSt) : (s.updStream i k f).power = s.power := rfl
@[simp] theorem State.updStream_doc (i k : Nat) (f : StreamSt → StreamSt) : (s.updStream i k f).doc = s.doc := rfl
@[simp] theorem State.updStream_blks (i k : Nat) (f : StreamSt → StreamSt) : (s.updStream i k f).blks = s.blks := rfl
@[simp] theorem State.updStream_stops (i k : Nat) (f : StreamSt → StreamSt) : (s.updStream i k f).stops = s.stops := rfl
@[simp] theorem State.updStream_mot (i k : Nat) (f : StreamSt → StreamSt) : (s.updStream i k f).mot = s.mot := rfl
@[simp] theorem State.updStream_pipes (i k : Nat) (f : StreamSt → StreamSt) : (s.updStream i k f).pipes = s.pipes := rfl
@[simp] theorem State.updStream_lamp (i k : Nat) (f : StreamSt → StreamSt) : (s.updStream i k f).lamp = s.lamp := rfl

/-! ## decide -/

@[simp] theorem State.decide_pending (k : Ticket) (r e : Nat) (p : List Byte) : (s.decide k r e p).pending = s.pending := rfl
@[simp] theorem State.decide_straps (k : Ticket) (r e : Nat) (p : List Byte) : (s.decide k r e p).straps = s.straps := rfl
@[simp] theorem State.decide_now (k : Ticket) (r e : Nat) (p : List Byte) : (s.decide k r e p).now = s.now := rfl
@[simp] theorem State.decide_tick (k : Ticket) (r e : Nat) (p : List Byte) : (s.decide k r e p).tick = s.tick := rfl
@[simp] theorem State.decide_micro (k : Ticket) (r e : Nat) (p : List Byte) : (s.decide k r e p).micro = s.micro := rfl
@[simp] theorem State.decide_frameNo (k : Ticket) (r e : Nat) (p : List Byte) : (s.decide k r e p).frameNo = s.frameNo := rfl
@[simp] theorem State.decide_frameAt (k : Ticket) (r e : Nat) (p : List Byte) : (s.decide k r e p).frameAt = s.frameAt := rfl
@[simp] theorem State.decide_fresh (k : Ticket) (r e : Nat) (p : List Byte) : (s.decide k r e p).fresh = s.fresh := rfl
@[simp] theorem State.decide_out (k : Ticket) (r e : Nat) (p : List Byte) : (s.decide k r e p).out = s.out := rfl
@[simp] theorem State.decide_log (k : Ticket) (r e : Nat) (p : List Byte) : (s.decide k r e p).log = s.log := rfl
@[simp] theorem State.decide_params (k : Ticket) (r e : Nat) (p : List Byte) : (s.decide k r e p).params = s.params := rfl
@[simp] theorem State.decide_writes (k : Ticket) (r e : Nat) (p : List Byte) : (s.decide k r e p).writes = s.writes := rfl
@[simp] theorem State.decide_faults (k : Ticket) (r e : Nat) (p : List Byte) : (s.decide k r e p).faults = s.faults := rfl
@[simp] theorem State.decide_beams (k : Ticket) (r e : Nat) (p : List Byte) : (s.decide k r e p).beams = s.beams := rfl
@[simp] theorem State.decide_heads (k : Ticket) (r e : Nat) (p : List Byte) : (s.decide k r e p).heads = s.heads := rfl
@[simp] theorem State.decide_cns (k : Ticket) (r e : Nat) (p : List Byte) : (s.decide k r e p).cns = s.cns := rfl
@[simp] theorem State.decide_xy2 (k : Ticket) (r e : Nat) (p : List Byte) : (s.decide k r e p).xy2 = s.xy2 := rfl
@[simp] theorem State.decide_gal (k : Ticket) (r e : Nat) (p : List Byte) : (s.decide k r e p).gal = s.gal := rfl
@[simp] theorem State.decide_store (k : Ticket) (r e : Nat) (p : List Byte) : (s.decide k r e p).store = s.store := rfl
@[simp] theorem State.decide_time (k : Ticket) (r e : Nat) (p : List Byte) : (s.decide k r e p).time = s.time := rfl
@[simp] theorem State.decide_twin (k : Ticket) (r e : Nat) (p : List Byte) : (s.decide k r e p).twin = s.twin := rfl
@[simp] theorem State.decide_mram (k : Ticket) (r e : Nat) (p : List Byte) : (s.decide k r e p).mram = s.mram := rfl
@[simp] theorem State.decide_power (k : Ticket) (r e : Nat) (p : List Byte) : (s.decide k r e p).power = s.power := rfl
@[simp] theorem State.decide_doc (k : Ticket) (r e : Nat) (p : List Byte) : (s.decide k r e p).doc = s.doc := rfl
@[simp] theorem State.decide_blks (k : Ticket) (r e : Nat) (p : List Byte) : (s.decide k r e p).blks = s.blks := rfl
@[simp] theorem State.decide_stops (k : Ticket) (r e : Nat) (p : List Byte) : (s.decide k r e p).stops = s.stops := rfl
@[simp] theorem State.decide_mot (k : Ticket) (r e : Nat) (p : List Byte) : (s.decide k r e p).mot = s.mot := rfl
@[simp] theorem State.decide_pipes (k : Ticket) (r e : Nat) (p : List Byte) : (s.decide k r e p).pipes = s.pipes := rfl
@[simp] theorem State.decide_lamp (k : Ticket) (r e : Nat) (p : List Byte) : (s.decide k r e p).lamp = s.lamp := rfl

/-! ## updLog -/

@[simp] theorem State.updLog_pending (f : LogSt → LogSt) : (s.updLog f).pending = s.pending := rfl
@[simp] theorem State.updLog_straps (f : LogSt → LogSt) : (s.updLog f).straps = s.straps := rfl
@[simp] theorem State.updLog_now (f : LogSt → LogSt) : (s.updLog f).now = s.now := rfl
@[simp] theorem State.updLog_tick (f : LogSt → LogSt) : (s.updLog f).tick = s.tick := rfl
@[simp] theorem State.updLog_micro (f : LogSt → LogSt) : (s.updLog f).micro = s.micro := rfl
@[simp] theorem State.updLog_frameNo (f : LogSt → LogSt) : (s.updLog f).frameNo = s.frameNo := rfl
@[simp] theorem State.updLog_frameAt (f : LogSt → LogSt) : (s.updLog f).frameAt = s.frameAt := rfl
@[simp] theorem State.updLog_fresh (f : LogSt → LogSt) : (s.updLog f).fresh = s.fresh := rfl
@[simp] theorem State.updLog_out (f : LogSt → LogSt) : (s.updLog f).out = s.out := rfl
@[simp] theorem State.updLog_host (f : LogSt → LogSt) : (s.updLog f).host = s.host := rfl
@[simp] theorem State.updLog_log (f : LogSt → LogSt) : (s.updLog f).log = f s.log := rfl
@[simp] theorem State.updLog_params (f : LogSt → LogSt) : (s.updLog f).params = s.params := rfl
@[simp] theorem State.updLog_writes (f : LogSt → LogSt) : (s.updLog f).writes = s.writes := rfl
@[simp] theorem State.updLog_faults (f : LogSt → LogSt) : (s.updLog f).faults = s.faults := rfl
@[simp] theorem State.updLog_beams (f : LogSt → LogSt) : (s.updLog f).beams = s.beams := rfl
@[simp] theorem State.updLog_heads (f : LogSt → LogSt) : (s.updLog f).heads = s.heads := rfl
@[simp] theorem State.updLog_cns (f : LogSt → LogSt) : (s.updLog f).cns = s.cns := rfl
@[simp] theorem State.updLog_xy2 (f : LogSt → LogSt) : (s.updLog f).xy2 = s.xy2 := rfl
@[simp] theorem State.updLog_gal (f : LogSt → LogSt) : (s.updLog f).gal = s.gal := rfl
@[simp] theorem State.updLog_store (f : LogSt → LogSt) : (s.updLog f).store = s.store := rfl
@[simp] theorem State.updLog_time (f : LogSt → LogSt) : (s.updLog f).time = s.time := rfl
@[simp] theorem State.updLog_twin (f : LogSt → LogSt) : (s.updLog f).twin = s.twin := rfl
@[simp] theorem State.updLog_mram (f : LogSt → LogSt) : (s.updLog f).mram = s.mram := rfl
@[simp] theorem State.updLog_power (f : LogSt → LogSt) : (s.updLog f).power = s.power := rfl
@[simp] theorem State.updLog_doc (f : LogSt → LogSt) : (s.updLog f).doc = s.doc := rfl
@[simp] theorem State.updLog_blks (f : LogSt → LogSt) : (s.updLog f).blks = s.blks := rfl
@[simp] theorem State.updLog_stops (f : LogSt → LogSt) : (s.updLog f).stops = s.stops := rfl
@[simp] theorem State.updLog_mot (f : LogSt → LogSt) : (s.updLog f).mot = s.mot := rfl
@[simp] theorem State.updLog_pipes (f : LogSt → LogSt) : (s.updLog f).pipes = s.pipes := rfl
@[simp] theorem State.updLog_lamp (f : LogSt → LogSt) : (s.updLog f).lamp = s.lamp := rfl

/-! ## updBeam -/

@[simp] theorem State.updBeam_pending (n : Nat) (f : Beam → Beam) : (s.updBeam n f).pending = s.pending := rfl
@[simp] theorem State.updBeam_straps (n : Nat) (f : Beam → Beam) : (s.updBeam n f).straps = s.straps := rfl
@[simp] theorem State.updBeam_now (n : Nat) (f : Beam → Beam) : (s.updBeam n f).now = s.now := rfl
@[simp] theorem State.updBeam_tick (n : Nat) (f : Beam → Beam) : (s.updBeam n f).tick = s.tick := rfl
@[simp] theorem State.updBeam_micro (n : Nat) (f : Beam → Beam) : (s.updBeam n f).micro = s.micro := rfl
@[simp] theorem State.updBeam_frameNo (n : Nat) (f : Beam → Beam) : (s.updBeam n f).frameNo = s.frameNo := rfl
@[simp] theorem State.updBeam_frameAt (n : Nat) (f : Beam → Beam) : (s.updBeam n f).frameAt = s.frameAt := rfl
@[simp] theorem State.updBeam_fresh (n : Nat) (f : Beam → Beam) : (s.updBeam n f).fresh = s.fresh := rfl
@[simp] theorem State.updBeam_out (n : Nat) (f : Beam → Beam) : (s.updBeam n f).out = s.out := rfl
@[simp] theorem State.updBeam_host (n : Nat) (f : Beam → Beam) : (s.updBeam n f).host = s.host := rfl
@[simp] theorem State.updBeam_log (n : Nat) (f : Beam → Beam) : (s.updBeam n f).log = s.log := rfl
@[simp] theorem State.updBeam_params (n : Nat) (f : Beam → Beam) : (s.updBeam n f).params = s.params := rfl
@[simp] theorem State.updBeam_writes (n : Nat) (f : Beam → Beam) : (s.updBeam n f).writes = s.writes := rfl
@[simp] theorem State.updBeam_faults (n : Nat) (f : Beam → Beam) : (s.updBeam n f).faults = s.faults := rfl
@[simp] theorem State.updBeam_beams (n : Nat) (f : Beam → Beam) : (s.updBeam n f).beams = s.beams.modify n f := rfl
@[simp] theorem State.updBeam_heads (n : Nat) (f : Beam → Beam) : (s.updBeam n f).heads = s.heads := rfl
@[simp] theorem State.updBeam_cns (n : Nat) (f : Beam → Beam) : (s.updBeam n f).cns = s.cns := rfl
@[simp] theorem State.updBeam_xy2 (n : Nat) (f : Beam → Beam) : (s.updBeam n f).xy2 = s.xy2 := rfl
@[simp] theorem State.updBeam_gal (n : Nat) (f : Beam → Beam) : (s.updBeam n f).gal = s.gal := rfl
@[simp] theorem State.updBeam_store (n : Nat) (f : Beam → Beam) : (s.updBeam n f).store = s.store := rfl
@[simp] theorem State.updBeam_time (n : Nat) (f : Beam → Beam) : (s.updBeam n f).time = s.time := rfl
@[simp] theorem State.updBeam_twin (n : Nat) (f : Beam → Beam) : (s.updBeam n f).twin = s.twin := rfl
@[simp] theorem State.updBeam_mram (n : Nat) (f : Beam → Beam) : (s.updBeam n f).mram = s.mram := rfl
@[simp] theorem State.updBeam_power (n : Nat) (f : Beam → Beam) : (s.updBeam n f).power = s.power := rfl
@[simp] theorem State.updBeam_doc (n : Nat) (f : Beam → Beam) : (s.updBeam n f).doc = s.doc := rfl
@[simp] theorem State.updBeam_blks (n : Nat) (f : Beam → Beam) : (s.updBeam n f).blks = s.blks := rfl
@[simp] theorem State.updBeam_stops (n : Nat) (f : Beam → Beam) : (s.updBeam n f).stops = s.stops := rfl
@[simp] theorem State.updBeam_mot (n : Nat) (f : Beam → Beam) : (s.updBeam n f).mot = s.mot := rfl
@[simp] theorem State.updBeam_pipes (n : Nat) (f : Beam → Beam) : (s.updBeam n f).pipes = s.pipes := rfl
@[simp] theorem State.updBeam_lamp (n : Nat) (f : Beam → Beam) : (s.updBeam n f).lamp = s.lamp := rfl

/-! ## updHead -/

@[simp] theorem State.updHead_pending (n : Nat) (f : HeadPort → HeadPort) : (s.updHead n f).pending = s.pending := rfl
@[simp] theorem State.updHead_straps (n : Nat) (f : HeadPort → HeadPort) : (s.updHead n f).straps = s.straps := rfl
@[simp] theorem State.updHead_now (n : Nat) (f : HeadPort → HeadPort) : (s.updHead n f).now = s.now := rfl
@[simp] theorem State.updHead_tick (n : Nat) (f : HeadPort → HeadPort) : (s.updHead n f).tick = s.tick := rfl
@[simp] theorem State.updHead_micro (n : Nat) (f : HeadPort → HeadPort) : (s.updHead n f).micro = s.micro := rfl
@[simp] theorem State.updHead_frameNo (n : Nat) (f : HeadPort → HeadPort) : (s.updHead n f).frameNo = s.frameNo := rfl
@[simp] theorem State.updHead_frameAt (n : Nat) (f : HeadPort → HeadPort) : (s.updHead n f).frameAt = s.frameAt := rfl
@[simp] theorem State.updHead_fresh (n : Nat) (f : HeadPort → HeadPort) : (s.updHead n f).fresh = s.fresh := rfl
@[simp] theorem State.updHead_out (n : Nat) (f : HeadPort → HeadPort) : (s.updHead n f).out = s.out := rfl
@[simp] theorem State.updHead_host (n : Nat) (f : HeadPort → HeadPort) : (s.updHead n f).host = s.host := rfl
@[simp] theorem State.updHead_log (n : Nat) (f : HeadPort → HeadPort) : (s.updHead n f).log = s.log := rfl
@[simp] theorem State.updHead_params (n : Nat) (f : HeadPort → HeadPort) : (s.updHead n f).params = s.params := rfl
@[simp] theorem State.updHead_writes (n : Nat) (f : HeadPort → HeadPort) : (s.updHead n f).writes = s.writes := rfl
@[simp] theorem State.updHead_faults (n : Nat) (f : HeadPort → HeadPort) : (s.updHead n f).faults = s.faults := rfl
@[simp] theorem State.updHead_beams (n : Nat) (f : HeadPort → HeadPort) : (s.updHead n f).beams = s.beams := rfl
@[simp] theorem State.updHead_heads (n : Nat) (f : HeadPort → HeadPort) : (s.updHead n f).heads = s.heads.modify n f := rfl
@[simp] theorem State.updHead_cns (n : Nat) (f : HeadPort → HeadPort) : (s.updHead n f).cns = s.cns := rfl
@[simp] theorem State.updHead_xy2 (n : Nat) (f : HeadPort → HeadPort) : (s.updHead n f).xy2 = s.xy2 := rfl
@[simp] theorem State.updHead_gal (n : Nat) (f : HeadPort → HeadPort) : (s.updHead n f).gal = s.gal := rfl
@[simp] theorem State.updHead_store (n : Nat) (f : HeadPort → HeadPort) : (s.updHead n f).store = s.store := rfl
@[simp] theorem State.updHead_time (n : Nat) (f : HeadPort → HeadPort) : (s.updHead n f).time = s.time := rfl
@[simp] theorem State.updHead_twin (n : Nat) (f : HeadPort → HeadPort) : (s.updHead n f).twin = s.twin := rfl
@[simp] theorem State.updHead_mram (n : Nat) (f : HeadPort → HeadPort) : (s.updHead n f).mram = s.mram := rfl
@[simp] theorem State.updHead_power (n : Nat) (f : HeadPort → HeadPort) : (s.updHead n f).power = s.power := rfl
@[simp] theorem State.updHead_doc (n : Nat) (f : HeadPort → HeadPort) : (s.updHead n f).doc = s.doc := rfl
@[simp] theorem State.updHead_blks (n : Nat) (f : HeadPort → HeadPort) : (s.updHead n f).blks = s.blks := rfl
@[simp] theorem State.updHead_stops (n : Nat) (f : HeadPort → HeadPort) : (s.updHead n f).stops = s.stops := rfl
@[simp] theorem State.updHead_mot (n : Nat) (f : HeadPort → HeadPort) : (s.updHead n f).mot = s.mot := rfl
@[simp] theorem State.updHead_pipes (n : Nat) (f : HeadPort → HeadPort) : (s.updHead n f).pipes = s.pipes := rfl
@[simp] theorem State.updHead_lamp (n : Nat) (f : HeadPort → HeadPort) : (s.updHead n f).lamp = s.lamp := rfl

/-! ## updCns -/

@[simp] theorem State.updCns_pending (f : CnsSt → CnsSt) : (s.updCns f).pending = s.pending := rfl
@[simp] theorem State.updCns_straps (f : CnsSt → CnsSt) : (s.updCns f).straps = s.straps := rfl
@[simp] theorem State.updCns_now (f : CnsSt → CnsSt) : (s.updCns f).now = s.now := rfl
@[simp] theorem State.updCns_tick (f : CnsSt → CnsSt) : (s.updCns f).tick = s.tick := rfl
@[simp] theorem State.updCns_micro (f : CnsSt → CnsSt) : (s.updCns f).micro = s.micro := rfl
@[simp] theorem State.updCns_frameNo (f : CnsSt → CnsSt) : (s.updCns f).frameNo = s.frameNo := rfl
@[simp] theorem State.updCns_frameAt (f : CnsSt → CnsSt) : (s.updCns f).frameAt = s.frameAt := rfl
@[simp] theorem State.updCns_fresh (f : CnsSt → CnsSt) : (s.updCns f).fresh = s.fresh := rfl
@[simp] theorem State.updCns_out (f : CnsSt → CnsSt) : (s.updCns f).out = s.out := rfl
@[simp] theorem State.updCns_host (f : CnsSt → CnsSt) : (s.updCns f).host = s.host := rfl
@[simp] theorem State.updCns_log (f : CnsSt → CnsSt) : (s.updCns f).log = s.log := rfl
@[simp] theorem State.updCns_params (f : CnsSt → CnsSt) : (s.updCns f).params = s.params := rfl
@[simp] theorem State.updCns_writes (f : CnsSt → CnsSt) : (s.updCns f).writes = s.writes := rfl
@[simp] theorem State.updCns_faults (f : CnsSt → CnsSt) : (s.updCns f).faults = s.faults := rfl
@[simp] theorem State.updCns_beams (f : CnsSt → CnsSt) : (s.updCns f).beams = s.beams := rfl
@[simp] theorem State.updCns_heads (f : CnsSt → CnsSt) : (s.updCns f).heads = s.heads := rfl
@[simp] theorem State.updCns_cns (f : CnsSt → CnsSt) : (s.updCns f).cns = f s.cns := rfl
@[simp] theorem State.updCns_xy2 (f : CnsSt → CnsSt) : (s.updCns f).xy2 = s.xy2 := rfl
@[simp] theorem State.updCns_gal (f : CnsSt → CnsSt) : (s.updCns f).gal = s.gal := rfl
@[simp] theorem State.updCns_store (f : CnsSt → CnsSt) : (s.updCns f).store = s.store := rfl
@[simp] theorem State.updCns_time (f : CnsSt → CnsSt) : (s.updCns f).time = s.time := rfl
@[simp] theorem State.updCns_twin (f : CnsSt → CnsSt) : (s.updCns f).twin = s.twin := rfl
@[simp] theorem State.updCns_mram (f : CnsSt → CnsSt) : (s.updCns f).mram = s.mram := rfl
@[simp] theorem State.updCns_power (f : CnsSt → CnsSt) : (s.updCns f).power = s.power := rfl
@[simp] theorem State.updCns_doc (f : CnsSt → CnsSt) : (s.updCns f).doc = s.doc := rfl
@[simp] theorem State.updCns_blks (f : CnsSt → CnsSt) : (s.updCns f).blks = s.blks := rfl
@[simp] theorem State.updCns_stops (f : CnsSt → CnsSt) : (s.updCns f).stops = s.stops := rfl
@[simp] theorem State.updCns_mot (f : CnsSt → CnsSt) : (s.updCns f).mot = s.mot := rfl
@[simp] theorem State.updCns_pipes (f : CnsSt → CnsSt) : (s.updCns f).pipes = s.pipes := rfl
@[simp] theorem State.updCns_lamp (f : CnsSt → CnsSt) : (s.updCns f).lamp = s.lamp := rfl

/-! ## updSlot -/

@[simp] theorem State.updSlot_pending (i : Nat) (f : CSlot → CSlot) : (s.updSlot i f).pending = s.pending := rfl
@[simp] theorem State.updSlot_straps (i : Nat) (f : CSlot → CSlot) : (s.updSlot i f).straps = s.straps := rfl
@[simp] theorem State.updSlot_now (i : Nat) (f : CSlot → CSlot) : (s.updSlot i f).now = s.now := rfl
@[simp] theorem State.updSlot_tick (i : Nat) (f : CSlot → CSlot) : (s.updSlot i f).tick = s.tick := rfl
@[simp] theorem State.updSlot_micro (i : Nat) (f : CSlot → CSlot) : (s.updSlot i f).micro = s.micro := rfl
@[simp] theorem State.updSlot_frameNo (i : Nat) (f : CSlot → CSlot) : (s.updSlot i f).frameNo = s.frameNo := rfl
@[simp] theorem State.updSlot_frameAt (i : Nat) (f : CSlot → CSlot) : (s.updSlot i f).frameAt = s.frameAt := rfl
@[simp] theorem State.updSlot_fresh (i : Nat) (f : CSlot → CSlot) : (s.updSlot i f).fresh = s.fresh := rfl
@[simp] theorem State.updSlot_out (i : Nat) (f : CSlot → CSlot) : (s.updSlot i f).out = s.out := rfl
@[simp] theorem State.updSlot_host (i : Nat) (f : CSlot → CSlot) : (s.updSlot i f).host = s.host := rfl
@[simp] theorem State.updSlot_log (i : Nat) (f : CSlot → CSlot) : (s.updSlot i f).log = s.log := rfl
@[simp] theorem State.updSlot_params (i : Nat) (f : CSlot → CSlot) : (s.updSlot i f).params = s.params := rfl
@[simp] theorem State.updSlot_writes (i : Nat) (f : CSlot → CSlot) : (s.updSlot i f).writes = s.writes := rfl
@[simp] theorem State.updSlot_faults (i : Nat) (f : CSlot → CSlot) : (s.updSlot i f).faults = s.faults := rfl
@[simp] theorem State.updSlot_beams (i : Nat) (f : CSlot → CSlot) : (s.updSlot i f).beams = s.beams := rfl
@[simp] theorem State.updSlot_heads (i : Nat) (f : CSlot → CSlot) : (s.updSlot i f).heads = s.heads := rfl
@[simp] theorem State.updSlot_xy2 (i : Nat) (f : CSlot → CSlot) : (s.updSlot i f).xy2 = s.xy2 := rfl
@[simp] theorem State.updSlot_gal (i : Nat) (f : CSlot → CSlot) : (s.updSlot i f).gal = s.gal := rfl
@[simp] theorem State.updSlot_store (i : Nat) (f : CSlot → CSlot) : (s.updSlot i f).store = s.store := rfl
@[simp] theorem State.updSlot_time (i : Nat) (f : CSlot → CSlot) : (s.updSlot i f).time = s.time := rfl
@[simp] theorem State.updSlot_twin (i : Nat) (f : CSlot → CSlot) : (s.updSlot i f).twin = s.twin := rfl
@[simp] theorem State.updSlot_mram (i : Nat) (f : CSlot → CSlot) : (s.updSlot i f).mram = s.mram := rfl
@[simp] theorem State.updSlot_power (i : Nat) (f : CSlot → CSlot) : (s.updSlot i f).power = s.power := rfl
@[simp] theorem State.updSlot_doc (i : Nat) (f : CSlot → CSlot) : (s.updSlot i f).doc = s.doc := rfl
@[simp] theorem State.updSlot_blks (i : Nat) (f : CSlot → CSlot) : (s.updSlot i f).blks = s.blks := rfl
@[simp] theorem State.updSlot_stops (i : Nat) (f : CSlot → CSlot) : (s.updSlot i f).stops = s.stops := rfl
@[simp] theorem State.updSlot_mot (i : Nat) (f : CSlot → CSlot) : (s.updSlot i f).mot = s.mot := rfl
@[simp] theorem State.updSlot_pipes (i : Nat) (f : CSlot → CSlot) : (s.updSlot i f).pipes = s.pipes := rfl
@[simp] theorem State.updSlot_lamp (i : Nat) (f : CSlot → CSlot) : (s.updSlot i f).lamp = s.lamp := rfl

/-! ## updStore -/

@[simp] theorem State.updStore_pending (f : StoreSt → StoreSt) : (s.updStore f).pending = s.pending := rfl
@[simp] theorem State.updStore_straps (f : StoreSt → StoreSt) : (s.updStore f).straps = s.straps := rfl
@[simp] theorem State.updStore_now (f : StoreSt → StoreSt) : (s.updStore f).now = s.now := rfl
@[simp] theorem State.updStore_tick (f : StoreSt → StoreSt) : (s.updStore f).tick = s.tick := rfl
@[simp] theorem State.updStore_micro (f : StoreSt → StoreSt) : (s.updStore f).micro = s.micro := rfl
@[simp] theorem State.updStore_frameNo (f : StoreSt → StoreSt) : (s.updStore f).frameNo = s.frameNo := rfl
@[simp] theorem State.updStore_frameAt (f : StoreSt → StoreSt) : (s.updStore f).frameAt = s.frameAt := rfl
@[simp] theorem State.updStore_fresh (f : StoreSt → StoreSt) : (s.updStore f).fresh = s.fresh := rfl
@[simp] theorem State.updStore_out (f : StoreSt → StoreSt) : (s.updStore f).out = s.out := rfl
@[simp] theorem State.updStore_host (f : StoreSt → StoreSt) : (s.updStore f).host = s.host := rfl
@[simp] theorem State.updStore_log (f : StoreSt → StoreSt) : (s.updStore f).log = s.log := rfl
@[simp] theorem State.updStore_params (f : StoreSt → StoreSt) : (s.updStore f).params = s.params := rfl
@[simp] theorem State.updStore_writes (f : StoreSt → StoreSt) : (s.updStore f).writes = s.writes := rfl
@[simp] theorem State.updStore_faults (f : StoreSt → StoreSt) : (s.updStore f).faults = s.faults := rfl
@[simp] theorem State.updStore_beams (f : StoreSt → StoreSt) : (s.updStore f).beams = s.beams := rfl
@[simp] theorem State.updStore_heads (f : StoreSt → StoreSt) : (s.updStore f).heads = s.heads := rfl
@[simp] theorem State.updStore_cns (f : StoreSt → StoreSt) : (s.updStore f).cns = s.cns := rfl
@[simp] theorem State.updStore_xy2 (f : StoreSt → StoreSt) : (s.updStore f).xy2 = s.xy2 := rfl
@[simp] theorem State.updStore_gal (f : StoreSt → StoreSt) : (s.updStore f).gal = s.gal := rfl
@[simp] theorem State.updStore_store (f : StoreSt → StoreSt) : (s.updStore f).store = f s.store := rfl
@[simp] theorem State.updStore_time (f : StoreSt → StoreSt) : (s.updStore f).time = s.time := rfl
@[simp] theorem State.updStore_twin (f : StoreSt → StoreSt) : (s.updStore f).twin = s.twin := rfl
@[simp] theorem State.updStore_mram (f : StoreSt → StoreSt) : (s.updStore f).mram = s.mram := rfl
@[simp] theorem State.updStore_power (f : StoreSt → StoreSt) : (s.updStore f).power = s.power := rfl
@[simp] theorem State.updStore_doc (f : StoreSt → StoreSt) : (s.updStore f).doc = s.doc := rfl
@[simp] theorem State.updStore_blks (f : StoreSt → StoreSt) : (s.updStore f).blks = s.blks := rfl
@[simp] theorem State.updStore_stops (f : StoreSt → StoreSt) : (s.updStore f).stops = s.stops := rfl
@[simp] theorem State.updStore_mot (f : StoreSt → StoreSt) : (s.updStore f).mot = s.mot := rfl
@[simp] theorem State.updStore_pipes (f : StoreSt → StoreSt) : (s.updStore f).pipes = s.pipes := rfl
@[simp] theorem State.updStore_lamp (f : StoreSt → StoreSt) : (s.updStore f).lamp = s.lamp := rfl

/-! ## updTime -/

@[simp] theorem State.updTime_pending (f : TimeSt → TimeSt) : (s.updTime f).pending = s.pending := rfl
@[simp] theorem State.updTime_straps (f : TimeSt → TimeSt) : (s.updTime f).straps = s.straps := rfl
@[simp] theorem State.updTime_now (f : TimeSt → TimeSt) : (s.updTime f).now = s.now := rfl
@[simp] theorem State.updTime_tick (f : TimeSt → TimeSt) : (s.updTime f).tick = s.tick := rfl
@[simp] theorem State.updTime_micro (f : TimeSt → TimeSt) : (s.updTime f).micro = s.micro := rfl
@[simp] theorem State.updTime_frameNo (f : TimeSt → TimeSt) : (s.updTime f).frameNo = s.frameNo := rfl
@[simp] theorem State.updTime_frameAt (f : TimeSt → TimeSt) : (s.updTime f).frameAt = s.frameAt := rfl
@[simp] theorem State.updTime_fresh (f : TimeSt → TimeSt) : (s.updTime f).fresh = s.fresh := rfl
@[simp] theorem State.updTime_out (f : TimeSt → TimeSt) : (s.updTime f).out = s.out := rfl
@[simp] theorem State.updTime_host (f : TimeSt → TimeSt) : (s.updTime f).host = s.host := rfl
@[simp] theorem State.updTime_log (f : TimeSt → TimeSt) : (s.updTime f).log = s.log := rfl
@[simp] theorem State.updTime_params (f : TimeSt → TimeSt) : (s.updTime f).params = s.params := rfl
@[simp] theorem State.updTime_writes (f : TimeSt → TimeSt) : (s.updTime f).writes = s.writes := rfl
@[simp] theorem State.updTime_faults (f : TimeSt → TimeSt) : (s.updTime f).faults = s.faults := rfl
@[simp] theorem State.updTime_beams (f : TimeSt → TimeSt) : (s.updTime f).beams = s.beams := rfl
@[simp] theorem State.updTime_heads (f : TimeSt → TimeSt) : (s.updTime f).heads = s.heads := rfl
@[simp] theorem State.updTime_cns (f : TimeSt → TimeSt) : (s.updTime f).cns = s.cns := rfl
@[simp] theorem State.updTime_xy2 (f : TimeSt → TimeSt) : (s.updTime f).xy2 = s.xy2 := rfl
@[simp] theorem State.updTime_gal (f : TimeSt → TimeSt) : (s.updTime f).gal = s.gal := rfl
@[simp] theorem State.updTime_store (f : TimeSt → TimeSt) : (s.updTime f).store = s.store := rfl
@[simp] theorem State.updTime_time (f : TimeSt → TimeSt) : (s.updTime f).time = f s.time := rfl
@[simp] theorem State.updTime_twin (f : TimeSt → TimeSt) : (s.updTime f).twin = s.twin := rfl
@[simp] theorem State.updTime_mram (f : TimeSt → TimeSt) : (s.updTime f).mram = s.mram := rfl
@[simp] theorem State.updTime_power (f : TimeSt → TimeSt) : (s.updTime f).power = s.power := rfl
@[simp] theorem State.updTime_doc (f : TimeSt → TimeSt) : (s.updTime f).doc = s.doc := rfl
@[simp] theorem State.updTime_blks (f : TimeSt → TimeSt) : (s.updTime f).blks = s.blks := rfl
@[simp] theorem State.updTime_stops (f : TimeSt → TimeSt) : (s.updTime f).stops = s.stops := rfl
@[simp] theorem State.updTime_mot (f : TimeSt → TimeSt) : (s.updTime f).mot = s.mot := rfl
@[simp] theorem State.updTime_pipes (f : TimeSt → TimeSt) : (s.updTime f).pipes = s.pipes := rfl
@[simp] theorem State.updTime_lamp (f : TimeSt → TimeSt) : (s.updTime f).lamp = s.lamp := rfl

/-! ## updTwin -/

@[simp] theorem State.updTwin_pending (f : TwinSt → TwinSt) : (s.updTwin f).pending = s.pending := rfl
@[simp] theorem State.updTwin_straps (f : TwinSt → TwinSt) : (s.updTwin f).straps = s.straps := rfl
@[simp] theorem State.updTwin_now (f : TwinSt → TwinSt) : (s.updTwin f).now = s.now := rfl
@[simp] theorem State.updTwin_tick (f : TwinSt → TwinSt) : (s.updTwin f).tick = s.tick := rfl
@[simp] theorem State.updTwin_micro (f : TwinSt → TwinSt) : (s.updTwin f).micro = s.micro := rfl
@[simp] theorem State.updTwin_frameNo (f : TwinSt → TwinSt) : (s.updTwin f).frameNo = s.frameNo := rfl
@[simp] theorem State.updTwin_frameAt (f : TwinSt → TwinSt) : (s.updTwin f).frameAt = s.frameAt := rfl
@[simp] theorem State.updTwin_fresh (f : TwinSt → TwinSt) : (s.updTwin f).fresh = s.fresh := rfl
@[simp] theorem State.updTwin_out (f : TwinSt → TwinSt) : (s.updTwin f).out = s.out := rfl
@[simp] theorem State.updTwin_host (f : TwinSt → TwinSt) : (s.updTwin f).host = s.host := rfl
@[simp] theorem State.updTwin_log (f : TwinSt → TwinSt) : (s.updTwin f).log = s.log := rfl
@[simp] theorem State.updTwin_params (f : TwinSt → TwinSt) : (s.updTwin f).params = s.params := rfl
@[simp] theorem State.updTwin_writes (f : TwinSt → TwinSt) : (s.updTwin f).writes = s.writes := rfl
@[simp] theorem State.updTwin_faults (f : TwinSt → TwinSt) : (s.updTwin f).faults = s.faults := rfl
@[simp] theorem State.updTwin_beams (f : TwinSt → TwinSt) : (s.updTwin f).beams = s.beams := rfl
@[simp] theorem State.updTwin_heads (f : TwinSt → TwinSt) : (s.updTwin f).heads = s.heads := rfl
@[simp] theorem State.updTwin_cns (f : TwinSt → TwinSt) : (s.updTwin f).cns = s.cns := rfl
@[simp] theorem State.updTwin_xy2 (f : TwinSt → TwinSt) : (s.updTwin f).xy2 = s.xy2 := rfl
@[simp] theorem State.updTwin_gal (f : TwinSt → TwinSt) : (s.updTwin f).gal = s.gal := rfl
@[simp] theorem State.updTwin_store (f : TwinSt → TwinSt) : (s.updTwin f).store = s.store := rfl
@[simp] theorem State.updTwin_time (f : TwinSt → TwinSt) : (s.updTwin f).time = s.time := rfl
@[simp] theorem State.updTwin_twin (f : TwinSt → TwinSt) : (s.updTwin f).twin = f s.twin := rfl
@[simp] theorem State.updTwin_mram (f : TwinSt → TwinSt) : (s.updTwin f).mram = s.mram := rfl
@[simp] theorem State.updTwin_power (f : TwinSt → TwinSt) : (s.updTwin f).power = s.power := rfl
@[simp] theorem State.updTwin_doc (f : TwinSt → TwinSt) : (s.updTwin f).doc = s.doc := rfl
@[simp] theorem State.updTwin_blks (f : TwinSt → TwinSt) : (s.updTwin f).blks = s.blks := rfl
@[simp] theorem State.updTwin_stops (f : TwinSt → TwinSt) : (s.updTwin f).stops = s.stops := rfl
@[simp] theorem State.updTwin_mot (f : TwinSt → TwinSt) : (s.updTwin f).mot = s.mot := rfl
@[simp] theorem State.updTwin_pipes (f : TwinSt → TwinSt) : (s.updTwin f).pipes = s.pipes := rfl
@[simp] theorem State.updTwin_lamp (f : TwinSt → TwinSt) : (s.updTwin f).lamp = s.lamp := rfl

/-! ## updMram -/

@[simp] theorem State.updMram_pending (f : MramSt → MramSt) : (s.updMram f).pending = s.pending := rfl
@[simp] theorem State.updMram_straps (f : MramSt → MramSt) : (s.updMram f).straps = s.straps := rfl
@[simp] theorem State.updMram_now (f : MramSt → MramSt) : (s.updMram f).now = s.now := rfl
@[simp] theorem State.updMram_tick (f : MramSt → MramSt) : (s.updMram f).tick = s.tick := rfl
@[simp] theorem State.updMram_micro (f : MramSt → MramSt) : (s.updMram f).micro = s.micro := rfl
@[simp] theorem State.updMram_frameNo (f : MramSt → MramSt) : (s.updMram f).frameNo = s.frameNo := rfl
@[simp] theorem State.updMram_frameAt (f : MramSt → MramSt) : (s.updMram f).frameAt = s.frameAt := rfl
@[simp] theorem State.updMram_fresh (f : MramSt → MramSt) : (s.updMram f).fresh = s.fresh := rfl
@[simp] theorem State.updMram_out (f : MramSt → MramSt) : (s.updMram f).out = s.out := rfl
@[simp] theorem State.updMram_host (f : MramSt → MramSt) : (s.updMram f).host = s.host := rfl
@[simp] theorem State.updMram_log (f : MramSt → MramSt) : (s.updMram f).log = s.log := rfl
@[simp] theorem State.updMram_params (f : MramSt → MramSt) : (s.updMram f).params = s.params := rfl
@[simp] theorem State.updMram_writes (f : MramSt → MramSt) : (s.updMram f).writes = s.writes := rfl
@[simp] theorem State.updMram_faults (f : MramSt → MramSt) : (s.updMram f).faults = s.faults := rfl
@[simp] theorem State.updMram_beams (f : MramSt → MramSt) : (s.updMram f).beams = s.beams := rfl
@[simp] theorem State.updMram_heads (f : MramSt → MramSt) : (s.updMram f).heads = s.heads := rfl
@[simp] theorem State.updMram_cns (f : MramSt → MramSt) : (s.updMram f).cns = s.cns := rfl
@[simp] theorem State.updMram_xy2 (f : MramSt → MramSt) : (s.updMram f).xy2 = s.xy2 := rfl
@[simp] theorem State.updMram_gal (f : MramSt → MramSt) : (s.updMram f).gal = s.gal := rfl
@[simp] theorem State.updMram_store (f : MramSt → MramSt) : (s.updMram f).store = s.store := rfl
@[simp] theorem State.updMram_time (f : MramSt → MramSt) : (s.updMram f).time = s.time := rfl
@[simp] theorem State.updMram_twin (f : MramSt → MramSt) : (s.updMram f).twin = s.twin := rfl
@[simp] theorem State.updMram_mram (f : MramSt → MramSt) : (s.updMram f).mram = f s.mram := rfl
@[simp] theorem State.updMram_power (f : MramSt → MramSt) : (s.updMram f).power = s.power := rfl
@[simp] theorem State.updMram_doc (f : MramSt → MramSt) : (s.updMram f).doc = s.doc := rfl
@[simp] theorem State.updMram_blks (f : MramSt → MramSt) : (s.updMram f).blks = s.blks := rfl
@[simp] theorem State.updMram_stops (f : MramSt → MramSt) : (s.updMram f).stops = s.stops := rfl
@[simp] theorem State.updMram_mot (f : MramSt → MramSt) : (s.updMram f).mot = s.mot := rfl
@[simp] theorem State.updMram_pipes (f : MramSt → MramSt) : (s.updMram f).pipes = s.pipes := rfl
@[simp] theorem State.updMram_lamp (f : MramSt → MramSt) : (s.updMram f).lamp = s.lamp := rfl

/-! ## updPower -/

@[simp] theorem State.updPower_pending (f : PowerSt → PowerSt) : (s.updPower f).pending = s.pending := rfl
@[simp] theorem State.updPower_straps (f : PowerSt → PowerSt) : (s.updPower f).straps = s.straps := rfl
@[simp] theorem State.updPower_now (f : PowerSt → PowerSt) : (s.updPower f).now = s.now := rfl
@[simp] theorem State.updPower_tick (f : PowerSt → PowerSt) : (s.updPower f).tick = s.tick := rfl
@[simp] theorem State.updPower_micro (f : PowerSt → PowerSt) : (s.updPower f).micro = s.micro := rfl
@[simp] theorem State.updPower_frameNo (f : PowerSt → PowerSt) : (s.updPower f).frameNo = s.frameNo := rfl
@[simp] theorem State.updPower_frameAt (f : PowerSt → PowerSt) : (s.updPower f).frameAt = s.frameAt := rfl
@[simp] theorem State.updPower_fresh (f : PowerSt → PowerSt) : (s.updPower f).fresh = s.fresh := rfl
@[simp] theorem State.updPower_out (f : PowerSt → PowerSt) : (s.updPower f).out = s.out := rfl
@[simp] theorem State.updPower_host (f : PowerSt → PowerSt) : (s.updPower f).host = s.host := rfl
@[simp] theorem State.updPower_log (f : PowerSt → PowerSt) : (s.updPower f).log = s.log := rfl
@[simp] theorem State.updPower_params (f : PowerSt → PowerSt) : (s.updPower f).params = s.params := rfl
@[simp] theorem State.updPower_writes (f : PowerSt → PowerSt) : (s.updPower f).writes = s.writes := rfl
@[simp] theorem State.updPower_faults (f : PowerSt → PowerSt) : (s.updPower f).faults = s.faults := rfl
@[simp] theorem State.updPower_beams (f : PowerSt → PowerSt) : (s.updPower f).beams = s.beams := rfl
@[simp] theorem State.updPower_heads (f : PowerSt → PowerSt) : (s.updPower f).heads = s.heads := rfl
@[simp] theorem State.updPower_cns (f : PowerSt → PowerSt) : (s.updPower f).cns = s.cns := rfl
@[simp] theorem State.updPower_xy2 (f : PowerSt → PowerSt) : (s.updPower f).xy2 = s.xy2 := rfl
@[simp] theorem State.updPower_gal (f : PowerSt → PowerSt) : (s.updPower f).gal = s.gal := rfl
@[simp] theorem State.updPower_store (f : PowerSt → PowerSt) : (s.updPower f).store = s.store := rfl
@[simp] theorem State.updPower_time (f : PowerSt → PowerSt) : (s.updPower f).time = s.time := rfl
@[simp] theorem State.updPower_twin (f : PowerSt → PowerSt) : (s.updPower f).twin = s.twin := rfl
@[simp] theorem State.updPower_mram (f : PowerSt → PowerSt) : (s.updPower f).mram = s.mram := rfl
@[simp] theorem State.updPower_power (f : PowerSt → PowerSt) : (s.updPower f).power = f s.power := rfl
@[simp] theorem State.updPower_doc (f : PowerSt → PowerSt) : (s.updPower f).doc = s.doc := rfl
@[simp] theorem State.updPower_blks (f : PowerSt → PowerSt) : (s.updPower f).blks = s.blks := rfl
@[simp] theorem State.updPower_stops (f : PowerSt → PowerSt) : (s.updPower f).stops = s.stops := rfl
@[simp] theorem State.updPower_mot (f : PowerSt → PowerSt) : (s.updPower f).mot = s.mot := rfl
@[simp] theorem State.updPower_pipes (f : PowerSt → PowerSt) : (s.updPower f).pipes = s.pipes := rfl
@[simp] theorem State.updPower_lamp (f : PowerSt → PowerSt) : (s.updPower f).lamp = s.lamp := rfl

/-! ## updDoc -/

@[simp] theorem State.updDoc_pending (f : DocSt → DocSt) : (s.updDoc f).pending = s.pending := rfl
@[simp] theorem State.updDoc_straps (f : DocSt → DocSt) : (s.updDoc f).straps = s.straps := rfl
@[simp] theorem State.updDoc_now (f : DocSt → DocSt) : (s.updDoc f).now = s.now := rfl
@[simp] theorem State.updDoc_tick (f : DocSt → DocSt) : (s.updDoc f).tick = s.tick := rfl
@[simp] theorem State.updDoc_micro (f : DocSt → DocSt) : (s.updDoc f).micro = s.micro := rfl
@[simp] theorem State.updDoc_frameNo (f : DocSt → DocSt) : (s.updDoc f).frameNo = s.frameNo := rfl
@[simp] theorem State.updDoc_frameAt (f : DocSt → DocSt) : (s.updDoc f).frameAt = s.frameAt := rfl
@[simp] theorem State.updDoc_fresh (f : DocSt → DocSt) : (s.updDoc f).fresh = s.fresh := rfl
@[simp] theorem State.updDoc_out (f : DocSt → DocSt) : (s.updDoc f).out = s.out := rfl
@[simp] theorem State.updDoc_host (f : DocSt → DocSt) : (s.updDoc f).host = s.host := rfl
@[simp] theorem State.updDoc_log (f : DocSt → DocSt) : (s.updDoc f).log = s.log := rfl
@[simp] theorem State.updDoc_params (f : DocSt → DocSt) : (s.updDoc f).params = s.params := rfl
@[simp] theorem State.updDoc_writes (f : DocSt → DocSt) : (s.updDoc f).writes = s.writes := rfl
@[simp] theorem State.updDoc_faults (f : DocSt → DocSt) : (s.updDoc f).faults = s.faults := rfl
@[simp] theorem State.updDoc_beams (f : DocSt → DocSt) : (s.updDoc f).beams = s.beams := rfl
@[simp] theorem State.updDoc_heads (f : DocSt → DocSt) : (s.updDoc f).heads = s.heads := rfl
@[simp] theorem State.updDoc_cns (f : DocSt → DocSt) : (s.updDoc f).cns = s.cns := rfl
@[simp] theorem State.updDoc_xy2 (f : DocSt → DocSt) : (s.updDoc f).xy2 = s.xy2 := rfl
@[simp] theorem State.updDoc_gal (f : DocSt → DocSt) : (s.updDoc f).gal = s.gal := rfl
@[simp] theorem State.updDoc_store (f : DocSt → DocSt) : (s.updDoc f).store = s.store := rfl
@[simp] theorem State.updDoc_time (f : DocSt → DocSt) : (s.updDoc f).time = s.time := rfl
@[simp] theorem State.updDoc_twin (f : DocSt → DocSt) : (s.updDoc f).twin = s.twin := rfl
@[simp] theorem State.updDoc_mram (f : DocSt → DocSt) : (s.updDoc f).mram = s.mram := rfl
@[simp] theorem State.updDoc_power (f : DocSt → DocSt) : (s.updDoc f).power = s.power := rfl
@[simp] theorem State.updDoc_doc (f : DocSt → DocSt) : (s.updDoc f).doc = f s.doc := rfl
@[simp] theorem State.updDoc_blks (f : DocSt → DocSt) : (s.updDoc f).blks = s.blks := rfl
@[simp] theorem State.updDoc_stops (f : DocSt → DocSt) : (s.updDoc f).stops = s.stops := rfl
@[simp] theorem State.updDoc_mot (f : DocSt → DocSt) : (s.updDoc f).mot = s.mot := rfl
@[simp] theorem State.updDoc_pipes (f : DocSt → DocSt) : (s.updDoc f).pipes = s.pipes := rfl
@[simp] theorem State.updDoc_lamp (f : DocSt → DocSt) : (s.updDoc f).lamp = s.lamp := rfl

/-! ## updMot -/

@[simp] theorem State.updMot_pending (f : MotSt → MotSt) : (s.updMot f).pending = s.pending := rfl
@[simp] theorem State.updMot_straps (f : MotSt → MotSt) : (s.updMot f).straps = s.straps := rfl
@[simp] theorem State.updMot_now (f : MotSt → MotSt) : (s.updMot f).now = s.now := rfl
@[simp] theorem State.updMot_tick (f : MotSt → MotSt) : (s.updMot f).tick = s.tick := rfl
@[simp] theorem State.updMot_micro (f : MotSt → MotSt) : (s.updMot f).micro = s.micro := rfl
@[simp] theorem State.updMot_frameNo (f : MotSt → MotSt) : (s.updMot f).frameNo = s.frameNo := rfl
@[simp] theorem State.updMot_frameAt (f : MotSt → MotSt) : (s.updMot f).frameAt = s.frameAt := rfl
@[simp] theorem State.updMot_fresh (f : MotSt → MotSt) : (s.updMot f).fresh = s.fresh := rfl
@[simp] theorem State.updMot_out (f : MotSt → MotSt) : (s.updMot f).out = s.out := rfl
@[simp] theorem State.updMot_host (f : MotSt → MotSt) : (s.updMot f).host = s.host := rfl
@[simp] theorem State.updMot_log (f : MotSt → MotSt) : (s.updMot f).log = s.log := rfl
@[simp] theorem State.updMot_params (f : MotSt → MotSt) : (s.updMot f).params = s.params := rfl
@[simp] theorem State.updMot_writes (f : MotSt → MotSt) : (s.updMot f).writes = s.writes := rfl
@[simp] theorem State.updMot_faults (f : MotSt → MotSt) : (s.updMot f).faults = s.faults := rfl
@[simp] theorem State.updMot_beams (f : MotSt → MotSt) : (s.updMot f).beams = s.beams := rfl
@[simp] theorem State.updMot_heads (f : MotSt → MotSt) : (s.updMot f).heads = s.heads := rfl
@[simp] theorem State.updMot_cns (f : MotSt → MotSt) : (s.updMot f).cns = s.cns := rfl
@[simp] theorem State.updMot_xy2 (f : MotSt → MotSt) : (s.updMot f).xy2 = s.xy2 := rfl
@[simp] theorem State.updMot_gal (f : MotSt → MotSt) : (s.updMot f).gal = s.gal := rfl
@[simp] theorem State.updMot_store (f : MotSt → MotSt) : (s.updMot f).store = s.store := rfl
@[simp] theorem State.updMot_time (f : MotSt → MotSt) : (s.updMot f).time = s.time := rfl
@[simp] theorem State.updMot_twin (f : MotSt → MotSt) : (s.updMot f).twin = s.twin := rfl
@[simp] theorem State.updMot_mram (f : MotSt → MotSt) : (s.updMot f).mram = s.mram := rfl
@[simp] theorem State.updMot_power (f : MotSt → MotSt) : (s.updMot f).power = s.power := rfl
@[simp] theorem State.updMot_doc (f : MotSt → MotSt) : (s.updMot f).doc = s.doc := rfl
@[simp] theorem State.updMot_blks (f : MotSt → MotSt) : (s.updMot f).blks = s.blks := rfl
@[simp] theorem State.updMot_stops (f : MotSt → MotSt) : (s.updMot f).stops = s.stops := rfl
@[simp] theorem State.updMot_mot (f : MotSt → MotSt) : (s.updMot f).mot = f s.mot := rfl
@[simp] theorem State.updMot_pipes (f : MotSt → MotSt) : (s.updMot f).pipes = s.pipes := rfl
@[simp] theorem State.updMot_lamp (f : MotSt → MotSt) : (s.updMot f).lamp = s.lamp := rfl

/-! ## updPort -/

@[simp] theorem State.updPort_pending (n : Nat) (f : FbkPort → FbkPort) : (s.updPort n f).pending = s.pending := rfl
@[simp] theorem State.updPort_straps (n : Nat) (f : FbkPort → FbkPort) : (s.updPort n f).straps = s.straps := rfl
@[simp] theorem State.updPort_now (n : Nat) (f : FbkPort → FbkPort) : (s.updPort n f).now = s.now := rfl
@[simp] theorem State.updPort_tick (n : Nat) (f : FbkPort → FbkPort) : (s.updPort n f).tick = s.tick := rfl
@[simp] theorem State.updPort_micro (n : Nat) (f : FbkPort → FbkPort) : (s.updPort n f).micro = s.micro := rfl
@[simp] theorem State.updPort_frameNo (n : Nat) (f : FbkPort → FbkPort) : (s.updPort n f).frameNo = s.frameNo := rfl
@[simp] theorem State.updPort_frameAt (n : Nat) (f : FbkPort → FbkPort) : (s.updPort n f).frameAt = s.frameAt := rfl
@[simp] theorem State.updPort_fresh (n : Nat) (f : FbkPort → FbkPort) : (s.updPort n f).fresh = s.fresh := rfl
@[simp] theorem State.updPort_out (n : Nat) (f : FbkPort → FbkPort) : (s.updPort n f).out = s.out := rfl
@[simp] theorem State.updPort_host (n : Nat) (f : FbkPort → FbkPort) : (s.updPort n f).host = s.host := rfl
@[simp] theorem State.updPort_log (n : Nat) (f : FbkPort → FbkPort) : (s.updPort n f).log = s.log := rfl
@[simp] theorem State.updPort_params (n : Nat) (f : FbkPort → FbkPort) : (s.updPort n f).params = s.params := rfl
@[simp] theorem State.updPort_writes (n : Nat) (f : FbkPort → FbkPort) : (s.updPort n f).writes = s.writes := rfl
@[simp] theorem State.updPort_faults (n : Nat) (f : FbkPort → FbkPort) : (s.updPort n f).faults = s.faults := rfl
@[simp] theorem State.updPort_beams (n : Nat) (f : FbkPort → FbkPort) : (s.updPort n f).beams = s.beams := rfl
@[simp] theorem State.updPort_heads (n : Nat) (f : FbkPort → FbkPort) : (s.updPort n f).heads = s.heads := rfl
@[simp] theorem State.updPort_cns (n : Nat) (f : FbkPort → FbkPort) : (s.updPort n f).cns = s.cns := rfl
@[simp] theorem State.updPort_xy2 (n : Nat) (f : FbkPort → FbkPort) : (s.updPort n f).xy2 = s.xy2 := rfl
@[simp] theorem State.updPort_gal (n : Nat) (f : FbkPort → FbkPort) : (s.updPort n f).gal = s.gal := rfl
@[simp] theorem State.updPort_store (n : Nat) (f : FbkPort → FbkPort) : (s.updPort n f).store = s.store := rfl
@[simp] theorem State.updPort_time (n : Nat) (f : FbkPort → FbkPort) : (s.updPort n f).time = s.time := rfl
@[simp] theorem State.updPort_twin (n : Nat) (f : FbkPort → FbkPort) : (s.updPort n f).twin = s.twin := rfl
@[simp] theorem State.updPort_mram (n : Nat) (f : FbkPort → FbkPort) : (s.updPort n f).mram = s.mram := rfl
@[simp] theorem State.updPort_power (n : Nat) (f : FbkPort → FbkPort) : (s.updPort n f).power = s.power := rfl
@[simp] theorem State.updPort_doc (n : Nat) (f : FbkPort → FbkPort) : (s.updPort n f).doc = s.doc := rfl
@[simp] theorem State.updPort_blks (n : Nat) (f : FbkPort → FbkPort) : (s.updPort n f).blks = s.blks := rfl
@[simp] theorem State.updPort_stops (n : Nat) (f : FbkPort → FbkPort) : (s.updPort n f).stops = s.stops := rfl
@[simp] theorem State.updPort_pipes (n : Nat) (f : FbkPort → FbkPort) : (s.updPort n f).pipes = s.pipes := rfl
@[simp] theorem State.updPort_lamp (n : Nat) (f : FbkPort → FbkPort) : (s.updPort n f).lamp = s.lamp := rfl

/-! ## updPrf -/

@[simp] theorem State.updPrf_pending (a : Nat) (f : PrfCell → PrfCell) : (s.updPrf a f).pending = s.pending := rfl
@[simp] theorem State.updPrf_straps (a : Nat) (f : PrfCell → PrfCell) : (s.updPrf a f).straps = s.straps := rfl
@[simp] theorem State.updPrf_now (a : Nat) (f : PrfCell → PrfCell) : (s.updPrf a f).now = s.now := rfl
@[simp] theorem State.updPrf_tick (a : Nat) (f : PrfCell → PrfCell) : (s.updPrf a f).tick = s.tick := rfl
@[simp] theorem State.updPrf_micro (a : Nat) (f : PrfCell → PrfCell) : (s.updPrf a f).micro = s.micro := rfl
@[simp] theorem State.updPrf_frameNo (a : Nat) (f : PrfCell → PrfCell) : (s.updPrf a f).frameNo = s.frameNo := rfl
@[simp] theorem State.updPrf_frameAt (a : Nat) (f : PrfCell → PrfCell) : (s.updPrf a f).frameAt = s.frameAt := rfl
@[simp] theorem State.updPrf_fresh (a : Nat) (f : PrfCell → PrfCell) : (s.updPrf a f).fresh = s.fresh := rfl
@[simp] theorem State.updPrf_out (a : Nat) (f : PrfCell → PrfCell) : (s.updPrf a f).out = s.out := rfl
@[simp] theorem State.updPrf_host (a : Nat) (f : PrfCell → PrfCell) : (s.updPrf a f).host = s.host := rfl
@[simp] theorem State.updPrf_log (a : Nat) (f : PrfCell → PrfCell) : (s.updPrf a f).log = s.log := rfl
@[simp] theorem State.updPrf_params (a : Nat) (f : PrfCell → PrfCell) : (s.updPrf a f).params = s.params := rfl
@[simp] theorem State.updPrf_writes (a : Nat) (f : PrfCell → PrfCell) : (s.updPrf a f).writes = s.writes := rfl
@[simp] theorem State.updPrf_faults (a : Nat) (f : PrfCell → PrfCell) : (s.updPrf a f).faults = s.faults := rfl
@[simp] theorem State.updPrf_beams (a : Nat) (f : PrfCell → PrfCell) : (s.updPrf a f).beams = s.beams := rfl
@[simp] theorem State.updPrf_heads (a : Nat) (f : PrfCell → PrfCell) : (s.updPrf a f).heads = s.heads := rfl
@[simp] theorem State.updPrf_cns (a : Nat) (f : PrfCell → PrfCell) : (s.updPrf a f).cns = s.cns := rfl
@[simp] theorem State.updPrf_xy2 (a : Nat) (f : PrfCell → PrfCell) : (s.updPrf a f).xy2 = s.xy2 := rfl
@[simp] theorem State.updPrf_gal (a : Nat) (f : PrfCell → PrfCell) : (s.updPrf a f).gal = s.gal := rfl
@[simp] theorem State.updPrf_store (a : Nat) (f : PrfCell → PrfCell) : (s.updPrf a f).store = s.store := rfl
@[simp] theorem State.updPrf_time (a : Nat) (f : PrfCell → PrfCell) : (s.updPrf a f).time = s.time := rfl
@[simp] theorem State.updPrf_twin (a : Nat) (f : PrfCell → PrfCell) : (s.updPrf a f).twin = s.twin := rfl
@[simp] theorem State.updPrf_mram (a : Nat) (f : PrfCell → PrfCell) : (s.updPrf a f).mram = s.mram := rfl
@[simp] theorem State.updPrf_power (a : Nat) (f : PrfCell → PrfCell) : (s.updPrf a f).power = s.power := rfl
@[simp] theorem State.updPrf_doc (a : Nat) (f : PrfCell → PrfCell) : (s.updPrf a f).doc = s.doc := rfl
@[simp] theorem State.updPrf_blks (a : Nat) (f : PrfCell → PrfCell) : (s.updPrf a f).blks = s.blks := rfl
@[simp] theorem State.updPrf_stops (a : Nat) (f : PrfCell → PrfCell) : (s.updPrf a f).stops = s.stops := rfl
@[simp] theorem State.updPrf_pipes (a : Nat) (f : PrfCell → PrfCell) : (s.updPrf a f).pipes = s.pipes := rfl
@[simp] theorem State.updPrf_lamp (a : Nat) (f : PrfCell → PrfCell) : (s.updPrf a f).lamp = s.lamp := rfl

/-! ## updPipe -/

@[simp] theorem State.updPipe_pending (p : Nat) (f : PipeSt → PipeSt) : (s.updPipe p f).pending = s.pending := rfl
@[simp] theorem State.updPipe_straps (p : Nat) (f : PipeSt → PipeSt) : (s.updPipe p f).straps = s.straps := rfl
@[simp] theorem State.updPipe_now (p : Nat) (f : PipeSt → PipeSt) : (s.updPipe p f).now = s.now := rfl
@[simp] theorem State.updPipe_tick (p : Nat) (f : PipeSt → PipeSt) : (s.updPipe p f).tick = s.tick := rfl
@[simp] theorem State.updPipe_micro (p : Nat) (f : PipeSt → PipeSt) : (s.updPipe p f).micro = s.micro := rfl
@[simp] theorem State.updPipe_frameNo (p : Nat) (f : PipeSt → PipeSt) : (s.updPipe p f).frameNo = s.frameNo := rfl
@[simp] theorem State.updPipe_frameAt (p : Nat) (f : PipeSt → PipeSt) : (s.updPipe p f).frameAt = s.frameAt := rfl
@[simp] theorem State.updPipe_fresh (p : Nat) (f : PipeSt → PipeSt) : (s.updPipe p f).fresh = s.fresh := rfl
@[simp] theorem State.updPipe_out (p : Nat) (f : PipeSt → PipeSt) : (s.updPipe p f).out = s.out := rfl
@[simp] theorem State.updPipe_host (p : Nat) (f : PipeSt → PipeSt) : (s.updPipe p f).host = s.host := rfl
@[simp] theorem State.updPipe_log (p : Nat) (f : PipeSt → PipeSt) : (s.updPipe p f).log = s.log := rfl
@[simp] theorem State.updPipe_params (p : Nat) (f : PipeSt → PipeSt) : (s.updPipe p f).params = s.params := rfl
@[simp] theorem State.updPipe_writes (p : Nat) (f : PipeSt → PipeSt) : (s.updPipe p f).writes = s.writes := rfl
@[simp] theorem State.updPipe_faults (p : Nat) (f : PipeSt → PipeSt) : (s.updPipe p f).faults = s.faults := rfl
@[simp] theorem State.updPipe_beams (p : Nat) (f : PipeSt → PipeSt) : (s.updPipe p f).beams = s.beams := rfl
@[simp] theorem State.updPipe_heads (p : Nat) (f : PipeSt → PipeSt) : (s.updPipe p f).heads = s.heads := rfl
@[simp] theorem State.updPipe_cns (p : Nat) (f : PipeSt → PipeSt) : (s.updPipe p f).cns = s.cns := rfl
@[simp] theorem State.updPipe_xy2 (p : Nat) (f : PipeSt → PipeSt) : (s.updPipe p f).xy2 = s.xy2 := rfl
@[simp] theorem State.updPipe_gal (p : Nat) (f : PipeSt → PipeSt) : (s.updPipe p f).gal = s.gal := rfl
@[simp] theorem State.updPipe_store (p : Nat) (f : PipeSt → PipeSt) : (s.updPipe p f).store = s.store := rfl
@[simp] theorem State.updPipe_time (p : Nat) (f : PipeSt → PipeSt) : (s.updPipe p f).time = s.time := rfl
@[simp] theorem State.updPipe_twin (p : Nat) (f : PipeSt → PipeSt) : (s.updPipe p f).twin = s.twin := rfl
@[simp] theorem State.updPipe_mram (p : Nat) (f : PipeSt → PipeSt) : (s.updPipe p f).mram = s.mram := rfl
@[simp] theorem State.updPipe_power (p : Nat) (f : PipeSt → PipeSt) : (s.updPipe p f).power = s.power := rfl
@[simp] theorem State.updPipe_doc (p : Nat) (f : PipeSt → PipeSt) : (s.updPipe p f).doc = s.doc := rfl
@[simp] theorem State.updPipe_blks (p : Nat) (f : PipeSt → PipeSt) : (s.updPipe p f).blks = s.blks := rfl
@[simp] theorem State.updPipe_stops (p : Nat) (f : PipeSt → PipeSt) : (s.updPipe p f).stops = s.stops := rfl
@[simp] theorem State.updPipe_mot (p : Nat) (f : PipeSt → PipeSt) : (s.updPipe p f).mot = s.mot := rfl
@[simp] theorem State.updPipe_pipes (p : Nat) (f : PipeSt → PipeSt) : (s.updPipe p f).pipes = s.pipes.modify p f := rfl
@[simp] theorem State.updPipe_lamp (p : Nat) (f : PipeSt → PipeSt) : (s.updPipe p f).lamp = s.lamp := rfl

/-! ## updLamp -/

@[simp] theorem State.updLamp_pending (f : LampSt → LampSt) : (s.updLamp f).pending = s.pending := rfl
@[simp] theorem State.updLamp_straps (f : LampSt → LampSt) : (s.updLamp f).straps = s.straps := rfl
@[simp] theorem State.updLamp_now (f : LampSt → LampSt) : (s.updLamp f).now = s.now := rfl
@[simp] theorem State.updLamp_tick (f : LampSt → LampSt) : (s.updLamp f).tick = s.tick := rfl
@[simp] theorem State.updLamp_micro (f : LampSt → LampSt) : (s.updLamp f).micro = s.micro := rfl
@[simp] theorem State.updLamp_frameNo (f : LampSt → LampSt) : (s.updLamp f).frameNo = s.frameNo := rfl
@[simp] theorem State.updLamp_frameAt (f : LampSt → LampSt) : (s.updLamp f).frameAt = s.frameAt := rfl
@[simp] theorem State.updLamp_fresh (f : LampSt → LampSt) : (s.updLamp f).fresh = s.fresh := rfl
@[simp] theorem State.updLamp_out (f : LampSt → LampSt) : (s.updLamp f).out = s.out := rfl
@[simp] theorem State.updLamp_host (f : LampSt → LampSt) : (s.updLamp f).host = s.host := rfl
@[simp] theorem State.updLamp_log (f : LampSt → LampSt) : (s.updLamp f).log = s.log := rfl
@[simp] theorem State.updLamp_params (f : LampSt → LampSt) : (s.updLamp f).params = s.params := rfl
@[simp] theorem State.updLamp_writes (f : LampSt → LampSt) : (s.updLamp f).writes = s.writes := rfl
@[simp] theorem State.updLamp_faults (f : LampSt → LampSt) : (s.updLamp f).faults = s.faults := rfl
@[simp] theorem State.updLamp_beams (f : LampSt → LampSt) : (s.updLamp f).beams = s.beams := rfl
@[simp] theorem State.updLamp_heads (f : LampSt → LampSt) : (s.updLamp f).heads = s.heads := rfl
@[simp] theorem State.updLamp_cns (f : LampSt → LampSt) : (s.updLamp f).cns = s.cns := rfl
@[simp] theorem State.updLamp_xy2 (f : LampSt → LampSt) : (s.updLamp f).xy2 = s.xy2 := rfl
@[simp] theorem State.updLamp_gal (f : LampSt → LampSt) : (s.updLamp f).gal = s.gal := rfl
@[simp] theorem State.updLamp_store (f : LampSt → LampSt) : (s.updLamp f).store = s.store := rfl
@[simp] theorem State.updLamp_time (f : LampSt → LampSt) : (s.updLamp f).time = s.time := rfl
@[simp] theorem State.updLamp_twin (f : LampSt → LampSt) : (s.updLamp f).twin = s.twin := rfl
@[simp] theorem State.updLamp_mram (f : LampSt → LampSt) : (s.updLamp f).mram = s.mram := rfl
@[simp] theorem State.updLamp_power (f : LampSt → LampSt) : (s.updLamp f).power = s.power := rfl
@[simp] theorem State.updLamp_doc (f : LampSt → LampSt) : (s.updLamp f).doc = s.doc := rfl
@[simp] theorem State.updLamp_blks (f : LampSt → LampSt) : (s.updLamp f).blks = s.blks := rfl
@[simp] theorem State.updLamp_stops (f : LampSt → LampSt) : (s.updLamp f).stops = s.stops := rfl
@[simp] theorem State.updLamp_mot (f : LampSt → LampSt) : (s.updLamp f).mot = s.mot := rfl
@[simp] theorem State.updLamp_pipes (f : LampSt → LampSt) : (s.updLamp f).pipes = s.pipes := rfl
@[simp] theorem State.updLamp_lamp (f : LampSt → LampSt) : (s.updLamp f).lamp = f s.lamp := rfl

/-! ## faultOff -/

@[simp] theorem State.faultOff_pending (p c : Nat) : (s.faultOff p c).pending = s.pending := rfl
@[simp] theorem State.faultOff_straps (p c : Nat) : (s.faultOff p c).straps = s.straps := rfl
@[simp] theorem State.faultOff_now (p c : Nat) : (s.faultOff p c).now = s.now := rfl
@[simp] theorem State.faultOff_tick (p c : Nat) : (s.faultOff p c).tick = s.tick := rfl
@[simp] theorem State.faultOff_micro (p c : Nat) : (s.faultOff p c).micro = s.micro := rfl
@[simp] theorem State.faultOff_frameNo (p c : Nat) : (s.faultOff p c).frameNo = s.frameNo := rfl
@[simp] theorem State.faultOff_frameAt (p c : Nat) : (s.faultOff p c).frameAt = s.frameAt := rfl
@[simp] theorem State.faultOff_fresh (p c : Nat) : (s.faultOff p c).fresh = s.fresh := rfl
@[simp] theorem State.faultOff_out (p c : Nat) : (s.faultOff p c).out = s.out := rfl
@[simp] theorem State.faultOff_host (p c : Nat) : (s.faultOff p c).host = s.host := rfl
@[simp] theorem State.faultOff_log (p c : Nat) : (s.faultOff p c).log = s.log := rfl
@[simp] theorem State.faultOff_params (p c : Nat) : (s.faultOff p c).params = s.params := rfl
@[simp] theorem State.faultOff_writes (p c : Nat) : (s.faultOff p c).writes = s.writes := rfl
@[simp] theorem State.faultOff_faults (p c : Nat) : (s.faultOff p c).faults = s.faults.filter fun f => !(f.src = p && f.cls = c) := rfl
@[simp] theorem State.faultOff_beams (p c : Nat) : (s.faultOff p c).beams = s.beams := rfl
@[simp] theorem State.faultOff_heads (p c : Nat) : (s.faultOff p c).heads = s.heads := rfl
@[simp] theorem State.faultOff_cns (p c : Nat) : (s.faultOff p c).cns = s.cns := rfl
@[simp] theorem State.faultOff_xy2 (p c : Nat) : (s.faultOff p c).xy2 = s.xy2 := rfl
@[simp] theorem State.faultOff_gal (p c : Nat) : (s.faultOff p c).gal = s.gal := rfl
@[simp] theorem State.faultOff_store (p c : Nat) : (s.faultOff p c).store = s.store := rfl
@[simp] theorem State.faultOff_time (p c : Nat) : (s.faultOff p c).time = s.time := rfl
@[simp] theorem State.faultOff_twin (p c : Nat) : (s.faultOff p c).twin = s.twin := rfl
@[simp] theorem State.faultOff_mram (p c : Nat) : (s.faultOff p c).mram = s.mram := rfl
@[simp] theorem State.faultOff_power (p c : Nat) : (s.faultOff p c).power = s.power := rfl
@[simp] theorem State.faultOff_doc (p c : Nat) : (s.faultOff p c).doc = s.doc := rfl
@[simp] theorem State.faultOff_blks (p c : Nat) : (s.faultOff p c).blks = s.blks := rfl
@[simp] theorem State.faultOff_stops (p c : Nat) : (s.faultOff p c).stops = s.stops := rfl
@[simp] theorem State.faultOff_mot (p c : Nat) : (s.faultOff p c).mot = s.mot := rfl
@[simp] theorem State.faultOff_pipes (p c : Nat) : (s.faultOff p c).pipes = s.pipes := rfl
@[simp] theorem State.faultOff_lamp (p c : Nat) : (s.faultOff p c).lamp = s.lamp := rfl

/-! ## memWrite -/

@[simp] theorem State.memWrite_pending (a o : Nat) (d : List Byte) : (s.memWrite a o d).pending = s.pending := rfl
@[simp] theorem State.memWrite_straps (a o : Nat) (d : List Byte) : (s.memWrite a o d).straps = s.straps := rfl
@[simp] theorem State.memWrite_now (a o : Nat) (d : List Byte) : (s.memWrite a o d).now = s.now := rfl
@[simp] theorem State.memWrite_tick (a o : Nat) (d : List Byte) : (s.memWrite a o d).tick = s.tick := rfl
@[simp] theorem State.memWrite_micro (a o : Nat) (d : List Byte) : (s.memWrite a o d).micro = s.micro := rfl
@[simp] theorem State.memWrite_frameNo (a o : Nat) (d : List Byte) : (s.memWrite a o d).frameNo = s.frameNo := rfl
@[simp] theorem State.memWrite_frameAt (a o : Nat) (d : List Byte) : (s.memWrite a o d).frameAt = s.frameAt := rfl
@[simp] theorem State.memWrite_fresh (a o : Nat) (d : List Byte) : (s.memWrite a o d).fresh = s.fresh := rfl
@[simp] theorem State.memWrite_out (a o : Nat) (d : List Byte) : (s.memWrite a o d).out = s.out := rfl
@[simp] theorem State.memWrite_host (a o : Nat) (d : List Byte) : (s.memWrite a o d).host = s.host := rfl
@[simp] theorem State.memWrite_log (a o : Nat) (d : List Byte) : (s.memWrite a o d).log = s.log := rfl
@[simp] theorem State.memWrite_params (a o : Nat) (d : List Byte) : (s.memWrite a o d).params = s.params := rfl
@[simp] theorem State.memWrite_writes (a o : Nat) (d : List Byte) : (s.memWrite a o d).writes = s.writes := rfl
@[simp] theorem State.memWrite_faults (a o : Nat) (d : List Byte) : (s.memWrite a o d).faults = s.faults := rfl
@[simp] theorem State.memWrite_beams (a o : Nat) (d : List Byte) : (s.memWrite a o d).beams = s.beams := rfl
@[simp] theorem State.memWrite_heads (a o : Nat) (d : List Byte) : (s.memWrite a o d).heads = s.heads := rfl
@[simp] theorem State.memWrite_cns (a o : Nat) (d : List Byte) : (s.memWrite a o d).cns = s.cns := rfl
@[simp] theorem State.memWrite_xy2 (a o : Nat) (d : List Byte) : (s.memWrite a o d).xy2 = s.xy2 := rfl
@[simp] theorem State.memWrite_gal (a o : Nat) (d : List Byte) : (s.memWrite a o d).gal = s.gal := rfl
@[simp] theorem State.memWrite_time (a o : Nat) (d : List Byte) : (s.memWrite a o d).time = s.time := rfl
@[simp] theorem State.memWrite_twin (a o : Nat) (d : List Byte) : (s.memWrite a o d).twin = s.twin := rfl
@[simp] theorem State.memWrite_mram (a o : Nat) (d : List Byte) : (s.memWrite a o d).mram = s.mram := rfl
@[simp] theorem State.memWrite_power (a o : Nat) (d : List Byte) : (s.memWrite a o d).power = s.power := rfl
@[simp] theorem State.memWrite_doc (a o : Nat) (d : List Byte) : (s.memWrite a o d).doc = s.doc := rfl
@[simp] theorem State.memWrite_blks (a o : Nat) (d : List Byte) : (s.memWrite a o d).blks = s.blks := rfl
@[simp] theorem State.memWrite_stops (a o : Nat) (d : List Byte) : (s.memWrite a o d).stops = s.stops := rfl
@[simp] theorem State.memWrite_mot (a o : Nat) (d : List Byte) : (s.memWrite a o d).mot = s.mot := rfl
@[simp] theorem State.memWrite_pipes (a o : Nat) (d : List Byte) : (s.memWrite a o d).pipes = s.pipes := rfl
@[simp] theorem State.memWrite_lamp (a o : Nat) (d : List Byte) : (s.memWrite a o d).lamp = s.lamp := rfl

/-! ## memDrop -/

@[simp] theorem State.memDrop_pending (a o n : Nat) : (s.memDrop a o n).pending = s.pending := rfl
@[simp] theorem State.memDrop_straps (a o n : Nat) : (s.memDrop a o n).straps = s.straps := rfl
@[simp] theorem State.memDrop_now (a o n : Nat) : (s.memDrop a o n).now = s.now := rfl
@[simp] theorem State.memDrop_tick (a o n : Nat) : (s.memDrop a o n).tick = s.tick := rfl
@[simp] theorem State.memDrop_micro (a o n : Nat) : (s.memDrop a o n).micro = s.micro := rfl
@[simp] theorem State.memDrop_frameNo (a o n : Nat) : (s.memDrop a o n).frameNo = s.frameNo := rfl
@[simp] theorem State.memDrop_frameAt (a o n : Nat) : (s.memDrop a o n).frameAt = s.frameAt := rfl
@[simp] theorem State.memDrop_fresh (a o n : Nat) : (s.memDrop a o n).fresh = s.fresh := rfl
@[simp] theorem State.memDrop_out (a o n : Nat) : (s.memDrop a o n).out = s.out := rfl
@[simp] theorem State.memDrop_host (a o n : Nat) : (s.memDrop a o n).host = s.host := rfl
@[simp] theorem State.memDrop_log (a o n : Nat) : (s.memDrop a o n).log = s.log := rfl
@[simp] theorem State.memDrop_params (a o n : Nat) : (s.memDrop a o n).params = s.params := rfl
@[simp] theorem State.memDrop_writes (a o n : Nat) : (s.memDrop a o n).writes = s.writes := rfl
@[simp] theorem State.memDrop_faults (a o n : Nat) : (s.memDrop a o n).faults = s.faults := rfl
@[simp] theorem State.memDrop_beams (a o n : Nat) : (s.memDrop a o n).beams = s.beams := rfl
@[simp] theorem State.memDrop_heads (a o n : Nat) : (s.memDrop a o n).heads = s.heads := rfl
@[simp] theorem State.memDrop_cns (a o n : Nat) : (s.memDrop a o n).cns = s.cns := rfl
@[simp] theorem State.memDrop_xy2 (a o n : Nat) : (s.memDrop a o n).xy2 = s.xy2 := rfl
@[simp] theorem State.memDrop_gal (a o n : Nat) : (s.memDrop a o n).gal = s.gal := rfl
@[simp] theorem State.memDrop_time (a o n : Nat) : (s.memDrop a o n).time = s.time := rfl
@[simp] theorem State.memDrop_twin (a o n : Nat) : (s.memDrop a o n).twin = s.twin := rfl
@[simp] theorem State.memDrop_mram (a o n : Nat) : (s.memDrop a o n).mram = s.mram := rfl
@[simp] theorem State.memDrop_power (a o n : Nat) : (s.memDrop a o n).power = s.power := rfl
@[simp] theorem State.memDrop_doc (a o n : Nat) : (s.memDrop a o n).doc = s.doc := rfl
@[simp] theorem State.memDrop_blks (a o n : Nat) : (s.memDrop a o n).blks = s.blks := rfl
@[simp] theorem State.memDrop_stops (a o n : Nat) : (s.memDrop a o n).stops = s.stops := rfl
@[simp] theorem State.memDrop_mot (a o n : Nat) : (s.memDrop a o n).mot = s.mot := rfl
@[simp] theorem State.memDrop_pipes (a o n : Nat) : (s.memDrop a o n).pipes = s.pipes := rfl
@[simp] theorem State.memDrop_lamp (a o n : Nat) : (s.memDrop a o n).lamp = s.lamp := rfl

/-! ## releaseAcc -/

@[simp] theorem State.releaseAcc_pending (a : Nat) : (s.releaseAcc a).pending = s.pending := rfl
@[simp] theorem State.releaseAcc_straps (a : Nat) : (s.releaseAcc a).straps = s.straps := rfl
@[simp] theorem State.releaseAcc_now (a : Nat) : (s.releaseAcc a).now = s.now := rfl
@[simp] theorem State.releaseAcc_tick (a : Nat) : (s.releaseAcc a).tick = s.tick := rfl
@[simp] theorem State.releaseAcc_micro (a : Nat) : (s.releaseAcc a).micro = s.micro := rfl
@[simp] theorem State.releaseAcc_frameNo (a : Nat) : (s.releaseAcc a).frameNo = s.frameNo := rfl
@[simp] theorem State.releaseAcc_frameAt (a : Nat) : (s.releaseAcc a).frameAt = s.frameAt := rfl
@[simp] theorem State.releaseAcc_fresh (a : Nat) : (s.releaseAcc a).fresh = s.fresh := rfl
@[simp] theorem State.releaseAcc_out (a : Nat) : (s.releaseAcc a).out = s.out := rfl
@[simp] theorem State.releaseAcc_host (a : Nat) : (s.releaseAcc a).host = s.host := rfl
@[simp] theorem State.releaseAcc_log (a : Nat) : (s.releaseAcc a).log = s.log := rfl
@[simp] theorem State.releaseAcc_params (a : Nat) : (s.releaseAcc a).params = s.params := rfl
@[simp] theorem State.releaseAcc_writes (a : Nat) : (s.releaseAcc a).writes = s.writes := rfl
@[simp] theorem State.releaseAcc_faults (a : Nat) : (s.releaseAcc a).faults = s.faults := rfl
@[simp] theorem State.releaseAcc_beams (a : Nat) : (s.releaseAcc a).beams = s.beams := rfl
@[simp] theorem State.releaseAcc_heads (a : Nat) : (s.releaseAcc a).heads = s.heads := rfl
@[simp] theorem State.releaseAcc_cns (a : Nat) : (s.releaseAcc a).cns = s.cns := rfl
@[simp] theorem State.releaseAcc_xy2 (a : Nat) : (s.releaseAcc a).xy2 = s.xy2 := rfl
@[simp] theorem State.releaseAcc_gal (a : Nat) : (s.releaseAcc a).gal = s.gal := rfl
@[simp] theorem State.releaseAcc_time (a : Nat) : (s.releaseAcc a).time = s.time := rfl
@[simp] theorem State.releaseAcc_twin (a : Nat) : (s.releaseAcc a).twin = s.twin := rfl
@[simp] theorem State.releaseAcc_mram (a : Nat) : (s.releaseAcc a).mram = s.mram := rfl
@[simp] theorem State.releaseAcc_power (a : Nat) : (s.releaseAcc a).power = s.power := rfl
@[simp] theorem State.releaseAcc_doc (a : Nat) : (s.releaseAcc a).doc = s.doc := rfl
@[simp] theorem State.releaseAcc_blks (a : Nat) : (s.releaseAcc a).blks = s.blks := rfl
@[simp] theorem State.releaseAcc_stops (a : Nat) : (s.releaseAcc a).stops = s.stops := rfl
@[simp] theorem State.releaseAcc_mot (a : Nat) : (s.releaseAcc a).mot = s.mot := rfl
@[simp] theorem State.releaseAcc_pipes (a : Nat) : (s.releaseAcc a).pipes = s.pipes := rfl
@[simp] theorem State.releaseAcc_lamp (a : Nat) : (s.releaseAcc a).lamp = s.lamp := rfl

end Sys2Proof.Machine
end

