-- ==== Sys2Proof/Laws/Records.lean ====
section
/-!
SUPPORT. What writing a record can do: the log, the outputs, the store and two counters; nothing else of the state.
-/
namespace Sys2Proof.Machine

open Sys2Proof

/-- t differs from s in the log, the outputs, the store and the log's counters only. -/
def Logged (s t : State) : Prop :=
  t = { s with log := t.log, out := t.out, store := t.store, params := t.params } ∧
    ∀ p, p ≠ P.LOG_OVERWRITTEN → p ≠ P.LOG_MERGES → t.reg p = s.reg p

theorem Logged.refl (s : State) : Logged s s := ⟨rfl, fun _ _ _ => rfl⟩

theorem Logged.trans {s t u : State} (h : Logged s t) (k : Logged t u) : Logged s u := by
  refine ⟨?_, fun p h1 h2 => (k.2 p h1 h2).trans (h.2 p h1 h2)⟩
  rw [k.1, h.1]

theorem Logged.put (s : State) (o : Output) : Logged s (s.put o) := ⟨rfl, fun _ _ _ => rfl⟩

theorem Logged.withLog (s : State) (l : LogSt) : Logged s { s with log := l } := ⟨rfl, fun _ _ _ => rfl⟩

theorem Logged.updStore (s : State) (f : StoreSt → StoreSt) : Logged s (s.updStore f) := ⟨rfl, fun _ _ _ => rfl⟩

theorem Logged.bump (s : State) (p : Nat) (h : p = P.LOG_OVERWRITTEN ∨ p = P.LOG_MERGES) : Logged s (s.bump p 0) := by
  refine ⟨rfl, fun q h1 h2 => State.reg_setReg_other s _ q _ ?_⟩
  rcases h with rfl | rfl <;> simpa using ‹_›

theorem Logged.logPlace (s : State) (r : Rec) : Logged s (s.logPlace r) := by
  unfold State.logPlace
  dsimp only
  split
  · exact (Logged.withLog s _).trans (Logged.bump _ _ (.inl rfl))
  · exact Logged.withLog s _

theorem Logged.updAcc (s : State) (acc : Nat) (f : Accn → Accn) : Logged s (s.updAcc acc f) := by
  unfold State.updAcc
  split
  · exact Logged.updStore s _
  · exact Logged.refl s

theorem Logged.openSegment (s : State) : Logged s s.openSegment := by
  unfold State.openSegment
  dsimp only
  split
  · exact Logged.refl s
  · exact ((Logged.updStore s _).trans (Logged.updAcc _ _ _)).trans (Logged.withLog _ _)

theorem Logged.catStage (s : State) (r : Rec) : Logged s (s.catStage r) := by
  unfold State.catStage
  have h : Logged s (if s.log.openSeg.isNone then s.openSegment else s) := by
    split
    · exact Logged.openSegment s
    · exact Logged.refl s
  generalize (if s.log.openSeg.isNone then s.openSegment else s) = a at h
  refine h.trans ?_
  dsimp only
  cases a.log.openSeg with
  | none => exact Logged.withLog _ _
  | some g => exact Logged.withLog _ _

theorem Logged.mirrorOut (s : State) (r : Rec) : Logged s (s.mirrorOut r) := by
  unfold State.mirrorOut
  split
  · exact Logged.put s _
  · exact Logged.refl s

/-- Writing a record. -/
theorem Logged.recordAt (s : State) (src code : Nat) (p : List Byte) (ts : TS) : Logged s (s.recordAt src code p ts) := by
  unfold State.recordAt
  dsimp only
  split
  · exact ((Logged.withLog s _).trans (Logged.bump _ _ (.inr rfl))).trans (Logged.mirrorOut _ _)
  · split
    · exact (((Logged.withLog s _).trans (Logged.logPlace _ _)).trans (Logged.mirrorOut _ _)).trans (Logged.catStage _ _)
    · exact ((Logged.withLog s _).trans (Logged.logPlace _ _)).trans (Logged.mirrorOut _ _)

/-- A record at the event's own stamp, and one at least 1 ns after its cause. -/
theorem Logged.record (s : State) (src code : Nat) (p : List Byte) : Logged s (s.record src code p) := Logged.recordAt ..
theorem Logged.recordC (s : State) (src code : Nat) (p : List Byte) : Logged s (s.recordC src code p) := Logged.recordAt ..

theorem Logged.pending {s t : State} (h : Logged s t) : t.pending = s.pending := by rw [h.1]
theorem Logged.straps {s t : State} (h : Logged s t) : t.straps = s.straps := by rw [h.1]
theorem Logged.now {s t : State} (h : Logged s t) : t.now = s.now := by rw [h.1]
theorem Logged.tick {s t : State} (h : Logged s t) : t.tick = s.tick := by rw [h.1]
theorem Logged.micro {s t : State} (h : Logged s t) : t.micro = s.micro := by rw [h.1]
theorem Logged.frameNo {s t : State} (h : Logged s t) : t.frameNo = s.frameNo := by rw [h.1]
theorem Logged.fresh {s t : State} (h : Logged s t) : t.fresh = s.fresh := by rw [h.1]
theorem Logged.host {s t : State} (h : Logged s t) : t.host = s.host := by rw [h.1]
theorem Logged.writes {s t : State} (h : Logged s t) : t.writes = s.writes := by rw [h.1]
theorem Logged.faults {s t : State} (h : Logged s t) : t.faults = s.faults := by rw [h.1]
theorem Logged.beams {s t : State} (h : Logged s t) : t.beams = s.beams := by rw [h.1]
theorem Logged.heads {s t : State} (h : Logged s t) : t.heads = s.heads := by rw [h.1]
theorem Logged.cns {s t : State} (h : Logged s t) : t.cns = s.cns := by rw [h.1]
theorem Logged.xy2 {s t : State} (h : Logged s t) : t.xy2 = s.xy2 := by rw [h.1]
theorem Logged.gal {s t : State} (h : Logged s t) : t.gal = s.gal := by rw [h.1]
theorem Logged.time {s t : State} (h : Logged s t) : t.time = s.time := by rw [h.1]
theorem Logged.twin {s t : State} (h : Logged s t) : t.twin = s.twin := by rw [h.1]
theorem Logged.mram {s t : State} (h : Logged s t) : t.mram = s.mram := by rw [h.1]
theorem Logged.power {s t : State} (h : Logged s t) : t.power = s.power := by rw [h.1]
theorem Logged.doc {s t : State} (h : Logged s t) : t.doc = s.doc := by rw [h.1]
theorem Logged.blks {s t : State} (h : Logged s t) : t.blks = s.blks := by rw [h.1]
theorem Logged.stops {s t : State} (h : Logged s t) : t.stops = s.stops := by rw [h.1]
theorem Logged.mot {s t : State} (h : Logged s t) : t.mot = s.mot := by rw [h.1]
theorem Logged.pipes {s t : State} (h : Logged s t) : t.pipes = s.pipes := by rw [h.1]
theorem Logged.lamp {s t : State} (h : Logged s t) : t.lamp = s.lamp := by rw [h.1]

@[simp] theorem State.recordAt_pending (s : State) (src code : Nat) (p : List Byte) (ts : TS) : (s.recordAt src code p ts).pending = s.pending := (Logged.recordAt ..).pending
@[simp] theorem State.recordAt_straps (s : State) (src code : Nat) (p : List Byte) (ts : TS) : (s.recordAt src code p ts).straps = s.straps := (Logged.recordAt ..).straps
@[simp] theorem State.recordAt_now (s : State) (src code : Nat) (p : List Byte) (ts : TS) : (s.recordAt src code p ts).now = s.now := (Logged.recordAt ..).now
@[simp] theorem State.recordAt_tick (s : State) (src code : Nat) (p : List Byte) (ts : TS) : (s.recordAt src code p ts).tick = s.tick := (Logged.recordAt ..).tick
@[simp] theorem State.recordAt_micro (s : State) (src code : Nat) (p : List Byte) (ts : TS) : (s.recordAt src code p ts).micro = s.micro := (Logged.recordAt ..).micro
@[simp] theorem State.recordAt_frameNo (s : State) (src code : Nat) (p : List Byte) (ts : TS) : (s.recordAt src code p ts).frameNo = s.frameNo := (Logged.recordAt ..).frameNo
@[simp] theorem State.recordAt_fresh (s : State) (src code : Nat) (p : List Byte) (ts : TS) : (s.recordAt src code p ts).fresh = s.fresh := (Logged.recordAt ..).fresh
@[simp] theorem State.recordAt_host (s : State) (src code : Nat) (p : List Byte) (ts : TS) : (s.recordAt src code p ts).host = s.host := (Logged.recordAt ..).host
@[simp] theorem State.recordAt_writes (s : State) (src code : Nat) (p : List Byte) (ts : TS) : (s.recordAt src code p ts).writes = s.writes := (Logged.recordAt ..).writes
@[simp] theorem State.recordAt_faults (s : State) (src code : Nat) (p : List Byte) (ts : TS) : (s.recordAt src code p ts).faults = s.faults := (Logged.recordAt ..).faults
@[simp] theorem State.recordAt_beams (s : State) (src code : Nat) (p : List Byte) (ts : TS) : (s.recordAt src code p ts).beams = s.beams := (Logged.recordAt ..).beams
@[simp] theorem State.recordAt_heads (s : State) (src code : Nat) (p : List Byte) (ts : TS) : (s.recordAt src code p ts).heads = s.heads := (Logged.recordAt ..).heads
@[simp] theorem State.recordAt_cns (s : State) (src code : Nat) (p : List Byte) (ts : TS) : (s.recordAt src code p ts).cns = s.cns := (Logged.recordAt ..).cns
@[simp] theorem State.recordAt_xy2 (s : State) (src code : Nat) (p : List Byte) (ts : TS) : (s.recordAt src code p ts).xy2 = s.xy2 := (Logged.recordAt ..).xy2
@[simp] theorem State.recordAt_gal (s : State) (src code : Nat) (p : List Byte) (ts : TS) : (s.recordAt src code p ts).gal = s.gal := (Logged.recordAt ..).gal
@[simp] theorem State.recordAt_time (s : State) (src code : Nat) (p : List Byte) (ts : TS) : (s.recordAt src code p ts).time = s.time := (Logged.recordAt ..).time
@[simp] theorem State.recordAt_twin (s : State) (src code : Nat) (p : List Byte) (ts : TS) : (s.recordAt src code p ts).twin = s.twin := (Logged.recordAt ..).twin
@[simp] theorem State.recordAt_mram (s : State) (src code : Nat) (p : List Byte) (ts : TS) : (s.recordAt src code p ts).mram = s.mram := (Logged.recordAt ..).mram
@[simp] theorem State.recordAt_power (s : State) (src code : Nat) (p : List Byte) (ts : TS) : (s.recordAt src code p ts).power = s.power := (Logged.recordAt ..).power
@[simp] theorem State.recordAt_doc (s : State) (src code : Nat) (p : List Byte) (ts : TS) : (s.recordAt src code p ts).doc = s.doc := (Logged.recordAt ..).doc
@[simp] theorem State.recordAt_blks (s : State) (src code : Nat) (p : List Byte) (ts : TS) : (s.recordAt src code p ts).blks = s.blks := (Logged.recordAt ..).blks
@[simp] theorem State.recordAt_stops (s : State) (src code : Nat) (p : List Byte) (ts : TS) : (s.recordAt src code p ts).stops = s.stops := (Logged.recordAt ..).stops
@[simp] theorem State.recordAt_mot (s : State) (src code : Nat) (p : List Byte) (ts : TS) : (s.recordAt src code p ts).mot = s.mot := (Logged.recordAt ..).mot
@[simp] theorem State.recordAt_pipes (s : State) (src code : Nat) (p : List Byte) (ts : TS) : (s.recordAt src code p ts).pipes = s.pipes := (Logged.recordAt ..).pipes
@[simp] theorem State.recordAt_lamp (s : State) (src code : Nat) (p : List Byte) (ts : TS) : (s.recordAt src code p ts).lamp = s.lamp := (Logged.recordAt ..).lamp
@[simp] theorem State.record_pending (s : State) (src code : Nat) (p : List Byte) : (s.record src code p).pending = s.pending := (Logged.record ..).pending
@[simp] theorem State.record_straps (s : State) (src code : Nat) (p : List Byte) : (s.record src code p).straps = s.straps := (Logged.record ..).straps
@[simp] theorem State.record_now (s : State) (src code : Nat) (p : List Byte) : (s.record src code p).now = s.now := (Logged.record ..).now
@[simp] theorem State.record_tick (s : State) (src code : Nat) (p : List Byte) : (s.record src code p).tick = s.tick := (Logged.record ..).tick
@[simp] theorem State.record_micro (s : State) (src code : Nat) (p : List Byte) : (s.record src code p).micro = s.micro := (Logged.record ..).micro
@[simp] theorem State.record_frameNo (s : State) (src code : Nat) (p : List Byte) : (s.record src code p).frameNo = s.frameNo := (Logged.record ..).frameNo
@[simp] theorem State.record_fresh (s : State) (src code : Nat) (p : List Byte) : (s.record src code p).fresh = s.fresh := (Logged.record ..).fresh
@[simp] theorem State.record_host (s : State) (src code : Nat) (p : List Byte) : (s.record src code p).host = s.host := (Logged.record ..).host
@[simp] theorem State.record_writes (s : State) (src code : Nat) (p : List Byte) : (s.record src code p).writes = s.writes := (Logged.record ..).writes
@[simp] theorem State.record_faults (s : State) (src code : Nat) (p : List Byte) : (s.record src code p).faults = s.faults := (Logged.record ..).faults
@[simp] theorem State.record_beams (s : State) (src code : Nat) (p : List Byte) : (s.record src code p).beams = s.beams := (Logged.record ..).beams
@[simp] theorem State.record_heads (s : State) (src code : Nat) (p : List Byte) : (s.record src code p).heads = s.heads := (Logged.record ..).heads
@[simp] theorem State.record_cns (s : State) (src code : Nat) (p : List Byte) : (s.record src code p).cns = s.cns := (Logged.record ..).cns
@[simp] theorem State.record_xy2 (s : State) (src code : Nat) (p : List Byte) : (s.record src code p).xy2 = s.xy2 := (Logged.record ..).xy2
@[simp] theorem State.record_gal (s : State) (src code : Nat) (p : List Byte) : (s.record src code p).gal = s.gal := (Logged.record ..).gal
@[simp] theorem State.record_time (s : State) (src code : Nat) (p : List Byte) : (s.record src code p).time = s.time := (Logged.record ..).time
@[simp] theorem State.record_twin (s : State) (src code : Nat) (p : List Byte) : (s.record src code p).twin = s.twin := (Logged.record ..).twin
@[simp] theorem State.record_mram (s : State) (src code : Nat) (p : List Byte) : (s.record src code p).mram = s.mram := (Logged.record ..).mram
@[simp] theorem State.record_power (s : State) (src code : Nat) (p : List Byte) : (s.record src code p).power = s.power := (Logged.record ..).power
@[simp] theorem State.record_doc (s : State) (src code : Nat) (p : List Byte) : (s.record src code p).doc = s.doc := (Logged.record ..).doc
@[simp] theorem State.record_blks (s : State) (src code : Nat) (p : List Byte) : (s.record src code p).blks = s.blks := (Logged.record ..).blks
@[simp] theorem State.record_stops (s : State) (src code : Nat) (p : List Byte) : (s.record src code p).stops = s.stops := (Logged.record ..).stops
@[simp] theorem State.record_mot (s : State) (src code : Nat) (p : List Byte) : (s.record src code p).mot = s.mot := (Logged.record ..).mot
@[simp] theorem State.record_pipes (s : State) (src code : Nat) (p : List Byte) : (s.record src code p).pipes = s.pipes := (Logged.record ..).pipes
@[simp] theorem State.record_lamp (s : State) (src code : Nat) (p : List Byte) : (s.record src code p).lamp = s.lamp := (Logged.record ..).lamp
@[simp] theorem State.recordC_pending (s : State) (src code : Nat) (p : List Byte) : (s.recordC src code p).pending = s.pending := (Logged.recordC ..).pending
@[simp] theorem State.recordC_straps (s : State) (src code : Nat) (p : List Byte) : (s.recordC src code p).straps = s.straps := (Logged.recordC ..).straps
@[simp] theorem State.recordC_now (s : State) (src code : Nat) (p : List Byte) : (s.recordC src code p).now = s.now := (Logged.recordC ..).now
@[simp] theorem State.recordC_tick (s : State) (src code : Nat) (p : List Byte) : (s.recordC src code p).tick = s.tick := (Logged.recordC ..).tick
@[simp] theorem State.recordC_micro (s : State) (src code : Nat) (p : List Byte) : (s.recordC src code p).micro = s.micro := (Logged.recordC ..).micro
@[simp] theorem State.recordC_frameNo (s : State) (src code : Nat) (p : List Byte) : (s.recordC src code p).frameNo = s.frameNo := (Logged.recordC ..).frameNo
@[simp] theorem State.recordC_fresh (s : State) (src code : Nat) (p : List Byte) : (s.recordC src code p).fresh = s.fresh := (Logged.recordC ..).fresh
@[simp] theorem State.recordC_host (s : State) (src code : Nat) (p : List Byte) : (s.recordC src code p).host = s.host := (Logged.recordC ..).host
@[simp] theorem State.recordC_writes (s : State) (src code : Nat) (p : List Byte) : (s.recordC src code p).writes = s.writes := (Logged.recordC ..).writes
@[simp] theorem State.recordC_faults (s : State) (src code : Nat) (p : List Byte) : (s.recordC src code p).faults = s.faults := (Logged.recordC ..).faults
@[simp] theorem State.recordC_beams (s : State) (src code : Nat) (p : List Byte) : (s.recordC src code p).beams = s.beams := (Logged.recordC ..).beams
@[simp] theorem State.recordC_heads (s : State) (src code : Nat) (p : List Byte) : (s.recordC src code p).heads = s.heads := (Logged.recordC ..).heads
@[simp] theorem State.recordC_cns (s : State) (src code : Nat) (p : List Byte) : (s.recordC src code p).cns = s.cns := (Logged.recordC ..).cns
@[simp] theorem State.recordC_xy2 (s : State) (src code : Nat) (p : List Byte) : (s.recordC src code p).xy2 = s.xy2 := (Logged.recordC ..).xy2
@[simp] theorem State.recordC_gal (s : State) (src code : Nat) (p : List Byte) : (s.recordC src code p).gal = s.gal := (Logged.recordC ..).gal
@[simp] theorem State.recordC_time (s : State) (src code : Nat) (p : List Byte) : (s.recordC src code p).time = s.time := (Logged.recordC ..).time
@[simp] theorem State.recordC_twin (s : State) (src code : Nat) (p : List Byte) : (s.recordC src code p).twin = s.twin := (Logged.recordC ..).twin
@[simp] theorem State.recordC_mram (s : State) (src code : Nat) (p : List Byte) : (s.recordC src code p).mram = s.mram := (Logged.recordC ..).mram
@[simp] theorem State.recordC_power (s : State) (src code : Nat) (p : List Byte) : (s.recordC src code p).power = s.power := (Logged.recordC ..).power
@[simp] theorem State.recordC_doc (s : State) (src code : Nat) (p : List Byte) : (s.recordC src code p).doc = s.doc := (Logged.recordC ..).doc
@[simp] theorem State.recordC_blks (s : State) (src code : Nat) (p : List Byte) : (s.recordC src code p).blks = s.blks := (Logged.recordC ..).blks
@[simp] theorem State.recordC_stops (s : State) (src code : Nat) (p : List Byte) : (s.recordC src code p).stops = s.stops := (Logged.recordC ..).stops
@[simp] theorem State.recordC_mot (s : State) (src code : Nat) (p : List Byte) : (s.recordC src code p).mot = s.mot := (Logged.recordC ..).mot
@[simp] theorem State.recordC_pipes (s : State) (src code : Nat) (p : List Byte) : (s.recordC src code p).pipes = s.pipes := (Logged.recordC ..).pipes
@[simp] theorem State.recordC_lamp (s : State) (src code : Nat) (p : List Byte) : (s.recordC src code p).lamp = s.lamp := (Logged.recordC ..).lamp

end Sys2Proof.Machine
end

