-- ==== Sys2Proof/Tests/Slice0.lean ====
section
/-!
SUPPORT. Tests: for every statement a state and operands that meet its hypotheses, an ill-formed command for each check of
well-formedness, and one step of some commands on fixed values.
-/

open Sys2Proof Sys2Proof.Machine

namespace Sys2Proof.Tests

set_option maxRecDepth 10000
set_option linter.unusedVariables false
set_option Elab.async false

/-! ## Small states -/

/-- Frame 1,000. -/
def t0 : TS := 2560000

/-- A module in READY with its owner session open over PCIe, and both laser enables high. -/
def ready : State := { State.reset with
  now := t0
  tick := t0
  frameAt := t0
  micro := t0
  frameNo := 1000
  host := { hostReset with
    pcieUp := true
    ownerEver := true
    sessions := { sessionReset with isOpen := true, level := 2, slotKey := 0, lastAt := t0 } :: List.replicate 7 sessionReset }
  twin := { twinReset with state := 0, own := true }
  power := { powerReset with state := 3, started := true, laserEnA := true, laserEnB := true } }

/-- The same in EXPOSE. -/
def exposing : State := { ready with power := { ready.power with state := 4 } }

/-- The same in IDLE. -/
def idle : State := { ready with power := { ready.power with state := 2 } }

/-- Beam 0 as given. -/
def withBeam (f : Beam → Beam) : State := exposing.updBeam 0 f

/-- Beam 0 in RUN with an EXPOSE_INLINE of 16 bytes begun: a record of two words of 8 bytes, of which `n` are fetched. -/
def inlineCmd (n : Nat) (planned : Bool) : ExpCmd :=
  ⟨0, 0, 7, .inline (zeros 2 ++ le 2 2 ++ zeros 12), true, n, 0, planned, 0, 0, 0, 0, 0⟩

def markCmd (begun : Bool) : ExpCmd := ⟨0, 0, 7, .mark, begun, 0, 0, true, 0, 0, 0, 0, 0⟩

/-- An accession in the store. -/
def accn (size : Nat) : Accn := ⟨0, size, granulesOf size, 0, [], 0, false, 0, 0, 0, 0, 0, 0⟩

def withAccs (s : State) (l : List (Nat × Accn)) : State := l.foldl (fun s a => s.updStore fun st => { st with accs := assocPut st.accs a.1 a.2 }) s

/-- A packet of the owner session, in sequence. -/
def pk (stream : Nat) (payload : List Byte) : Packet := ⟨.pcie, t0, 3, 0, stream, 0, true, payload⟩

/-- The payload of a PARAM_WRITE. -/
def write (pid v : Nat) : List Byte := le 4 pid ++ le 4 v

/-- A raster descriptor of 4 pixels by 2 lines over two accessions of pool 1. -/
def rasDesc : List Byte :=
  le 4 0x01000000 ++ le 4 noAcc ++ zeros 8 ++ le 4 0 ++ le 4 10000 ++ le 2 4 ++ le 2 2 ++ le 4 1000 ++ zeros 2 ++ zeros 2 ++ le 4 9
def theMove : Move := ⟨0, 100, false, 1000, 1000, 1000, 0, 9, 0, 0, 0⟩

def theBoot : Boot := ⟨false, false, 0, true, [], [], [], [], []⟩

/-- What a PARAM_WRITE of the data plane asks. -/
def writeAble (pid : Nat → Bool) (b : State) (x : Ctx) : Bool :=
  b.mayWrite x && pid (u32 x.payload 0) && pidRegion (u32 x.payload 0) ≠ 0

/-- What a PARAM_WRITE of the management plane asks. -/
def manageAble (pid : Nat → Bool) (b : State) (x : Ctx) : Bool :=
  b.mayWrite x && pid (u32 x.payload 0) && !isBroadcast (u32 x.payload 0) && pidRegion (u32 x.payload 0) = 0 &&
    u32 x.payload 0 ≠ P.SYS_FW_LOAD

/-- The good identification frame of a mode 2 laser. -/
def serialIdent : Nat :=
  let v := 0x40000002
  v + 4 * crc4 (bitsMsb 1 1 ++ bitsMsb 24 (bits v 29 6)) 0

def hot : List (Option Nat) := [some 0x43480000]

def theTrip : Trip := ⟨0, 1, 0x43480000, 0⟩

/-- IDLE, with nominal calibration, and channel 0 of housekeeping past its shutdown limit in the round before. -/
def hotIdle : State :=
  { idle with
    mram := { mramReset with calBad := true }
    power := { idle.power with hk := ⟨[], false, true, true, false, 0⟩ :: List.replicate 63 ⟨[], false, false, false, false, 0⟩ } }

/-- The code groups of a SOF and of octets behind it. -/
def onLine (bytes : List Byte) : List (BitVec 10) := (encodeSyms false (K27_7 :: bytes.map symD)).1.map (BitVec.ofNat 10)

def theCommit : Commit := ⟨1, [(0x36, 0, [])], none, 0, 0, true⟩

/-- The code group of a SOF, and those of octets behind it. -/
def sofGroup : BitVec 10 := (onLine []).headD 0
def afterSof (bytes : List Byte) : List (BitVec 10) := (onLine bytes).tail

/-- A planned gate of a beam that waits for SYNC_IN. -/
def theGate : GateInt := { (default : GateInt) with t0 := (t0 : Int) - 10, t1 := (t0 : Int) + 100000 }


/-! ## Tags of opaque nonces -/

/-- The tag as a function of its byte. -/
def tagByte (suffix : List Byte) (i : Nat) : Byte := (hmac256 ((List.range 32).map Config.factoryKey) (nonceBytes 0 ++ suffix)).getD i 0

/-- The 16 bytes of the factory key's tag of a nonce and a suffix. -/
def tagOf (suffix : List Byte) : List Byte :=
  (List.range 16).map (tagByte suffix)

/-- A state whose first nonce has been given to session i. -/
def nonced (s : State) (log : Bool) (i : Nat) : State := s.updHost fun h => { h with nonces := [⟨log, .pcie, i, 0, t0⟩] }

theorem take_tag (l : List Byte) (h : l.length = 32) : l.take 16 = (List.range 16).map fun i => l.getD i 0 := by
  apply List.ext_getElem
  · simp [h]
  · intro i h1 h2
    simp only [List.length_take, h] at h1
    have : i < l.length := by omega
    simp [List.getD_eq_getElem?_getD, List.getElem?_eq_getElem this]

theorem tag_ok (s : State) (level : Nat) (suffix : List Byte) (hs : s.mram = mramReset) (hl : level ≤ 2)
    (h : (hmac256 ((List.range 32).map Config.factoryKey) (nonceBytes 0 ++ suffix)).length = 32) :
    s.tagOk 0 level (some (nonceBytes 0)) suffix (tagOf suffix) = true := by
  simp only [State.tagOk, hs, mramReset, List.getElem?_cons_zero, take_tag _ h]
  exact (Bool.and_eq_true _ _).mpr ⟨decide_eq_true hl, beq_self_eq_true _⟩

/-- A packet with the tag of its suffix. -/
def tagged (suffix : List Byte) : Packet := pk 0 ([0, 0, 0, 0] ++ tagOf suffix)

/-- A module in SHADOW, with an OBSERVE session open and its nonce given. -/
def seizing : State :=
  nonced ({ ready with
    host := { ready.host with sessions := { sessionReset with held := true } :: { sessionReset with isOpen := true, level := 0, lastAt := t0 } :: List.replicate 6 sessionReset }
    twin := { ready.twin with paired := true, state := 3, partner := 2, own := false } }) false 1

theorem filterMap_same {α β : Type} (f g : α → Option β) : ∀ l : List α, (∀ a ∈ l, f a = g a) → l.filterMap f = l.filterMap g
  | [], _ => rfl
  | a :: l, h => by
    rw [List.filterMap_cons, List.filterMap_cons, h a (.head l), filterMap_same f g l fun x hx => h x (.tail a hx)]

/-- The one waiting command is the next where nothing holds it. -/
theorem next_one (s : State) (i : Nat) (w : Waiting) (hi : i = 0 ∨ i = 1) (hw : ((s.session i).stream 0).waiting = [w])
    (hn : (List.range 8).all (fun j => (List.range 32).all fun k => (j == i && k == 0) || ((s.session j).stream k).waiting.isEmpty) = true)
    (hh : s.holdsBack (w.ctx i 0) = false) : s.nextCommand = some (w.ctx i 0) := by
  have hf : ∀ j ∈ List.range 8, ∀ k ∈ List.range 32, s.frontOf j k = if j = i ∧ k = 0 then some (w.ctx i 0) else none := by
    intro j hj k hk
    by_cases h : j = i ∧ k = 0
    · obtain ⟨rfl, rfl⟩ := h
      simp [State.frontOf, hw, hh]
    · have := List.all_eq_true.mp (List.all_eq_true.mp hn j hj) k hk
      have he : ((s.session j).stream k).waiting = [] := by
        simpa [h] using this
      simp [State.frontOf, he, h]
  have hl : ((List.range 8).flatMap fun j => (List.range 32).filterMap fun k => s.frontOf j k) =
      (List.range 8).flatMap fun j => (List.range 32).filterMap fun k => if j = i ∧ k = 0 then some (w.ctx i 0) else none := by
    simp only [List.flatMap]
    exact congrArg List.flatten (List.map_congr_left fun j hj => filterMap_same _ _ _ fun k hk => hf j hj k hk)
  rw [State.nextCommand, hl]
  rcases hi with rfl | rfl <;> rfl

/-- The command of a tagged packet as it waits. -/
def waitsTagged (op : Nat) (suffix : List Byte) : Waiting := ⟨op, 0, 0, t0, 0, (tagged suffix).payload, false⟩

theorem clear_next : ((nonced ready true 0).taken 0x7003 (tagged [0x4C, 0]) 0).nextCommand =
    some ((nonced ready true 0).ctxOf 0x7003 (tagged [0x4C, 0]) 0) :=
  next_one ((nonced ready true 0).taken 0x7003 (tagged [0x4C, 0]) 0) 0 (waitsTagged 0x7003 [0x4C, 0]) (.inl rfl) rfl (by decide +kernel)
    (by decide +kernel)

theorem seize_next : (seizing.taken 0x6002 (tagged [0x53, 0]) 1).nextCommand = some (seizing.ctxOf 0x6002 (tagged [0x53, 0]) 1) :=
  next_one (seizing.taken 0x6002 (tagged [0x53, 0]) 1) 1 (waitsTagged 0x6002 [0x53, 0]) (.inr rfl) rfl (by decide +kernel) (by decide +kernel)

theorem clear_taken : (nonced ready true 0).takes 0x7003 (tagged [0x4C, 0]) 0 = true := by
  simp only [State.takes, State.reaches, clear_next, Bool.and_eq_true, decide_true]
  repeat' apply And.intro
  all_goals decide +kernel

theorem seize_taken : seizing.takes 0x6002 (tagged [0x53, 0]) 1 = true := by
  simp only [State.takes, State.reaches, seize_next, Bool.and_eq_true, decide_true]
  repeat' apply And.intro
  all_goals decide +kernel

/-- What LOG_CLEAR asks. -/
def clearAble (b : State) (c : Ctx) : Bool :=
  let slot := u8 c.payload 0
  let n := b.takeNonce true (b.session c.sess).ep c.sess
  slot ≤ 7 && n.2.tagOk slot 2 n.1 [0x4C, BitVec.ofNat 8 slot] (field c.payload 4 16)

/-- What TWIN_SEIZE asks. -/
def seizeAble (b : State) (c : Ctx) : Bool :=
  let slot := u8 c.payload 0
  let n := b.takeNonce false (b.session c.sess).ep c.sess
  b.twin.state = 3 && slot ≤ 7 && n.2.tagOk slot 1 n.1 [0x53, BitVec.ofNat 8 slot] (field c.payload 4 16)

theorem clear_able : clearAble ((nonced ready true 0).begun 0x7003 (tagged [0x4C, 0]) 0) ((nonced ready true 0).ctxOf 0x7003 (tagged [0x4C, 0]) 0) = true := by
  have h1 : u8 ((nonced ready true 0).ctxOf 0x7003 (tagged [0x4C, 0]) 0).payload 0 = 0 := by decide +kernel
  have h2 : field ((nonced ready true 0).ctxOf 0x7003 (tagged [0x4C, 0]) 0).payload 4 16 = tagOf [0x4C, 0] := rfl
  have h3 : (((nonced ready true 0).begun 0x7003 (tagged [0x4C, 0]) 0).takeNonce true
      (((nonced ready true 0).begun 0x7003 (tagged [0x4C, 0]) 0).session ((nonced ready true 0).ctxOf 0x7003 (tagged [0x4C, 0]) 0).sess).ep
      ((nonced ready true 0).ctxOf 0x7003 (tagged [0x4C, 0]) 0).sess).1 = some (nonceBytes 0) := rfl
  simp only [clearAble, h1, h2, h3]
  exact (Bool.and_eq_true _ _).mpr ⟨rfl, tag_ok _ 2 _ rfl (by omega) rfl⟩

theorem seize_able : seizeAble (seizing.begun 0x6002 (tagged [0x53, 0]) 1) (seizing.ctxOf 0x6002 (tagged [0x53, 0]) 1) = true := by
  have h1 : u8 (seizing.ctxOf 0x6002 (tagged [0x53, 0]) 1).payload 0 = 0 := by decide +kernel
  have h2 : field (seizing.ctxOf 0x6002 (tagged [0x53, 0]) 1).payload 4 16 = tagOf [0x53, 0] := rfl
  have h3 : ((seizing.begun 0x6002 (tagged [0x53, 0]) 1).takeNonce false
      ((seizing.begun 0x6002 (tagged [0x53, 0]) 1).session (seizing.ctxOf 0x6002 (tagged [0x53, 0]) 1).sess).ep
      (seizing.ctxOf 0x6002 (tagged [0x53, 0]) 1).sess).1 = some (nonceBytes 0) := rfl
  simp only [seizeAble, h1, h2, h3]
  exact (Bool.and_eq_true _ _).mpr ⟨rfl, tag_ok _ 1 _ rfl (by omega) rfl⟩

/-! ## States of the other statements -/

/-- A beam in RUN whose gate is high, as both enables allow. -/
def lasing : State := withBeam fun b => { b with st := 3, laser := { laserReset with gate := true } }

theorem lasing_safe (l : List Instr) : ({ lasing with pending := l } : State).GateSafe := by
  intro b hb hg
  show lasing.gateAllowed = true
  decide +kernel

/-- The owner session over UDP, port 0, with generation 3. -/
def overUdp : State :=
  (ready.setRg P.ETH_IPV4 0 0xC0A80001).updSession 0 fun x => { x with ep := .udp 1 40000 0 udpShp2 }

/-- A settled pair, whose ACTIVE this module is. -/
def paired : State := ready.updTwin fun t => { t with paired := true, state := 2, partner := 3, linkUp := true, heard := true }

/-- A module strapped for a serial host. -/
def serialHosted : State := { ready with straps := { ready.straps with serialHost := true }, host := hostReset }

/-- No session is open, and a nonce has been given to the PCIe endpoint. -/
def opening : State := { nonced ready false 0 with host := { (nonced ready false 0).host with sessions := List.replicate 8 sessionReset } }

/-- SESSION_OPEN at level OPERATE with key slot 0 and its tag. -/
def openPk : Packet := pk 0 ([1, 0, 0, 0, 0, 0, 0, 0] ++ tagOf [1, 0])

/-- What the statement about SESSION_OPEN asks at a level. -/
abbrev Opened (level : Nat) : Prop :=
  ∃ (s : State) (p : Packet),
    let a := s.arrived p.stamp
    let h := match a.sessionAt p.ep with | some i => s.heard p i | none => a
    let n := h.takeNonce false p.ep 0
    let b := if level = 0 then h else n.2
    (level = u8 p.payload 0 ∧ s.up = true ∧ p.ep.known = true ∧ a.portCarries p.ep [udpShp3, udpShp2] = true ∧ a.packetDiscarded p = false ∧
    p.stream = 0 ∧ p.trailerOk = true ∧ h.power.started = true ∧ flagsBad p.flags 0x0003 p.gen = false ∧ p.payload.length = 24 ∧ level ≤ 2 ∧
    u8 p.payload 1 ≤ 7 ∧ ¬(p.gen = 2 ∧ level = 2)) ∧
    (level = 0 ∨ (b.twin.state ≠ 3 ∧ b.straps.serialHost = false ∧
      b.tagOk (u8 p.payload 1) level n.1 [BitVec.ofNat 8 level, BitVec.ofNat 8 (u8 p.payload 1)] (field p.payload 8 16) = true)) ∧
    b.openBad p.ep level (bit (u8 p.payload 2) 0) = none

theorem open_tag :
    ((opening.arrived t0).takeNonce false .pcie 0).2.tagOk (u8 openPk.payload 0 - 1) 1 ((opening.arrived t0).takeNonce false .pcie 0).1 [1, 0]
      (field openPk.payload 8 16) = true := by
  have h2 : field openPk.payload 8 16 = tagOf [1, 0] := rfl
  have h3 : ((opening.arrived t0).takeNonce false .pcie 0).1 = some (nonceBytes 0) := rfl
  rw [h2, h3]
  exact tag_ok _ 1 _ rfl (by omega) rfl

/-! ## The hypotheses of the statements -/

/-- An event is due in some state of a module that is up. -/
abbrev Due (there : State → Prop) (due : State → TS → Bool) : Prop :=
  ∃ (s : State) (t : TS), there s ∧ s.up = true ∧ due (s.arrived t) t = true

/-- An event is due in some state of a module whose clocks stand. -/
abbrev DueStopped (due : State → TS → Bool) : Prop := ∃ (s : State) (t : TS), s.stopped = true ∧ due (s.stood t) t = true

/-- A host command is taken in some state, and able. -/
abbrev Able (op : Nat) (able : State → Ctx → Bool) : Prop :=
  ∃ (s : State) (p : Packet) (i : Nat), s.takes op p i = true ∧ able (s.begun op p i) (s.ctxOf op p i) = true

/-- A write of the data plane is taken in some state. -/
abbrev AbleWrite (pid : Nat → Bool) : Prop := Able 0x0101 (writeAble pid)

/-- A write of the management plane is taken in some state. -/
abbrev AbleManage (pid : Nat → Bool) : Prop := Able 0x0101 (manageAble pid)

/-- The hypotheses of StepRunsTheFront are met. -/
theorem test_wit_step_runs_the_front :
  (∃ (s : State) (c : Instr) (rest : List Instr), s.pending = c :: rest) ∧ ∃ s : State, s.pending = [] :=
  ⟨⟨{ ready with pending := [.vinLoss t0] }, .vinLoss t0, [], rfl⟩, ready, rfl⟩

/-- The hypotheses of GatesStaySafe are met. -/
theorem test_wit_gates_stay_safe :
  (∃ s s' : State, s.GateSafe ∧ Machine.step s = .next s') ∧ ∃ (c : Instr) (s s' : State), exec c s = .next s' :=
  ⟨⟨{ lasing with pending := [.safetyFault t0] }, _, lasing_safe _, rfl⟩, .safetyFault t0, lasing, _, rfl⟩

/-- The hypotheses of RegistersHoldTheirValues are met. -/
theorem test_wit_registers_hold_their_values :
  (∃ v : Nat, v < 2 ^ 32) ∧ ∃ pid q : Nat, q ≠ pid :=
  ⟨⟨2 ^ 32 - 1, by decide⟩, 0, 1, by decide⟩

/-- The hypotheses of EveryCommandAnswers are met. -/
theorem test_wit_every_command_answers :
  ∃ (c : Instr) (s : State), c.wf = true ∧ s.straps.grade = .yq2460 :=
  ⟨.laserSyncEdge t0 23, ready, by decide, by decide +kernel⟩

/-- The hypotheses of OffDoesNothing are met. -/
theorem test_wit_off_does_nothing :
  ∃ (c : Instr) (s s' : State), s.power.state = 0 ∧ (∀ t b, c ≠ .vinRise t b) ∧ exec c s = .next s' :=
  ⟨.safetyFault t0, ready.updPower fun p => { p with state := 0 }, _, by decide +kernel, nofun, rfl⟩

/-- The hypotheses of CommandsAreDecidedOnce are met. -/
theorem test_wit_commands_are_decided_once :
  (∃ (s : State) (op : Nat) (p : Packet) (i r : Nat), s.reaches op p i = true ∧ (s.begun op p i).checkBad (s.ctxOf op p i) = some r) ∧
  (∃ (b : State) (k : Ticket) (sl : Slot), ((b.session k.sess).stream k.stream).slot? k.seq = some sl ∧ sl.dec = none) ∧
  ∃ (b : State) (k : Ticket) (sl : Slot), ((b.session k.sess).stream k.stream).slot? k.seq = some sl ∧ sl.dec ≠ none :=
  ⟨⟨ready, 0, pk 0 [0], 0, rBADPARAM, by decide +kernel⟩,
   ⟨ready.begun 0 (pk 31 []) 0, ⟨0, 31, 0⟩, _, rfl, by decide +kernel⟩,
   ⟨(ready.begun 0 (pk 31 []) 0).decide ⟨0, 31, 0⟩ rOK t0 [], ⟨0, 31, 0⟩, _, rfl, by decide +kernel⟩⟩

/-- The hypotheses of OtherGenerationIsRefused are met. -/
theorem test_wit_other_generation_is_refused :
  (∃ (s : State) (p : Packet), (s.openNow p 0 0 0 false).2.host.sessions.length = 8) ∧
  ∃ (s : State) (c : Packet → Instr) (op i : Nat) (p : Packet),
    (∀ q t, exec (c q) t = t.hostCommand op q) ∧ s.up = true ∧ p.ep.known = true ∧ (s.arrived p.stamp).portCarries p.ep [udpShp3, udpShp2] = true ∧
    (s.arrived p.stamp).packetDiscarded p = false ∧ (s.arrived p.stamp).sessionAt p.ep = some i ∧ ¬(op = 0x0003 ∧ p.stream = 0) ∧ ((s.heard p i).session i).gen ≠ p.gen :=
  ⟨⟨ready, pk 0 [], by decide +kernel⟩,
   ⟨overUdp, .nop, 0, 0, { pk 0 [] with ep := .udp 1 40000 0 udpShp2, gen := 2 }, fun _ _ => rfl, by decide +kernel⟩⟩

/-- The hypotheses of BeamsHaveTheirPlaces are met. -/
theorem test_wit_beams_have_their_places :
  (∃ c : Ctx, c.stream = 0 + 1) ∧ (∃ c : Ctx, c.stream = 23 + 1) ∧ ∃ op, op / 256 = 0x10 ∨ op / 256 = 0x11 :=
  ⟨⟨ready.ctxOf 0x1000 (pk 1 []) 0, by decide +kernel⟩, ⟨ready.ctxOf 0x1000 (pk 24 []) 0, by decide +kernel⟩, 0x1100, by decide⟩

/-- The hypotheses of SessionCommandsComplete are met. -/
theorem test_wit_session_commands_complete :
  (Able 0x0000 (fun _ _ => true)) ∧
  (Able 0x0001 (fun _ _ => true)) ∧
  (Able 0x0002 (fun _ _ => true)) ∧
  (Able 0x0005 (fun _ c => c.sess = 0)) ∧
  (Able 0x0009 (fun _ _ => true)) ∧
  (Able 0x0004 (fun _ _ => true)) ∧
  (Able 0x0006 (fun _ c => u8 c.payload 0 ≤ 31 && 1 ≤ u32 c.payload 8 && u32 c.payload 8 ≤ 256)) ∧
  (Able 0x0007 (fun _ c => 1 ≤ u8 c.payload 0 && u8 c.payload 0 ≤ 31)) ∧
  (∃ (s : State) (p : Packet) (i : Nat), s.takesHeld 0x0008 p i = true) ∧
  (∃ (k : Nat) (w : Waiting) (r : List Waiting), Due (fun _ => True) (fun a _ => k < 32 && ((a.session 0).stream k).waiting = w :: r && a.fenceReady (w.ctx 0 k))) :=
  ⟨⟨ready, pk 0 ([]), 0, by decide +kernel⟩,
   ⟨ready, pk 0 ([]), 0, by decide +kernel⟩,
   ⟨ready, pk 0 ([]), 0, by decide +kernel⟩,
   ⟨ready, pk 0 ([]), 0, by decide +kernel⟩,
   ⟨ready, pk 0 ([]), 0, by decide +kernel⟩,
   ⟨ready, pk 0 ([]), 0, by decide +kernel⟩,
   ⟨ready, pk 0 ([0, 0, 0, 0] ++ le 4 0 ++ le 4 1), 0, by decide +kernel⟩,
   ⟨ready, pk 0 ([31, 1, 0, 0]), 0, by decide +kernel⟩,
   ⟨ready, pk 31 (zeros 4), 0, by decide +kernel⟩,
   ⟨31, ⟨8, 0, 0, 0, 0, zeros 4, false⟩, [], ready.updStream 0 31 fun q => { q with expected := 1, waiting := [⟨8, 0, 0, 0, 0, zeros 4, false⟩] }, t0, trivial, by decide +kernel⟩⟩

/-- The hypotheses of SessionOpens are met. -/
theorem test_wit_session_opens :
  Opened 0 ∧ Opened 1 :=
  ⟨⟨State.reset, { pk 0 (zeros 24) with stamp := 0 }, by decide +kernel, .inl rfl, by decide +kernel⟩,
   ⟨opening, openPk, by decide +kernel, .inr ⟨by decide +kernel, by decide +kernel, open_tag⟩, by decide +kernel⟩⟩

/-- The hypotheses of ParameterReadsComplete are met. -/
theorem test_wit_parameter_reads_complete :
  (Able 0x0100 (fun b c => (b.readBad c.stream (u32 c.payload 0)).isNone)) ∧
  (Able 0x0102 (fun b c =>
      let pids := (List.range (u32 c.payload 0)).map fun i => u32 c.payload (4 + 4 * i)
      1 ≤ u32 c.payload 0 && u32 c.payload 0 ≤ 64 && pids.all fun q => (b.readBad c.stream q).isNone)) :=
  ⟨⟨ready, pk 0 (le 4 P.TIME_SRC), 0, by decide +kernel⟩,
   ⟨ready, pk 0 (le 4 2 ++ le 4 P.TIME_SRC ++ le 4 (P.HP_GEN + 23 * 2 ^ 16)), 0, by decide +kernel⟩⟩

/-- The hypotheses of ParameterWritesComplete are met. -/
theorem test_wit_parameter_writes_complete :
  (AbleWrite (fun _ => true)) ∧
  (∃ (pid : Nat), pidRegion pid = 0 ∧ AbleManage (fun q => q = pid)) ∧
  (Able 0x0103 (fun b c =>
      let es := blockEntries c.payload
      1 ≤ es.length && es.length ≤ 64 && (firstFailing (fun (e : Nat × Nat) => b.entryBad (b.afterWrites es) c.sess c.stream e.1 e.2) 0 es).isNone &&
        ((b.afterWrites es).blockLoadBad es).isNone && es.any fun e => pidRegion e.1 ≠ 0)) :=
  ⟨⟨ready, pk 0 (write (P.HP_PARK_TMO + 23 * 2 ^ 16) 20), 0, by decide +kernel⟩,
   ⟨P.IO_GPO, by decide +kernel, ready, pk 0 (write P.IO_GPO 1), 0, by decide +kernel⟩,
   ⟨ready, pk 0 (le 4 2 ++ write P.HP_PARK_TMO 20 ++ write (P.HP_PARK_TMO + 2 ^ 16) 20), 0, by decide +kernel⟩⟩

/-- The hypotheses of SessionEventsComplete are met. -/
theorem test_wit_session_events_complete :
  (∃ (cause : Discard), Due (fun _ => True) (fun _ _ => true)) ∧
  (∃ (i : Nat), Due (fun _ => True) (fun a _ => i < 8 && (a.session i).isOpen && a.rg P.SESS_TMO i ≠ 0 && a.now ≥ (a.session i).lastAt + a.rg P.SESS_TMO i * 1000000)) ∧
  (∃ (ep : Endpoint), Due (fun _ => True) (fun _ _ => ep.known)) ∧
  (∃ (k : Nat), Due (fun _ => True) (fun _ _ => k < 32)) :=
  ⟨⟨Discard.headerCheck, ready, t0, trivial, by decide +kernel⟩,
   ⟨7, (ready.updSession 7 fun x => { x with isOpen := true }).setRg P.SESS_TMO 7 2, t0, trivial, by decide +kernel⟩,
   ⟨.pcie, ready, t0, trivial, by decide +kernel⟩,
   ⟨31, ready, t0, trivial, by decide +kernel⟩⟩

/-- The hypotheses of RingEventsComplete are met. -/
theorem test_wit_ring_events_complete :
  (∃ (k : Nat) (v : Nat), Due (fun _ => True) (fun a _ => k < 32 && v < 2 ^ (a.sub k).size)) ∧
  (∃ (q : Nat) (v : Nat), Due (fun _ => True) (fun a _ => q < 4 && v < (a.ring q).bytes)) ∧
  (∃ (k : Nat) (v : Nat), Due (fun _ => True) (fun a _ => k < 32 && bit v 0 && !(a.sub k).enabled)) ∧
  (∃ (q : Nat) (v : Nat), Due (fun _ => True) (fun a _ => q < 4 && bit v 0 && !(a.ring q).enabled)) ∧
  (∃ (k : Nat) (v : Nat), Due (fun _ => True) (fun a _ => k < 32 && !(a.sub k).enabled && 6 ≤ v % 16 && v % 16 ≤ 12)) ∧
  (∃ (k : Nat) (op : Nat) (p : Packet), Due (fun _ => True) (fun a _ => k < 32 && (a.sub k).enabled && (a.sub k).head ≠ (a.sub k).tail && a.host.pcieUp)) ∧
  (∃ (k : Nat), Due (fun _ => True) (fun a _ => k < 32 && (a.sub k).enabled && (a.sub k).head ≠ (a.sub k).tail && a.host.pcieUp)) ∧
  (∃ (gen : Nat) (width : Nat), Due (fun _ => True) (fun _ _ => true)) ∧
  (Due (fun _ => True) (fun _ _ => true)) :=
  ⟨⟨31, 63, ready, t0, trivial, by decide +kernel⟩,
   ⟨3, 64, ready.updRing 3 fun r => { r with size := 12 }, t0, trivial, by decide +kernel⟩,
   ⟨31, 1, ready, t0, trivial, by decide +kernel⟩,
   ⟨3, 1, ready, t0, trivial, by decide +kernel⟩,
   ⟨31, 12, ready, t0, trivial, by decide +kernel⟩,
   ⟨31, 0, pk 0 [], ready.updSub 31 fun r => { r with enabled := true, tail := 1 }, t0, trivial, by decide +kernel⟩,
   ⟨31, ready.updSub 31 fun r => { r with enabled := true, tail := 1 }, t0, trivial, by decide +kernel⟩,
   ⟨2, 4, ready, t0, trivial, by decide +kernel⟩,
   ⟨ready, t0, trivial, by decide +kernel⟩⟩

/-- The hypotheses of Shp1FrameCompletes are met. -/
theorem test_wit_shp1_frame_completes :
  ∃ (s : State) (f : Shp1Frame) (stream : Nat), s.up = true ∧ f.ep.known = true ∧ (s.arrived f.stamp).straps.serialHost = true ∧
    (s.arrived f.stamp).portCarries f.ep [udpShp1] = true ∧ f.crcOk = true ∧ f.payload.length ≤ 250 ∧ (s.arrived f.stamp).power.started = true ∧
    (s.arrived f.stamp).twin.state ≠ 3 ∧ shp1Stream f.address = some stream ∧ (((s.arrived f.stamp).shp1Open f.ep).session 0).ep = f.ep :=
  ⟨serialHosted, ⟨.serial, t0, 7, 1, 5, true, []⟩, 8, by decide +kernel⟩

/-- The hypotheses of BeamControlsComplete are met. -/
theorem test_wit_beam_controls_complete :
  (Able 0x1000 (fun b c => c.beam < b.nBeams && b.rg P.BEAM_FC_ACC c.beam ≠ noAcc && (b.beam c.beam).ctl.isEmpty && (b.beam c.beam).st = 0)) ∧
  (Able 0x1000 (fun b c => c.beam < b.nBeams && b.rg P.BEAM_FC_ACC c.beam ≠ noAcc && (b.beam c.beam).ctl.isEmpty && (b.beam c.beam).st = 5 &&
      bit (u8 c.payload 0) 0 && b.intCause c.beam = 0)) ∧
  (Able 0x1000 (fun b c => c.beam < b.nBeams && b.rg P.BEAM_FC_ACC c.beam ≠ noAcc && ((b.beam c.beam).st = 4 || !(b.beam c.beam).ctl.isEmpty))) ∧
  (Able 0x1000 (fun b c => c.beam < b.nBeams && b.rg P.BEAM_FC_ACC c.beam ≠ noAcc && (b.beam c.beam).ctl.isEmpty &&
      1 ≤ (b.beam c.beam).st && (b.beam c.beam).st ≤ 3)) ∧
  (Able 0x1001 (fun b c => c.beam < b.nBeams && u8 c.payload 0 ≤ 2)) :=
  ⟨⟨ready.setRg P.BEAM_FC_ACC 23 0x01000000, pk 24 ([0, 0, 0, 0]), 0, by decide +kernel⟩,
   ⟨(exposing.setRg P.BEAM_FC_ACC 0 0x01000000).updBeam 0 fun b => { b with st := 5, laser := { laserReset with readyIn := true, readyS := true } }, pk 1 ([1, 0, 0, 0]), 0, by decide +kernel⟩,
   ⟨(exposing.setRg P.BEAM_FC_ACC 0 0x01000000).updBeam 0 fun b => { b with st := 4 }, pk 1 ([0, 0, 0, 0]), 0, by decide +kernel⟩,
   ⟨(exposing.setRg P.BEAM_FC_ACC 0 0x01000000).updBeam 0 fun b => { b with st := 2 }, pk 1 ([0, 0, 0, 0]), 0, by decide +kernel⟩,
   ⟨exposing.updBeam 23 fun b => { b with st := 3 }, pk 24 ([2, 0, 0, 0]), 0, by decide +kernel⟩⟩

/-- The hypotheses of ExposuresComplete are met. -/
theorem test_wit_exposures_complete :
  (Able 0x1002 (fun b c =>
      let acc := u32 c.payload 0
      c.beam < b.nBeams && (accPool acc = 0 || accPool acc = 6) && u32 c.payload 4 % 8 = 0 && u32 c.payload 8 % 8 = 0 &&
        u32 c.payload 8 ≠ 0 && u32 c.payload 4 + u32 c.payload 8 ≤ ((b.acc? acc).map (·.size)).getD 0 && (b.loanCheck acc).isNone &&
        !(b.beam c.beam).closed)) ∧
  (Able 0x1003 (fun b c => c.beam < b.nBeams && (c.payload.drop 4).length % 8 = 0 && !(b.beam c.beam).closed)) ∧
  (Able 0x1004 (fun b c => c.beam < b.nBeams && !(b.beam c.beam).closed)) :=
  ⟨⟨withAccs (withBeam fun b => { b with st := 2 }) [(0, accn 16)], pk 1 (le 4 0 ++ le 4 8 ++ le 4 8 ++ le 4 7), 0, by decide +kernel⟩,
   ⟨withBeam fun b => { b with st := 2 }, pk 1 (le 4 7 ++ zeros 8), 0, by decide +kernel⟩,
   ⟨withBeam fun b => { b with st := 3 }, pk 1 (le 4 7), 0, by decide +kernel⟩⟩

/-- The hypotheses of EnqueueEffect are met. -/
theorem test_wit_enqueue_effect :
  ∃ (s : State) (c : Ctx), c.beam < s.beams.length :=
  ⟨ready, ready.ctxOf 0x1000 (pk 24 []) 0, by decide +kernel⟩

/-- The hypotheses of BeamTransitionsComplete are met. -/
theorem test_wit_beam_transitions_complete :
  (∃ (n : Nat), Due (fun s => n < s.nBeams) (fun a _ => (a.beam n).st = 1 && a.headReady n && a.beamAwake n && (a.rg P.LSR_READY_REQ n = 0 || a.readyActive n) &&
      (a.rg P.LSR_MODE n ≠ 2 || (a.beam n).laser.identOk) && (a.beam n).arming.isSome)) ∧
  (∃ (n : Nat), Due (fun s => n < s.nBeams) (fun a _ => (a.beam n).st = 1 && a.now ≥ (a.beam n).armAt + a.rg P.BEAM_ARM_TMO n * 1000000)) ∧
  (∃ (n : Nat) (f : Nat), Due (fun s => n < s.nBeams) (fun a _ => (a.beam n).st = 1 && a.rg P.LSR_MODE n = 2 && !(a.beam n).laser.identOk &&
      (match (a.beam n).laser.identAt with | some b => b + 2560 ≤ a.now && a.now < b + 5120 | none => false) &&
      bit f 30 && !bit f 31 && bit f 1 && bits f 5 2 == crc4 (bitsMsb 1 1 ++ bitsMsb 24 (bits f 29 6)) 0)) ∧
  (∃ (n : Nat) (h : Shut) (p : Int), Due (fun s => n < s.nBeams) (fun a _ => (a.beam n).st = 4 && (a.beam n).shut = some h && h.parkT = some p && p ≤ (a.now : Int) && !a.portFaulted n)) ∧
  (∃ (n : Nat) (h : Shut), Due (fun s => n < s.nBeams) (fun a _ => (a.beam n).st = 4 && a.portFaulted n && (a.beam n).shut = some h &&
      a.now ≥ h.began + a.rg P.HP_PARK_TMO n * 1000000)) :=
  ⟨⟨0, (withBeam fun b => { b with st := 1, laser := { laserReset with readyIn := true, readyS := true }, arming := some ⟨true, false, 0, 0, 1, 0, 0, false, none⟩ }).updHead 0 fun h => { h with state := 3 }, t0, by decide +kernel⟩,
   ⟨23, ready.updBeam 23 fun b => { b with st := 1 }, t0 + 600000000000, by decide +kernel⟩,
   ⟨0, serialIdent, (withBeam fun b => { b with st := 1, laser := { laserReset with identTries := 1, identAt := some t0 } }).setRg P.LSR_MODE 0 2, t0 + 2560, by decide +kernel⟩,
   ⟨0, ⟨0, 1, 0, 0, 0, true, 0, 0, some 5⟩, 5, withBeam fun b => { b with st := 4, shut := some ⟨0, 1, 0, 0, 0, true, 0, 0, some 5⟩ }, t0, by decide +kernel⟩,
   ⟨0, ⟨0, 1, 0, 0, 0, true, 0, 0, none⟩, (withBeam fun b => { b with st := 4, shut := some ⟨0, 1, 0, 0, 0, true, 0, 0, none⟩ }).updHead 0 fun h => { h with state := 4 }, t0 + 60000000000, by decide +kernel⟩⟩

/-- The hypotheses of BeamWorkCompletes are met. -/
theorem test_wit_beam_work_completes :
  (∃ (n : Nat) (c : ExpCmd), Due (fun s => n < s.nBeams) (fun a _ => (a.beam n).nextCmd = some c && a.mayBegin n && (a.beam n).st = 3)) ∧
  (∃ (n : Nat) (c : ExpCmd) (r : List ExpCmd) (acc : Nat) (off : Nat) (len : Nat), Due (fun s => n < s.nBeams) (fun a _ => (a.beam n).cmds = c :: r && c.kind = .list acc off len && (a.beam n).cmdDone c)) ∧
  (∃ (n : Nat) (c : ExpCmd) (r : List ExpCmd) (data : List Byte), Due (fun s => n < s.nBeams) (fun a _ => (a.beam n).cmds = c :: r && c.kind = .inline data && (a.beam n).cmdDone c)) ∧
  (∃ (n : Nat) (c : ExpCmd) (r : List ExpCmd), Due (fun s => n < s.nBeams) (fun a _ => (a.beam n).cmds = c :: r && c.kind = .mark && c.begun)) ∧
  (∃ (n : Nat) (c : ExpCmd), Due (fun s => n < s.nBeams) (fun a _ =>
      let b := a.beam n
      let len := recLen (a.cmdBytes c c.fetched (min 8 (c.len - c.fetched)))
      (b.st = 2 || b.st = 3) && (b.cmds.find? fun c => c.fetched < c.len) = some c && len ≠ 0 && c.fetched + len ≤ c.len && len ≤ 16384 &&
        b.ringFill + len ≤ 65536 && !a.cmdPoison c c.fetched len)) ∧
  (∃ (n : Nat) (c : ExpCmd) (v : VRec) (r : List VRec), Due (fun s => n < s.nBeams) (fun a _ => ((a.beam n).st = 2 || (a.beam n).st = 3) && (a.beam n).planCmd = some c && (a.beam n).ring = v :: r && v.ord = c.ord &&
      (match c.kind with | .list .. | .inline .. => true | _ => false))) ∧
  (∃ (n : Nat) (w : PendingWrite), Due (fun s => n < s.nBeams) (fun a _ => a.writes = [w] && w.due ≤ a.now && (w.tables.any fun p => pidInst p = n) &&
      w.tables.all fun p => (a.beam (pidInst p)).frontPause.isSome)) :=
  ⟨⟨0, markCmd false, withBeam fun b => { b with st := 3, laser := { laserReset with readyIn := true, readyS := true }, cmds := [markCmd false] }, t0, by decide +kernel⟩,
   ⟨0, { markCmd true with kind := .list 0 0 8 }, [], 0, 0, 8, withBeam fun b => { b with st := 3, cmds := [{ markCmd true with kind := .list 0 0 8 }] }, t0, by decide +kernel⟩,
   ⟨0, { markCmd true with kind := .inline (zeros 8) }, [], zeros 8, withBeam fun b => { b with st := 3, cmds := [{ markCmd true with kind := .inline (zeros 8) }] }, t0, by decide +kernel⟩,
   ⟨0, markCmd true, [], withBeam fun b => { b with st := 3, cmds := [markCmd true] }, t0, by decide +kernel⟩,
   ⟨0, inlineCmd 0 false, withBeam fun b => { b with st := 3, cmds := [inlineCmd 0 false] }, t0, by decide +kernel⟩,
   ⟨0, inlineCmd 16 false, ⟨0, 0, 0, zeros 16, false⟩, [], withBeam fun b => { b with st := 3, cmds := [inlineCmd 16 false], ring := [⟨0, 0, 0, zeros 16, false⟩] }, t0, by decide +kernel⟩,
   ⟨0, ⟨t0, 0, 1, 0, 0x0101, [(P.BEAM_FC_ACC, 0x01000000)], write P.BEAM_FC_ACC 0x01000000⟩, { exposing with writes := [⟨t0, 0, 1, 0, 0x0101, [(P.BEAM_FC_ACC, 0x01000000)], write P.BEAM_FC_ACC 0x01000000⟩] }, t0, by decide +kernel⟩⟩

/-- The hypotheses of TicksComplete are met. -/
theorem test_wit_ticks_complete :
  (Due (fun _ => True) (fun a t => t % 2560 = 0 && a.tick < t && a.now = t && a.expRuns)) ∧
  (Due (fun _ => True) (fun a t => t % 2560 = 0 && a.tick < t && a.now = t && !a.expRuns)) ∧
  (Due (fun _ => True) (fun a t => a.microDue t && a.micro < t && a.now = t && a.expRuns && a.pathTime t % 2560 ≠ 0)) ∧
  (Due (fun _ => True) (fun a t => a.microDue t && a.micro < t && a.now = t && a.expRuns && a.pathTime t % 2560 = 0)) ∧
  (Due (fun _ => True) (fun a t => a.microDue t && a.micro < t && a.now = t && !a.expRuns)) :=
  ⟨⟨ready, t0 + 2560, trivial, by decide +kernel⟩,
   ⟨idle, t0 + 2560, trivial, by decide +kernel⟩,
   ⟨ready, t0 + 256, trivial, by decide +kernel⟩,
   ⟨{ ready with micro := t0 - 256 }, t0, trivial, by decide +kernel⟩,
   ⟨idle, t0 + 256, trivial, by decide +kernel⟩⟩

/-- The hypotheses of LaserPinsComplete are met. -/
theorem test_wit_laser_pins_complete :
  (∃ (a : Bool) (b : Bool), Due (fun _ => True) (fun _ _ => a && b)) ∧
  (∃ (a : Bool) (b : Bool), Due (fun _ => True) (fun _ _ => !(a && b))) ∧
  (∃ (d : TS), Due (fun _ => True) (fun a _ => a.power.enDiff = some d && !a.power.safety && d + 10000000 < a.now)) ∧
  (∃ (n : Nat) (on : Bool), Due (fun s => n < s.nBeams) (fun _ _ => true)) ∧
  (∃ (n : Nat) (on : Bool), Due (fun s => n < s.nBeams) (fun _ _ => true)) ∧
  (∃ (n : Nat), Due (fun s => n < s.nBeams) (fun a _ => a.rg P.LSR_SYNC_EN n ≠ 1)) ∧
  (∃ (n : Nat) (g : GateInt), Due (fun s => n < s.nBeams) (fun a _ => (a.beam n).st = 3 && a.syncWaits n && (a.rg P.BEAM_GATE_MIN n : Int) ≤ g.t1 - a.laserNow n &&
      ((a.beam n).gates.find? fun g => !g.opened && !g.closed && g.t0 ≤ a.laserNow n && a.laserNow n < g.t1) = some g)) :=
  ⟨⟨true, true, ready, t0, trivial, by decide +kernel⟩,
   ⟨true, false, ready, t0, trivial, by decide +kernel⟩,
   ⟨t0, ready.updPower fun p => { p with laserEnB := false, enDiff := some t0 }, t0 + 10000001, trivial, by decide +kernel⟩,
   ⟨23, true, ready, t0, by decide +kernel⟩,
   ⟨0, true, ready, t0, by decide +kernel⟩,
   ⟨23, ready, t0, by decide +kernel⟩,
   ⟨0, theGate, (withBeam fun b => { b with st := 3, gates := [theGate], laser := { laserReset with stepAt := t0 } }).setRg P.LSR_SYNC_EN 0 1, t0, by decide +kernel⟩⟩

/-- The hypotheses of RasterCommandsComplete are met. -/
theorem test_wit_raster_commands_complete :
  (Able 0x1100 (fun b c => c.beam < b.nBeams && (b.descBad c.payload).isNone && b.rg P.BEAM_RAS_SRC c.beam ≠ 0 &&
      !((b.blankingDue c.beam).beam c.beam).ras.pendingFresh)) ∧
  (Able 0x1101 (fun b c => c.beam < b.nBeams && b.rg P.BEAM_RAS_SRC c.beam ≠ 0 && !(b.beam c.beam).closed && (b.beam c.beam).ras.pendingFresh &&
      !(b.rg P.BEAM_RAS_SRC c.beam = 2 && (b.xy2Of c.beam).isSome) &&
      b.rg P.BEAM_RAS_SYNC_DLY c.beam ≥ (b.rg P.BEAM_ADV c.beam + 22) * 256)) ∧
  (Able 0x1102 (fun b c => c.beam < b.nBeams && b.rg P.BEAM_RAS_SRC c.beam ≠ 0 && (b.beam c.beam).cmds.any fun x => x.kind == .rasRun)) ∧
  (Able 0x1102 (fun b c => c.beam < b.nBeams && b.rg P.BEAM_RAS_SRC c.beam ≠ 0 && !(b.beam c.beam).cmds.any fun x => x.kind == .rasRun)) ∧
  (Able 0x1103 (fun b c => c.beam < b.nBeams && (b.descBad c.payload).isNone && b.rg P.BEAM_RAS_SRC c.beam = 0 && !(b.beam c.beam).closed)) ∧
  (AbleWrite (fun q => inInst q 0 = P.BEAM_RAS_PSCALE)) ∧
  (AbleWrite (fun q => q = P.GAL_ORG_X || q = P.GAL_ORG_Y || q = P.GAL_CELL)) ∧
  (AbleWrite (fun q => inInst q 0 = P.BEAM_WRD_HOLD_MAX)) :=
  ⟨⟨(withAccs ((withBeam fun b => { b with st := 2 }).setRg P.BEAM_RAS_SRC 0 1) [(0x01000000, accn 4096)]).memWrite 0x01000000 0 (le 2 0x0050 ++ le 2 4 ++ le 2 2 ++ zeros 2 ++ le 4 8), pk 1 (rasDesc), 0, by decide +kernel⟩,
   ⟨((withBeam fun b => { b with st := 2, ras := { rasReset with pendingFresh := true } }).setRg P.BEAM_RAS_SRC 0 1).setRg P.BEAM_RAS_SYNC_DLY 0 100000, pk 1 (le 4 7), 0, by decide +kernel⟩,
   ⟨(withBeam fun b => { b with st := 3, cmds := [{ markCmd true with kind := .rasRun }] }).setRg P.BEAM_RAS_SRC 0 1, pk 1 ([]), 0, by decide +kernel⟩,
   ⟨ready.setRg P.BEAM_RAS_SRC 0 1, pk 1 ([]), 0, by decide +kernel⟩,
   ⟨(withAccs ((withBeam fun b => { b with st := 2 }).setRg P.BEAM_RAS_SRC 0 0) [(0x01000000, accn 4096)]).memWrite 0x01000000 0 (le 2 0x0050 ++ le 2 4 ++ le 2 2 ++ zeros 2 ++ le 4 8), pk 1 (rasDesc), 0, by decide +kernel⟩,
   ⟨ready, pk 0 (write (P.BEAM_RAS_PSCALE + 23 * 2 ^ 16) 40000), 0, by decide +kernel⟩,
   ⟨ready, pk 0 (write P.GAL_CELL 1), 0, by decide +kernel⟩,
   ⟨ready, pk 0 (write P.BEAM_WRD_HOLD_MAX 0), 0, by decide +kernel⟩⟩

/-- The hypotheses of RasterEventsComplete are met. -/
theorem test_wit_raster_events_complete :
  (∃ (n : Nat) (c : ExpCmd), Due (fun s => n < s.nBeams) (fun a _ =>
      let b := a.beam n
      b.st = 3 && b.planCmd = some c && c.kind = .rasRun && c.begun && !b.ras.regionOpen && !b.ras.blanking &&
        b.vecs.all (·.done) && (match b.ras.endAt with | some e => decide (e ≤ a.laserNow n / 2 * 2 + 1) | none => true))) ∧
  (∃ (n : Nat) (c : ExpCmd) (d : List Byte), Due (fun s => n < s.nBeams) (fun a _ => (a.beam n).st = 3 && (a.beam n).planCmd = some c && c.kind = .rasPush d)) ∧
  (∃ (n : Nat) (c : ExpCmd) (d : List Byte), Due (fun s => n < s.nBeams) (fun a _ =>
      let b := a.beam n
      (b.cmds.find? fun c => c.begun && (match c.kind with | .rasRun | .rasPush _ => true | _ => false)) = some c &&
        c.kind = .rasRun && b.descFor c.ord = some d && b.ras.regionOpen && rdH d ≤ b.ras.exposed + b.ras.skipped)) ∧
  (∃ (i : Nat) (up : Bool), Due (fun _ => True) (fun _ _ => i < 16)) ∧
  (∃ (n : Nat) (c : ExpCmd) (d : List Byte), Due (fun s => n < s.nBeams) (fun a _ =>
      let b := a.beam n
      (b.cmds.find? fun c => match c.kind, b.descFor c.ord with
          | .rasPush _, some d => c.recNo > 0 && b.nextRow c < rdH d
          | .rasRun, some d => c.begun && b.nextRow c < rdH d
          | _, _ => false) = some c &&
        b.descFor c.ord = some d && b.bufFill + rowBytes d (b.nextRow c) ≤ 16384)) :=
  ⟨⟨0, { markCmd true with kind := .rasRun, planned := false }, withBeam fun b => { b with st := 3, cmds := [{ markCmd true with kind := .rasRun, planned := false }] }, t0, by decide +kernel⟩,
   ⟨0, { markCmd false with kind := .rasPush rasDesc, planned := false }, rasDesc, withBeam fun b => { b with st := 3, cmds := [{ markCmd false with kind := .rasPush rasDesc, planned := false }] }, t0, by decide +kernel⟩,
   ⟨0, { markCmd true with kind := .rasRun, planned := false }, rasDesc, withBeam fun b => { b with st := 3, cmds := [{ markCmd true with kind := .rasRun, planned := false }], ras := { rasReset with active := some rasDesc, regionOpen := true, exposed := 2 } }, t0, by decide +kernel⟩,
   ⟨15, true, ready, t0, trivial, by decide +kernel⟩,
   ⟨0, { markCmd true with kind := .rasRun, planned := false }, rasDesc, withBeam fun b => { b with st := 3, cmds := [{ markCmd true with kind := .rasRun, planned := false }], ras := { rasReset with active := some rasDesc } }, t0, by decide +kernel⟩⟩

/-- The hypotheses of GalleryCompletes are met. -/
theorem test_wit_gallery_completes :
  (Able 0x1200 (fun b _ => !b.anyRunning)) ∧
  (Able 0x1201 (fun b c => (b.loanCheck (u32 c.payload 0)).isNone && accPool (u32 c.payload 0) = 6 &&
      ((b.acc? (u32 c.payload 0)).map (·.size)).getD 0 ≥ galBytes && b.gal.snaps.isEmpty)) ∧
  (∃ (cell : Nat), Able 0x1202 (fun b c => b.galCell (i32 c.payload 0) (i32 c.payload 4) = some cell)) ∧
  (Able 0x1210 (fun _ _ => true)) ∧
  (∃ (n : Nat) (d : Deposit), Due (fun s => n < s.nBeams) (fun a _ => (a.beam n).dep = some d && (d.shut || !(a.beam n).laser.gate || d.since + 10240 ≤ a.now))) ∧
  (Due (fun _ => True) (fun a _ => a.gal.expOn)) ∧
  (∃ (n : Nat), Due (fun s => n < s.nBeams) (fun _ _ => true)) ∧
  (Due (fun _ => True) (fun _ _ => true)) ∧
  (∃ (n : Nat), Due (fun s => n < s.nBeams) (fun a _ => (a.beam n).holdNow && !(a.beam n).starved && a.now - (a.beam n).holdAt ≥ a.rg P.WRD_T_STARVE 0 * 1000)) ∧
  (∃ (k : Ticket) (acc : Nat), Due (fun _ => True) (fun a _ => a.gal.snaps = [(k, acc)] && (a.acc? acc).isSome)) :=
  ⟨⟨ready, pk 0 ([]), 0, by decide +kernel⟩,
   ⟨withAccs ready [(0x06000000, accn 16777216)], pk 0 (le 4 0x06000000), 0, by decide +kernel⟩,
   ⟨0, (ready.setRg P.GAL_ORG_X 0 0).setRg P.GAL_ORG_Y 0 0, pk 0 (zeros 8), 0, by decide +kernel⟩,
   ⟨ready, pk 0 ([]), 0, by decide +kernel⟩,
   ⟨0, ⟨5, 0, 0, 0, 0, true⟩, withBeam fun b => { b with dep := some ⟨5, 0, 0, 0, 0, true⟩ }, t0, by decide +kernel⟩,
   ⟨{ ready with gal := { galReset with expOn := true } }, t0, trivial, by decide +kernel⟩,
   ⟨23, ready, t0, by decide +kernel⟩,
   ⟨ready, t0, trivial, by decide +kernel⟩,
   ⟨0, withBeam fun b => { b with holdNow := true }, t0 + 60000000000, by decide +kernel⟩,
   ⟨⟨0, 0, 0⟩, 0x06000000, withAccs { ready with gal := { galReset with snaps := [(⟨0, 0, 0⟩, 0x06000000)] } } [(0x06000000, accn 16777216)], t0, trivial, by decide +kernel⟩⟩

/-- The hypotheses of ConservatorCommandsComplete are met. -/
theorem test_wit_conservator_commands_complete :
  (Able 0x1300 (fun b c =>
      let i := u8 c.payload 0
      let x := u8 c.payload 2
      let y := u8 c.payload 3
      let others (p : CSlot → Bool) : Bool := (List.range 128).any fun j => j ≠ i && p (b.slotOf j)
      i ≤ 127 && (b.slotOf i).mode = 0 &&
        (match u8 c.payload 1 with
         | 0 => true
         | 1 => x < b.nBeams && y ≤ 2 && b.rg P.HP_MODE x = 1 && !others fun o => o.kind = 1 && o.a = x && o.b = y
         | 2 => x < b.nBeams && y = 0 && !others fun o => o.kind = 2 && o.a = x
         | 3 => x ≤ 63 && bits y 6 3 = 0 && !others fun o => o.kind = 3 && o.b % 8 = y % 8
         | _ => false))) ∧
  (Able 0x1301 (fun b c =>
      let x := b.slotOf (u8 c.payload 0)
      !b.slotStreamBad c (u8 c.payload 0) && x.kind ≠ 0 && u8 c.payload 1 ≤ 2 &&
        (x.kind = 3 || u8 c.payload 1 ≠ 1 || bit (u8 c.payload 2) 0 || (fFinite (u32 c.payload 4) && fFinite (u32 c.payload 8))) &&
        !(x.kind = 1 && u8 c.payload 1 = 0 && (b.beam x.a).st ≠ 0))) ∧
  (Able 0x1302 (fun _ c => (List.range 128).all fun i => (c.payload.map (·.toNat)).contains i)) ∧
  (Able 0x1303 (fun b c => !b.slotStreamBad c (u8 c.payload 0))) ∧
  (Able 0x1304 (fun b c =>
      let acc := u32 c.payload 4
      let frames := u32 c.payload 8
      !b.slotStreamBad c (u8 c.payload 0) && (b.slotOf (u8 c.payload 0)).kind ≠ 0 && 1 ≤ frames && frames ≤ 1000000 && accPool acc = 6 &&
        (b.loanCheck acc).isNone && 64 * frames ≤ ((b.acc? acc).map (·.size)).getD 0 && b.cns.trace.isNone)) :=
  ⟨⟨ready.setRg P.HP_MODE 23 1, pk 0 ([127, 1, 23, 2]), 0, by decide +kernel⟩,
   ⟨ready.updSlot 0 fun c => { c with kind := 2 }, pk 0 ([0, 1, 0, 0] ++ le 4 0 ++ le 4 0), 0, by decide +kernel⟩,
   ⟨ready, pk 0 ((List.range 128).map (BitVec.ofNat 8)), 0, by decide +kernel⟩,
   ⟨ready, pk 0 ([127, 0, 0, 0]), 0, by decide +kernel⟩,
   ⟨withAccs (ready.updSlot 127 fun c => { c with kind := 2 }) [(0x06000000, accn 64)], pk 0 ([127, 0, 0, 0] ++ le 4 0x06000000 ++ le 4 1), 0, by decide +kernel⟩⟩

/-- The hypotheses of ConservatorEventsComplete are met. -/
theorem test_wit_conservator_events_complete :
  (∃ (i : Nat) (tr : Trace), Due (fun _ => True) (fun a _ => i < 128 && a.cns.trace = some tr && tr.frames ≤ tr.written)) ∧
  (∃ (slots : List Nat), Due (fun _ => True) (fun _ _ => slots.all (· < 128))) ∧
  (∃ (i : Nat), Due (fun _ => True) (fun a _ =>
      let c := a.slotOf i
      i < 128 && (c.kind = 1 || c.kind = 2) && c.mode = 1 && c.byCmd && !c.impl && a.expRuns && a.sf i P.MPL_RES_CNT ≥ a.sf i P.MPL_RES_N)) ∧
  (∃ (i : Nat), Due (fun _ => True) (fun a _ =>
      let c := a.slotOf i
      i < 128 && c.kind = 2 && c.mode ≠ 0 && c.heldNow && c.held = a.sf i P.MPL_MP_GAP_FR)) ∧
  (∃ (i : Nat), Due (fun _ => True) (fun a _ =>
      let c := a.slotOf i
      let half := fDiv (a.hy i P.HYL_HY_BAND) (fOfInt 2)
      let low := fLt (a.hy i P.HYL_IN_NOW) (fSub (a.hy i P.HYL_HY_REF) half)
      let high := fLt (fAdd (a.hy i P.HYL_HY_REF) half) (a.hy i P.HYL_IN_NOW)
      i < 128 && c.kind = 3 && c.mode = 2 && a.expRuns && a.hy i P.HYL_OUT = 0 && (if a.hy i P.HYL_HY_DIR = 1 then high else low) &&
        a.now - c.hyAt ≥ a.hy i P.HYL_HY_TOFF_MIN * 1000000)) ∧
  (∃ (i : Nat), Due (fun _ => True) (fun a _ =>
      let c := a.slotOf i
      let half := fDiv (a.hy i P.HYL_HY_BAND) (fOfInt 2)
      let low := fLt (a.hy i P.HYL_IN_NOW) (fSub (a.hy i P.HYL_HY_REF) half)
      let high := fLt (fAdd (a.hy i P.HYL_HY_REF) half) (a.hy i P.HYL_IN_NOW)
      i < 128 && c.kind = 3 && c.mode = 2 && a.expRuns && a.hy i P.HYL_OUT = 1 && (if a.hy i P.HYL_HY_DIR = 1 then low else high) &&
        a.now - c.hyAt ≥ a.hy i P.HYL_HY_TON_MIN * 1000000)) ∧
  (∃ (i : Nat), Due (fun _ => True) (fun a _ =>
      let c := a.slotOf i
      let chan := a.power.hk.getD c.a ⟨[], false, false, false, false, 0⟩
      i < 128 && c.kind = 3 && c.mode ≠ 0 && !c.impl && a.expRuns && (chan.faulted || a.now - a.power.hkAt > a.hy i P.HYL_HY_STALE * 256000000))) :=
  ⟨⟨127, ⟨127, 0x06000000, 1, 1, 0, 0, 0, 0⟩, ready.updCns fun c => { c with trace := some ⟨127, 0x06000000, 1, 1, 0, 0, 0, 0⟩ }, t0, trivial, by decide +kernel⟩,
   ⟨[127], ready, t0, trivial, by decide +kernel⟩,
   ⟨127, (ready.updSlot 127 fun c => { c with kind := 2, mode := 1, byCmd := true }).setSf 127 P.MPL_RES_CNT 0 8, t0, trivial, by decide +kernel⟩,
   ⟨0, (ready.updSlot 0 fun c => { c with kind := 2, mode := 2, heldNow := true, held := 0 }).setSf 0 P.MPL_MP_GAP_FR 0 0, t0, trivial, by decide +kernel⟩,
   ⟨127, ((((ready.updSlot 127 fun c => { c with kind := 3, mode := 2 }).setRg P.HYL_HY_BAND 127 0x40000000).setRg P.HYL_HY_REF 127 0x41200000).setRg P.HYL_IN_NOW 127 0).setRg P.HYL_OUT 127 0, t0 + 600000000000, trivial, by decide +kernel⟩,
   ⟨127, ((((ready.updSlot 127 fun c => { c with kind := 3, mode := 2 }).setRg P.HYL_HY_BAND 127 0x40000000).setRg P.HYL_HY_REF 127 0x41200000).setRg P.HYL_IN_NOW 127 0x41F00000).setRg P.HYL_OUT 127 1, t0 + 600000000000, trivial, by decide +kernel⟩,
   ⟨127, ready.updSlot 127 fun c => { c with kind := 3, mode := 2 }, t0 + 600000000000, trivial, by decide +kernel⟩⟩

/-- The hypotheses of ImplausibleHoldsLastGood are met. -/
theorem test_wit_implausible_holds_last_good :
  ∃ (s : State) (i : Nat), i < s.cns.slots.length ∧ (s.slotOf i).kind = 2 ∧ (s.slotOf i).mode = 2 ∧ (s.slotOf i).impl = false ∧
    s.expRuns = true ∧ s.sf i P.MPL_RES_CNT ≥ s.sf i P.MPL_RES_N ∧ i < 128 ∧ ∀ j < 2, s.sf i P.MPL_U_GOOD j < 2 ^ 32 :=
  ⟨(ready.updSlot 127 fun c => { c with kind := 2, mode := 2 }).setSf 127 P.MPL_RES_CNT 0 8, 127, by decide +kernel⟩

/-- The hypotheses of ModeTakesEffect are met. -/
theorem test_wit_mode_takes_effect :
  ∃ (s : State) (i mode : Nat), i < s.cns.slots.length ∧ (s.slotOf i).kind ≠ 0 ∧ mode ≤ 2 :=
  ⟨ready.updSlot 127 fun c => { c with kind := 2 }, 127, 2, by decide +kernel⟩

/-- The hypotheses of ReturnFramesComplete are met. -/
theorem test_wit_return_frames_complete :
  (∃ (n : Nat) (sof : BitVec 10) (codes : List (BitVec 10)), Due (fun s => n < s.nBeams) (fun a _ => (a.head n).state ≠ 0 && !(a.head n).arrived && a.rg P.HP_GEN n = 1 && !sectionGood (a.received n (sof :: codes)) 45)) ∧
  (∃ (n : Nat) (sof : BitVec 10) (codes : List (BitVec 10)), Due (fun s => n < s.nBeams) (fun a _ => (a.head n).state ≠ 0 && !(a.head n).arrived && a.rg P.HP_GEN n = 1 && sectionGood (a.received n (sof :: codes)) 45)) ∧
  (∃ (n : Nat) (sof : BitVec 10) (codes : List (BitVec 10)), Due (fun s => n < s.nBeams) (fun a _ => (a.head n).state ≠ 0 && !(a.head n).arrived && a.rg P.HP_GEN n ≠ 1 && !sectionGood (a.received n (sof :: codes)) 14)) ∧
  (∃ (n : Nat) (sof : BitVec 10) (codes : List (BitVec 10)), Due (fun s => n < s.nBeams) (fun a _ => (a.head n).state ≠ 0 && !(a.head n).arrived && a.rg P.HP_GEN n ≠ 1 && sectionGood (a.received n (sof :: codes)) 14)) :=
  ⟨⟨23, 0, [], (ready.updHead 23 fun h => { h with state := 1 }).setRg P.HP_GEN 23 1, t0, by decide +kernel⟩,
   ⟨23, sofGroup, afterSof (zeros 43 ++ le 2 (crc16 (zeros 43))), (ready.updHead 23 fun h => { h with state := 1 }).setRg P.HP_GEN 23 1, t0, by decide +kernel⟩,
   ⟨23, 0, [], (ready.updHead 23 fun h => { h with state := 1 }).setRg P.HP_GEN 23 0, t0, by decide +kernel⟩,
   ⟨23, sofGroup, afterSof (zeros 12 ++ le 2 (crc16 (zeros 12))), (ready.updHead 23 fun h => { h with state := 1 }).setRg P.HP_GEN 23 0, t0, by decide +kernel⟩⟩

/-- The hypotheses of HeadEventsComplete are met. -/
theorem test_wit_head_events_complete :
  (∃ (n : Nat), Due (fun s => n < s.nBeams) (fun a _ =>
      let h := a.head n
      2 ≤ h.state && h.aligned && !h.arrived && h.sent && h.sentAt + h.aLast + 40 ≤ a.now)) ∧
  (∃ (n : Nat), Due (fun s => n < s.nBeams) (fun a _ => (a.head n).state = 1 && (a.head n).trainAt + a.rg P.HP_LINK_TMO n * 1000000 ≤ a.now)) ∧
  (∃ (n : Nat), Due (fun s => n < s.nBeams) (fun a _ => (a.head n).state = 2)) ∧
  (∃ (n : Nat), Due (fun s => n < s.nBeams) (fun a _ => (a.head n).state = 3)) ∧
  (∃ (n : Nat), Due (fun s => n < s.nBeams) (fun a _ => (a.head n).state = 4)) ∧
  (∃ (q : Nat), Due (fun _ => True) (fun a _ => q < 4 && a.now % 10000 = 0 && a.rg P.XY2_BEAM q < a.nBeams && a.expRuns)) ∧
  (∃ (q : Nat) (w : Nat), Due (fun _ => True) (fun a _ => q < 4 && a.rg P.XY2_BEAM q < a.nBeams && a.rg P.XY2_STAT_MASK q ≠ 0 && popCount 20 w % 2 = 0)) ∧
  (∃ (q : Nat) (w : Nat), Due (fun _ => True) (fun a _ => q < 4 && a.rg P.XY2_BEAM q < a.nBeams && a.rg P.XY2_STAT_MASK q ≠ 0 && popCount 20 w % 2 = 1)) ∧
  (AbleWrite (fun q => inInst q 0 = P.HP_FAULT)) ∧
  (AbleWrite (fun q => inInst q 0 = P.HP_GEN)) ∧
  (AbleWrite (fun q => inInst q 0 = P.XY2_BEAM)) :=
  ⟨⟨23, ready.updHead 23 fun h => { h with state := 3, aligned := true, sent := true }, t0, by decide +kernel⟩,
   ⟨23, ready.updHead 23 fun h => { h with state := 1 }, t0 + 60000000000, by decide +kernel⟩,
   ⟨23, ready.updHead 23 fun h => { h with state := 2 }, t0, by decide +kernel⟩,
   ⟨23, ready.updHead 23 fun h => { h with state := 3 }, t0, by decide +kernel⟩,
   ⟨23, ready.updHead 23 fun h => { h with state := 4 }, t0, by decide +kernel⟩,
   ⟨3, ready.setRg P.XY2_BEAM 3 23, t0, trivial, by decide +kernel⟩,
   ⟨3, 3, (ready.setRg P.XY2_BEAM 3 23).setRg P.XY2_STAT_MASK 3 1, t0, trivial, by decide +kernel⟩,
   ⟨3, 1, (ready.setRg P.XY2_BEAM 3 23).setRg P.XY2_STAT_MASK 3 1, t0, trivial, by decide +kernel⟩,
   ⟨ready, pk 0 (write (P.HP_FAULT + 23 * 2 ^ 16) 1), 0, by decide +kernel⟩,
   ⟨ready, pk 0 (write (P.HP_GEN + 23 * 2 ^ 16) 0), 0, by decide +kernel⟩,
   ⟨ready, pk 0 (write (P.XY2_BEAM + 3 * 2 ^ 16) 23), 0, by decide +kernel⟩⟩

/-- The hypotheses of Xy2WordIsRight are met. -/
theorem test_wit_xy2_word_is_right :
  ∃ code, code < 65536 :=
  ⟨65535, by decide⟩

/-- The hypotheses of Xy2CodeIsRight are met. -/
theorem test_wit_xy2_code_is_right :
  ∃ v : Int, -8388608 ≤ v ∧ v ≤ 8388607 :=
  ⟨-8388608, by decide⟩

/-- The hypotheses of AxisFaultSets are met. -/
theorem test_wit_axis_fault_sets :
  ∃ (s : State) (n causes axes : Nat), n < s.nBeams ∧ causes ≠ 0 ∧ causes < 2 ^ 16 ∧ axes < 8 ∧ s.rg P.HP_FAULT n = 0 ∧
    s.rg P.HP_FAULT_CAUSE n < 2 ^ 32 ∧ n < s.beams.length :=
  ⟨exposing.updBeam 23 fun b => { b with st := 3 }, 23, 2 ^ 15, 7, by decide +kernel⟩

/-- The hypotheses of MovesComplete are met. -/
theorem test_wit_moves_complete :
  (Able 0x2000 (fun b c =>
      let p := c.payload
      let x := b.prf (u8 p 0)
      let target := toSigned 48 (u64 p 4)
      let dir : Int := if u8 p 1 = 0 then (target - x.base).sign else target.sign
      u8 p 0 ≤ 7 && u8 p 1 ≤ 2 && 1 ≤ u32 p 12 && u32 p 12 ≤ 5120000 && u32 p 16 ≠ 0 && u32 p 20 ≠ 0 && !(u8 p 1 = 2 && target = 0) &&
        !b.prfClosed (u8 p 0) && (b.limitOn (u8 p 0) dir).isNone)) ∧
  (Able 0x2003 (fun b c => u8 c.payload 0 ≤ 7 && !b.prfClosed (u8 c.payload 0) &&
      (b.limitOn (u8 c.payload 0) (if b.rg P.PRF_HOME_DIR (u8 c.payload 0) = 1 then 1 else -1)).isNone)) ∧
  (Able 0x2001 (fun b c =>
      let p := c.payload
      let x := b.prf (u8 p 0)
      u8 p 0 ≤ 7 && u32 p 4 ≠ 0 && (u32 p 4 ≤ 5120000 || u32 p 4 = 2 ^ 32 - 1) && u32 p 8 ≠ 0 && u32 p 12 ≠ 0 && x.st = 2 && x.run.isSome &&
        (u64 p 16 = 2 ^ 64 - 1 || (match x.run with | some m => toSigned 48 (u64 p 16) = m.target | none => false)))) :=
  ⟨⟨ready.updPrf 7 fun c => { c with st := 1 }, pk 25 ([7, 0, 0, 0] ++ le 8 100 ++ le 4 5120000 ++ le 4 1000 ++ le 4 1000 ++ le 4 0 ++ le 4 9), 0, by decide +kernel⟩,
   ⟨ready.updPrf 7 fun c => { c with st := 1 }, pk 25 ([7, 0, 0, 0] ++ le 4 9), 0, by decide +kernel⟩,
   ⟨ready.updPrf 7 fun c => { c with st := 2, run := some theMove }, pk 25 ([7, 0, 0, 0] ++ le 4 1000 ++ le 4 1000 ++ le 4 1000 ++ le 8 100), 0, by decide +kernel⟩⟩

/-- The hypotheses of MotionControlsComplete are met. -/
theorem test_wit_motion_controls_complete :
  (Able 0x2002 (fun b c => u8 c.payload 0 ≤ 7 && u8 c.payload 1 ≤ 1 && (b.prf (u8 c.payload 0)).moving && !bit (u8 c.payload 2) 0)) ∧
  (Able 0x2002 (fun b c => u8 c.payload 0 ≤ 7 && u8 c.payload 1 ≤ 1 && !(b.prf (u8 c.payload 0)).moving && !bit (u8 c.payload 2) 0)) ∧
  (Able 0x2004 (fun b c => u8 c.payload 0 ≤ 7 && (b.prf (u8 c.payload 0)).st = 1 && (b.prf (u8 c.payload 0)).queue.isEmpty)) ∧
  (Able 0x2005 (fun b c =>
      let a := u8 c.payload 0
      a ≤ 7 && u8 c.payload 1 = 1 && (b.prf a).st = 0 && !(a < 6 && b.mot.vmotLow) &&
        !(a ≥ 6 && b.sdFlt (a - 6) && b.rg P.SD_FLT_ACT (a - 6) = 0))) ∧
  (Able 0x2005 (fun b c => u8 c.payload 0 ≤ 7 && u8 c.payload 1 = 0 && !(b.prf (u8 c.payload 0)).moving)) ∧
  (Able 0x2006 (fun b c => u8 c.payload 0 ≤ 7 && b.rg P.FBK_IDX_MODE (u8 c.payload 0) = 2)) ∧
  (Able 0x2007 (fun _ c => u8 c.payload 0 ≤ 7 && u8 c.payload 1 ≤ 2)) ∧
  (AbleWrite (fun q => inInst q 0 = P.PRF_FAULT)) ∧
  (AbleWrite (fun q => inInst q 0 = P.FBK_FAULT)) ∧
  (AbleWrite (fun q => inInst q 0 = P.FBK_TYPE)) ∧
  (AbleWrite (fun q => inInst q 0 = P.FBK_IDX_MODE)) :=
  ⟨⟨ready.updPrf 7 fun c => { c with st := 2, run := some theMove }, pk 25 ([7, 1, 0, 0]), 0, by decide +kernel⟩,
   ⟨ready.updPrf 7 fun c => { c with st := 1 }, pk 25 ([7, 1, 0, 0]), 0, by decide +kernel⟩,
   ⟨ready.updPrf 7 fun c => { c with st := 1 }, pk 25 ([7, 0, 0, 0] ++ le 8 100), 0, by decide +kernel⟩,
   ⟨ready, pk 25 ([7, 1, 0, 0]), 0, by decide +kernel⟩,
   ⟨ready.updPrf 7 fun c => { c with st := 1 }, pk 25 ([7, 0, 0, 0]), 0, by decide +kernel⟩,
   ⟨ready.setRg P.FBK_IDX_MODE 7 2, pk 25 ([7, 0, 0, 0]), 0, by decide +kernel⟩,
   ⟨ready, pk 25 ([7, 2, 0, 0]), 0, by decide +kernel⟩,
   ⟨ready, pk 0 (write (P.PRF_FAULT + 7 * 2 ^ 16) 1), 0, by decide +kernel⟩,
   ⟨ready, pk 0 (write (P.FBK_FAULT + 7 * 2 ^ 16) 1), 0, by decide +kernel⟩,
   ⟨ready, pk 0 (write (P.FBK_TYPE + 7 * 2 ^ 16) 1), 0, by decide +kernel⟩,
   ⟨ready, pk 0 (write (P.FBK_IDX_MODE + 7 * 2 ^ 16) 1), 0, by decide +kernel⟩⟩

/-- The hypotheses of MotionEventsComplete are met. -/
theorem test_wit_motion_events_complete :
  (∃ (a : Nat), Due (fun _ => True) (fun s _ =>
      let c := s.prf a
      a < 8 && c.st = 1 && s.now % 2560 = 0 && s.expRuns && (match c.queue with | m :: _ => m.due ≤ s.now | [] => false))) ∧
  (∃ (a : Nat) (m : Move) (e : Int), Due (fun _ => True) (fun s _ =>
      let c := s.prf a
      a < 8 && c.run = some m && c.endAt = some e && m.mode ≤ 2 && c.moving && planEnd c.plan 0 ≤ (s.now : Int) * 65536)) ∧
  (∃ (a : Nat), Due (fun _ => True) (fun s _ => a < 8 && s.rg P.PRF_MAP_PORT a ≤ 7 && (s.prf a).st ≠ 0 && (s.prf a).st ≠ 5 && s.rg P.PRF_DEV_N a ≤ (s.prf a).devRun)) ∧
  (∃ (i : Nat), Due (fun _ => True) (fun _ _ => i < 12)) ∧
  (∃ (i : Nat), Due (fun _ => True) (fun _ _ => i < 12)) ∧
  (∃ (a : Nat), Due (fun _ => True) (fun s _ => a < 6 && (s.stp a).on && !(s.stp a).holding && !(s.prf a).moving && (s.prf a).restAt + s.rg P.STP_T_HOLD a * 1000000 ≤ s.now)) ∧
  (∃ (a : Nat), Due (fun _ => True) (fun s _ => a < 6 && (s.stp a).on)) ∧
  (∃ (mv : Nat), Due (fun _ => True) (fun _ _ => mv < 8000)) ∧
  (∃ (a : Nat) (coilB : Bool), Due (fun _ => True) (fun s _ => a < 6 && (s.stp a).on && s.drives)) ∧
  (∃ (b : Nat) (level : Bool), Due (fun _ => True) (fun s _ =>
      let q := s.updSd b fun x => { x with flt := level }
      b < 2 && (!q.sdFlt b || s.sdFlt b || (s.rg P.SD_FLT_ACT b ≠ 1 && ((s.prf (6 + b)).st = 0 || (s.prf (6 + b)).st = 5))))) ∧
  (∃ (b : Nat) (level : Bool), Due (fun _ => True) (fun s _ => b < 2 && (s.updSd b fun x => { x with flt := level }).sdFlt b && !s.sdFlt b && s.rg P.SD_FLT_ACT b = 1)) ∧
  (∃ (b : Nat) (level : Bool), Due (fun _ => True) (fun s _ => b < 2 && (s.updSd b fun x => { x with flt := level }).sdFlt b && !s.sdFlt b && s.rg P.SD_FLT_ACT b ≠ 1 &&
      (s.prf (6 + b)).st ≠ 0 && (s.prf (6 + b)).st ≠ 5)) :=
  ⟨⟨7, ready.updPrf 7 fun c => { c with st := 1, queue := [theMove] }, t0, trivial, by decide +kernel⟩,
   ⟨7, theMove, 100, ready.updPrf 7 fun c => { c with st := 2, run := some theMove, endAt := some 100 }, t0, trivial, by decide +kernel⟩,
   ⟨7, (ready.updPrf 7 fun c => { c with st := 2, devRun := 100 }).setRg P.PRF_MAP_PORT 7 7, t0, trivial, by decide +kernel⟩,
   ⟨11, ready, t0, trivial, by decide +kernel⟩,
   ⟨11, ready, t0, trivial, by decide +kernel⟩,
   ⟨5, ready.updStp 5 fun q => { q with on := true }, t0 + 60000000000, trivial, by decide +kernel⟩,
   ⟨5, ready.updStp 5 fun q => { q with on := true }, t0, trivial, by decide +kernel⟩,
   ⟨7999, ready, t0, trivial, by decide +kernel⟩,
   ⟨5, true, ready.updStp 5 fun q => { q with on := true }, t0, trivial, by decide +kernel⟩,
   ⟨1, false, ready, t0, trivial, by decide +kernel⟩,
   ⟨1, true, ready.setRg P.SD_FLT_ACT 1 1, t0, trivial, by decide +kernel⟩,
   ⟨1, true, ready.updPrf 7 fun c => { c with st := 2, run := some theMove }, t0, trivial, by decide +kernel⟩⟩

/-- The hypotheses of FeedbackEventsComplete are met. -/
theorem test_wit_feedback_events_complete :
  (∃ (n : Nat) (x : Bool) (y : Bool), Due (fun _ => True) (fun _ _ => n < 8)) ∧
  (∃ (n : Nat) (x : Bool), Due (fun _ => True) (fun _ _ => n < 8)) ∧
  (∃ (n : Nat) (code : Nat), Due (fun _ => True) (fun _ _ => n < 8)) ∧
  (∃ (n : Nat) (x : Bool), Due (fun _ => True) (fun _ _ => n < 8)) ∧
  (∃ (n : Nat) (sn : Nat) (cs : Nat), Due (fun _ => True) (fun a _ => n < 8 && a.fbkType n = 2 && a.expRuns)) ∧
  (∃ (n : Nat) (stamp : TS), Due (fun _ => True) (fun a _ => n < 8 && (a.fbkType n = 3 || a.fbkType n = 4) && a.expRuns && stamp % 2560 = 100 && (a.port n).absAt.isNone &&
      a.twin.ownAt ≤ stamp && (a.port n).absBad + 1 < a.rg P.FBK_ABS_ERR_N n)) ∧
  (∃ (n : Nat) (stamp : Nat) (bs : List Bool) (v : Nat), Due (fun _ => True) (fun a _ => n < 8 && (a.fbkType n = 3 || a.fbkType n = 4) && a.expRuns && stamp % 2560 = 100 && (a.port n).absAt.isNone &&
      a.twin.ownAt ≤ stamp && decodeAbs (a.fbkType n = 3) (a.rg P.FBK_ABS_CODE n = 1) (a.rg P.FBK_ABS_BITS n) (some bs) == .good v true true)) ∧
  (∃ (n : Nat), Due (fun _ => True) (fun a _ => n < 8 && a.fbkType n ≠ 0 && a.now = a.tick && a.expRuns && (a.port n).last.2 + a.rg P.FBK_T_STILL n * 1000 ≤ a.now)) ∧
  (∃ (n : Nat) (x : Bool) (y : Bool), DueStopped (fun _ _ => n < 8)) ∧
  (∃ (n : Nat) (x : Bool), DueStopped (fun _ _ => n < 8)) ∧
  (∃ (n : Nat) (code : Nat), DueStopped (fun _ _ => n < 8)) :=
  ⟨⟨7, true, false, ready, t0, trivial, by decide +kernel⟩,
   ⟨7, true, ready, t0, trivial, by decide +kernel⟩,
   ⟨7, 7, ready, t0, trivial, by decide +kernel⟩,
   ⟨7, true, ready, t0, trivial, by decide +kernel⟩,
   ⟨7, 0, 2047, ready.setRg P.FBK_TYPE 7 2, t0, trivial, by decide +kernel⟩,
   ⟨7, t0 + 100, ready.setRg P.FBK_TYPE 7 4, t0, trivial, by decide +kernel⟩,
   ⟨7, t0 + 100, List.replicate 8 true, 255, (ready.setRg P.FBK_TYPE 7 4).setRg P.FBK_ABS_BITS 7 8, t0, trivial, by decide +kernel⟩,
   ⟨7, { ready.setRg P.FBK_TYPE 7 1 with now := 2560000000000, tick := 2560000000000 }, 2560000000000, trivial, by decide +kernel⟩,
   ⟨7, true, false, (ready.updPower fun p => { p with state := 1 }), t0, by decide +kernel⟩,
   ⟨7, true, (ready.updPower fun p => { p with state := 1 }), t0, by decide +kernel⟩,
   ⟨7, 7, (ready.updPower fun p => { p with state := 1 }), t0, by decide +kernel⟩⟩

/-- The hypotheses of AcceptedLevelsCount are met. -/
theorem test_wit_accepted_levels_count :
  (∃ (s : State) (n : Nat) (x y : Bool), s.fbkType n = 1 ∧ s.expRuns = true ∧ (quadPlace x y + 4 - quadPlace (s.port n).a (s.port n).b) % 4 = 1) ∧
  (∃ (s : State) (n : Nat), s.fbkType n = 1 ∧ s.expRuns = true ∧ s.rg P.FBK_IDX_GATE n = 0 ∧ s.rg P.FBK_IDX_MODE n = 1 ∧ (s.port n).z = false) ∧
  (∃ (s : State) (n code : Nat) (t : TS), s.fbkType n = 5 ∧ s.expRuns = true ∧ code < 8 ∧
    let b := (s.hallSamples n t).updPort n fun p => { p with hall := code, hallNext := t }
    1 ≤ code ∧ code ≤ 6 ∧ (b.port n).hallLast ≠ 0 ∧ b.rg P.FBK_HALL_ORDER n = 0 ∧ (hallPlace code + 6 - hallPlace (b.port n).hallLast) % 6 = 1) ∧
  ∃ (s : State) (n : Nat), (∀ x ∈ (s.port n).ins.zip (s.port n).accepted, x.1.1 = x.2 ∨ s.now < x.1.2 + max 1 (s.rg P.FBK_FILT n * 4)) ∧
    ∃ x ∈ (s.port n).ins.zip (s.port n).accepted, x.1.1 ≠ x.2 :=
  ⟨⟨ready.setRg P.FBK_TYPE 7 1, 7, true, false, by decide +kernel⟩,
   ⟨(ready.setRg P.FBK_TYPE 7 1).setRg P.FBK_IDX_MODE 7 1, 7, by decide +kernel⟩,
   ⟨(ready.setRg P.FBK_TYPE 7 5).updPort 7 fun p => { p with hallLast := 4 }, 7, 5, t0, by decide +kernel⟩,
   ⟨ready.fbkInput 7 [(0, true)] t0, 7, by decide +kernel⟩⟩

/-- The hypotheses of LampCompletes are met. -/
theorem test_wit_lamp_completes :
  (Able 0x2800 (fun _ c => u8 c.payload 0 = 0)) ∧
  (Able 0x2800 (fun b c => u8 c.payload 0 = 1 && !b.lampCfgBad && bit (u8 c.payload 1) 0)) ∧
  (Able 0x2800 (fun b c => u8 c.payload 0 = 1 && !b.lampCfgBad && !bit (u8 c.payload 1) 0)) ∧
  (Able 0x2802 (fun b _ => b.lamp.st ≠ 3)) ∧
  (Able 0x2801 (fun b c =>
      let p := c.payload
      1 ≤ u16 p 0 && u16 p 0 ≤ 64 && p.length = 4 + 4 * u16 p 0 && b.lampLit &&
        ((List.range (u16 p 0)).all fun i => u8 p (4 + 4 * i) ≤ 15 && u8 p (5 + 4 * i) ≤ 3 && u16 p (6 + 4 * i) ≤ b.dutyFull))) ∧
  (Able 0x2801 (fun b c =>
      let p := c.payload
      1 ≤ u16 p 0 && u16 p 0 ≤ 64 && p.length = 4 + 4 * u16 p 0 && !b.lampLit &&
        ((List.range (u16 p 0)).all fun i => u8 p (4 + 4 * i) ≤ 15 && u8 p (5 + 4 * i) ≤ 3 && u16 p (6 + 4 * i) ≤ b.dutyFull))) ∧
  (Able 0x2803 (fun _ c => u8 c.payload 0 ≤ 7 && (List.range 16).all fun i => u8 c.payload (4 + i) ≤ 200)) ∧
  (Able 0x2804 (fun b c => u8 c.payload 0 = 1 && b.lamp.st = 2 && b.rg P.LAMP_ROWS 0 = 1 && b.rg P.LAMP_COMPAT 0 = 0)) ∧
  (Able 0x2804 (fun _ c => u8 c.payload 0 = 0)) ∧
  (Able 0x2805 (fun _ c => u8 c.payload 0 ≤ 127 && u8 c.payload 1 ≤ 16 && u8 c.payload 2 ≤ 16)) ∧
  (∃ (te : LampTest) (opens : Nat), Due (fun _ => True) (fun a _ => a.lamp.test = some te && te.began + 320000 ≤ a.now && a.expRuns)) ∧
  (Due (fun _ => True) (fun _ _ => true)) ∧
  (Due (fun _ => True) (fun a _ => a.lamp.st = 3 && a.expRuns)) ∧
  (∃ (w : Window), Due (fun _ => True) (fun a _ => a.lamp.windows.getLast? = some w && a.lamp.st = 3 && w.stop ≤ a.now && a.drives && a.expRuns)) :=
  ⟨⟨ready, pk 25 ([0, 0, 0, 0]), 0, by decide +kernel⟩,
   ⟨ready, pk 25 ([1, 1, 0, 0]), 0, by decide +kernel⟩,
   ⟨ready, pk 25 ([1, 0, 0, 0]), 0, by decide +kernel⟩,
   ⟨ready, pk 25 ([]), 0, by decide +kernel⟩,
   ⟨ready.updLamp fun l => { l with st := 2 }, pk 25 ([1, 0, 0, 0] ++ [15, 3] ++ le 2 4095), 0, by decide +kernel⟩,
   ⟨ready, pk 25 ([1, 0, 0, 0] ++ [15, 3] ++ le 2 4095), 0, by decide +kernel⟩,
   ⟨ready, pk 25 ([7, 0, 0, 0] ++ (List.replicate 16 200)), 0, by decide +kernel⟩,
   ⟨ready.updLamp fun l => { l with st := 2 }, pk 25 ([1, 0, 0, 0]), 0, by decide +kernel⟩,
   ⟨ready.updLamp fun l => { l with st := 2 }, pk 25 ([0, 0, 0, 0]), 0, by decide +kernel⟩,
   ⟨ready.updLamp fun l => { l with st := 2 }, pk 25 ([127, 16, 16, 0] ++ zeros 16), 0, by decide +kernel⟩,
   ⟨⟨⟨0, 25, 0⟩, t0, true, 0⟩, 3, ready.updLamp fun l => { l with st := 1, test := some ⟨⟨0, 25, 0⟩, t0, true, 0⟩ }, t0 + 320000, trivial, by decide +kernel⟩,
   ⟨ready, t0, trivial, by decide +kernel⟩,
   ⟨ready.updLamp fun l => { l with st := 3 }, t0, trivial, by decide +kernel⟩,
   ⟨⟨0, 0, t0⟩, ready.updLamp fun l => { l with st := 3, windows := [⟨0, 0, t0⟩] }, t0, trivial, by decide +kernel⟩⟩

/-- The hypotheses of PipelineCommandsComplete are met. -/
theorem test_wit_pipeline_commands_complete :
  (Able 0x3000 (fun b c =>
      let p := u8 c.payload 0
      p < b.nPipes && !(b.pipe p).slots.isEmpty && !b.pipeCfgBad p &&
        !((List.range b.nPipes).any fun q => (b.pipe q).run && b.rg P.PIPE_SRC_PORT q = b.rg P.PIPE_SRC_PORT p &&
          Nat.land (b.rg P.PIPE_VC_MASK q) (b.rg P.PIPE_VC_MASK p) ≠ 0) &&
        (b.rg P.PIPE_SHADE_ACC p = noAcc || (b.loanCheck (b.rg P.PIPE_SHADE_ACC p)).isNone))) ∧
  (Able 0x3001 (fun b c => u8 c.payload 0 < b.nPipes && u8 c.payload 1 = 1)) ∧
  (Able 0x3001 (fun b c => u8 c.payload 0 < b.nPipes && u8 c.payload 1 = 0 && (b.pipe (u8 c.payload 0)).run)) ∧
  (Able 0x3001 (fun b c => u8 c.payload 0 < b.nPipes && u8 c.payload 1 = 0 && !(b.pipe (u8 c.payload 0)).run)) ∧
  (Able 0x3003 (fun b c => u8 c.payload 0 < b.nPipes)) ∧
  (Able 0x3004 (fun b c =>
      let p := u8 c.payload 0
      let k := u8 c.payload 1
      p < b.nPipes && 1 ≤ k && k ≤ 32 && c.payload.length = 4 + 8 * k &&
        (List.range k).all fun i => (commitWrite (c.payload.drop (4 + 8 * i))).isSome)) ∧
  (Able 0x3005 (fun b c => u8 c.payload 0 < b.nPipes && u8 c.payload 1 ≤ 127 && u8 c.payload 2 ≤ 16 && u8 c.payload 3 ≤ 16)) ∧
  (Able 0x3006 (fun b c => u8 c.payload 0 < b.nPipes)) ∧
  (Able 0x3002 (fun b c =>
      let p := u8 c.payload 0
      let k := u8 c.payload 1
      let deflate := bit (u8 c.payload 2) 0
      let size (a : Nat) : Nat := ((b.acc? a).map (·.size)).getD 0
      let at_ (i : Nat) : Nat := u32 c.payload (8 + 4 * i)
      p < b.nPipes && 1 ≤ k && k ≤ 16 && c.payload.length = 8 + 12 * k && !(b.pipe p).run &&
        (b.loanCheck (u32 c.payload 4)).isNone && accPool (u32 c.payload 4) = 6 && 8192 ≤ size (u32 c.payload 4) &&
        (List.range k).all fun i =>
          (b.loanCheck (at_ (3 * i))).isNone && (b.loanCheck (at_ (3 * i + 1))).isNone &&
          accPool (at_ (3 * i)) = 2 && accPool (at_ (3 * i + 1)) = 3 && b.frameBytes p ≤ size (at_ (3 * i)) && 3168 ≤ size (at_ (3 * i + 1)) &&
          (!deflate || ((b.loanCheck (at_ (3 * i + 2))).isNone && accPool (at_ (3 * i + 2)) = 2)))) :=
  ⟨⟨withAccs ((ready.updPipe 7 fun q => { q with slots := [⟨0x02000000, 0x03000000, noAcc, 0⟩] }).setRg P.PIPE_TRIG_PERIOD 7 1000000) [(0x02000000, accn 16777216)], pk 26 ([7, 0, 0, 0]), 0, by decide +kernel⟩,
   ⟨ready.updPipe 7 fun q => { q with run := true }, pk 26 ([7, 1, 0, 0]), 0, by decide +kernel⟩,
   ⟨ready.updPipe 7 fun q => { q with run := true }, pk 26 ([7, 0, 0, 0]), 0, by decide +kernel⟩,
   ⟨ready, pk 26 ([7, 0, 0, 0]), 0, by decide +kernel⟩,
   ⟨ready.updPipe 7 fun q => { q with slots := [⟨0x02000000, 0x03000000, noAcc, 0⟩] }, pk 26 ([7, 0, 1, 0]), 0, by decide +kernel⟩,
   ⟨ready, pk 26 ([7, 1, 0, 0] ++ [0x36, 1, 0, 0] ++ le 4 5), 0, by decide +kernel⟩,
   ⟨ready, pk 26 ([7, 127, 16, 16] ++ zeros 16), 0, by decide +kernel⟩,
   ⟨ready, pk 26 ([7, 0, 0, 0]), 0, by decide +kernel⟩,
   ⟨withAccs ready [(0x06000000, accn 8192), (0x02000000, accn 16777216), (0x03000000, accn 4096)], pk 26 ([7, 1, 0, 0] ++ le 4 0x06000000 ++ le 4 0x02000000 ++ le 4 0x03000000 ++ le 4 noAcc), 0, by decide +kernel⟩⟩

/-- The hypotheses of PipelineEventsComplete are met. -/
theorem test_wit_pipeline_events_complete :
  (∃ (port : Nat) (vc : Nat) (n : Nat) (ecc : Nat), Due (fun s => port < s.nPipes) (fun _ _ => vc < 16)) ∧
  (∃ (port : Nat) (vc : Nat) (l : CsiLine), Due (fun s => port < s.nPipes) (fun _ _ => vc < 16)) ∧
  (∃ (port : Nat) (vc : Nat) (n : Nat) (ecc : Nat), Due (fun s => port < s.nPipes) (fun _ _ => vc < 16)) ∧
  (∃ (p : Nat) (f : PFrame), Due (fun s => p < s.nPipes) (fun a _ => (a.pipe p).cur = some f && f.lastPkt + a.rg P.PIPE_FRAME_TMO p * 1000000 ≤ a.now)) ∧
  (∃ (p : Nat) (d : PDone), Due (fun s => p < s.nPipes) (fun a _ => ((a.pipe p).done.find? fun d => !d.published) = some d && (a.acc? d.accs.stats).isSome)) ∧
  (∃ (p : Nat) (d : PDone) (r : List PDone), Due (fun s => p < s.nPipes) (fun a _ => (a.pipe p).done = d :: r && d.published && !d.zip && (a.acc? d.index).isSome)) ∧
  (∃ (p : Nat) (made : Nat) (bus : Nat) (m : Commit) (r : List Commit), Due (fun s => p < s.nPipes) (fun a _ => (a.pipe p).commits = m :: r && m.begun)) ∧
  (∃ (p : Nat), Due (fun s => p < s.nPipes) (fun a _ => a.camPeriodic p a.now && a.expRuns)) ∧
  (∃ (p : Nat) (result : Nat) (data : List Byte) (x : I2cXfer) (r : List I2cXfer), Due (fun s => p < s.nPipes) (fun a _ => (a.pipe p).xfers = x :: r && x.begun && result = 0 && p ≠ 8)) ∧
  (∃ (result : Nat) (data : List Byte) (x : I2cXfer) (r : List I2cXfer), Due (fun _ => True) (fun a _ => a.lamp.xfers = x :: r && x.begun)) :=
  ⟨⟨7, 15, 1, 0, ready, t0, by decide +kernel⟩,
   ⟨7, 15, ⟨0x2B, 0, true, 4, [], false⟩, ready, t0, by decide +kernel⟩,
   ⟨7, 15, 1, 0, ready, t0, by decide +kernel⟩,
   ⟨7, ⟨0, 1, 0, none, 0, 0, [], 0, false, false, 0, 0, 0, []⟩, ready.updPipe 7 fun q => { q with run := true, cur := some ⟨0, 1, 0, none, 0, 0, [], 0, false, false, 0, 0, 0, []⟩ }, t0 + 60000000000, by decide +kernel⟩,
   ⟨7, ⟨3, 0, 0, 0, some 0, 0, 0, [], zeros 32, false, false, 0, 0x06000000, ⟨0x02000000, 0x03000000, noAcc, 0⟩, 0⟩, (withAccs ready [(0x06000000, accn 8192), (0x03000000, accn 4096)]).updPipe 7 fun q => { q with slots := [⟨0x02000000, 0x03000000, noAcc, 0⟩], done := [⟨3, 0, 0, 0, some 0, 0, 0, [], zeros 32, false, false, 0, 0x06000000, ⟨0x02000000, 0x03000000, noAcc, 0⟩, 0⟩] }, t0, by decide +kernel⟩,
   ⟨7, ⟨3, 0, 0, 0, some 0, 0, 0, [], zeros 32, true, false, 0, 0x06000000, ⟨0x02000000, 0x03000000, noAcc, 0⟩, 0⟩, [], (withAccs ready [(0x06000000, accn 8192), (0x03000000, accn 4096)]).updPipe 7 fun q => { q with slots := [⟨0x02000000, 0x03000000, noAcc, 0⟩], done := [⟨3, 0, 0, 0, some 0, 0, 0, [], zeros 32, true, false, 0, 0x06000000, ⟨0x02000000, 0x03000000, noAcc, 0⟩, 0⟩] }, t0, by decide +kernel⟩,
   ⟨7, 1, 0, theCommit, [], ready.updPipe 7 fun q => { q with gen := 1, commits := [theCommit] }, t0, by decide +kernel⟩,
   ⟨7, ((ready.setRg P.PIPE_TRIG_MODE 7 1).setRg P.PIPE_TRIG_PERIOD 7 2560).setRg P.PIPE_TRIG_PHASE 7 0, t0, by decide +kernel⟩,
   ⟨7, 0, [5], ⟨⟨0, 26, 0⟩, 0x36, [], 1, true, true⟩, [], ready.updPipe 7 fun q => { q with xfers := [⟨⟨0, 26, 0⟩, 0x36, [], 1, true, true⟩] }, t0, by decide +kernel⟩,
   ⟨1, [], ⟨⟨0, 26, 0⟩, 0x36, [], 1, true, true⟩, [], ready.updLamp fun l => { l with xfers := [⟨⟨0, 26, 0⟩, 0x36, [], 1, true, true⟩] }, t0, trivial, by decide +kernel⟩⟩

/-- The hypotheses of PipelineTakesItsChannel are met. -/
theorem test_wit_pipeline_takes_its_channel :
  ∃ (s : State) (port vc p : Nat), p ∈ s.pipesOn port vc :=
  ⟨(ready.updPipe 7 fun q => { q with run := true }).setRg P.PIPE_SRC_PORT 7 15, 15, 0, 7, by decide +kernel⟩

/-- The hypotheses of StoreCommandsComplete are met. -/
theorem test_wit_store_commands_complete :
  (Able 0x0200 (fun b c =>
      let pool := u8 c.payload 0
      let size := u32 c.payload 4
      pool ≤ 6 && pool ≠ 4 && 1 ≤ size && size ≤ 2 ^ 30 && !b.store.stopped && !b.noSpaceFor pool size)) ∧
  (∃ (a : Accn), Able 0x0201 (fun b c => b.acc? (u32 c.payload 0) = some a && accPool (u32 c.payload 0) ≠ 7 && a.state ≠ 3)) ∧
  (Able 0x0202 (fun b c =>
      let acc := u32 c.payload 0
      !b.storeParam acc (u32 c.payload 4) (c.payload.drop 8).length && !poolClosed acc && !b.storeBusy acc)) ∧
  (Able 0x0203 (fun b c =>
      let len := u32 c.payload 8
      1 ≤ len && len ≤ 16384 && !b.storeParam (u32 c.payload 0) (u32 c.payload 4) len &&
        (b.firstPoison (u32 c.payload 0) (u32 c.payload 4) len).isNone)) ∧
  (Able 0x0204 (fun b c =>
      let acc := u32 c.payload 0
      !b.storeParam acc (u32 c.payload 4) (u32 c.payload 8) && !poolClosed acc && !b.storeBusy acc && (c.twin || b.onPcie c))) ∧
  (Able 0x0205 (fun b c => !b.storeParam (u32 c.payload 0) (u32 c.payload 4) (u32 c.payload 8) && (c.twin || b.onPcie c))) ∧
  (∃ (a : Accn), Able 0x0206 (fun b c => b.acc? (u32 c.payload 0) = some a)) ∧
  (∃ (a : Accn), Able 0x0207 (fun b c =>
      let acc := u32 c.payload 0
      b.acc? acc = some a && u8 c.payload 4 = 1 && accPool acc = 5 && a.state = 0 && !a.pinned && !(b.store.pins.any fun j => j.acc = acc) &&
        (b.loanCheck acc).isNone && a.granules * 4096 ≤ b.pinFree)) :=
  ⟨⟨ready, pk 27 ([6, 0, 0, 0] ++ le 4 4097), 0, by decide +kernel⟩,
   ⟨accn 4096, withAccs ready [(0x06000000, accn 4096)], pk 27 (le 4 0x06000000), 0, by decide +kernel⟩,
   ⟨withAccs ready [(0x06000000, accn 4096)], pk 27 (le 4 0x06000000 ++ le 4 4095 ++ [1]), 0, by decide +kernel⟩,
   ⟨withAccs ready [(0x06000000, accn 4096)], pk 27 (le 4 0x06000000 ++ le 4 4095 ++ le 4 1), 0, by decide +kernel⟩,
   ⟨withAccs ready [(0x06000000, accn 4096)], pk 27 (le 4 0x06000000 ++ le 4 0 ++ le 4 4096 ++ zeros 4 ++ le 8 0), 0, by decide +kernel⟩,
   ⟨withAccs ready [(0x06000000, accn 4096)], pk 27 (le 4 0x06000000 ++ le 4 0 ++ le 4 4096 ++ zeros 4 ++ le 8 0), 0, by decide +kernel⟩,
   ⟨accn 4096, withAccs ready [(0x06000000, accn 4096)], pk 27 (le 4 0x06000000), 0, by decide +kernel⟩,
   ⟨accn 4096, (withAccs ready [(0x05000000, accn 4096)]).setRg P.SF_PIN_P5 0 1, pk 27 (le 4 0x05000000 ++ [1, 0, 0, 0]), 0, by decide +kernel⟩⟩

/-- The hypotheses of StoreEventsComplete are met. -/
theorem test_wit_store_events_complete :
  (∃ (acc : Nat) (x : Accn), Due (fun _ => True) (fun a _ => a.acc? acc = some x && 1 ≤ x.loans && x.state ≠ 3)) ∧
  (∃ (acc : Nat) (x : Accn), Due (fun _ => True) (fun a _ => a.acc? acc = some x && x.loans = 1 && x.state = 3)) ∧
  (∃ (acc : Nat) (off : Nat) (q : Requester), Due (fun _ => True) (fun a _ => (a.acc? acc).isSome && !a.frontOnly acc && (a.firstPoison acc (off / 64 * 64) 64).isNone)) ∧
  (∃ (acc : Nat) (off : Nat) (q : Requester), Due (fun _ => True) (fun a _ => (a.acc? acc).isSome && !a.frontOnly acc && (a.firstPoison acc (off / 64 * 64) 64).isNone)) ∧
  (∃ (r : Nat) (commands : Nat) (attempts : Nat) (stall : Nat), Due (fun _ => True) (fun a _ => r < 4 && (a.rank r).state ≤ 1)) ∧
  (∃ (r : Nat) (waiting : Bool), Due (fun _ => True) (fun a _ => r < 4 && (a.rank r).state ≤ 1 && (a.rank r).refDue ≤ a.now && waiting && (a.rank r).postponed < 8)) ∧
  (∃ (r : Nat) (waiting : Bool), Due (fun _ => True) (fun a _ => r < 4 && (a.rank r).state ≤ 1 && (a.rank r).refDue ≤ a.now && (!waiting || 8 ≤ (a.rank r).postponed))) ∧
  (∃ (r : Nat) (bank : Nat) (row : Nat), Due (fun _ => True) (fun a _ => r < 4 && bank < 8 && row < 65536 && (a.rank r).state ≤ 1)) ∧
  (∃ (ch : Nat), Due (fun _ => True) (fun a _ => ch < 2 && a.store.rhAt.getD ch 0 + a.rg P.DDR_RH_WIN ch * 1000000 ≤ a.now)) ∧
  (∃ (r : Nat) (bank : Nat), Due (fun _ => True) (fun a _ => r < 4 && bank < 8 && (a.rank r).used.getD bank 0 + a.rg P.DDR_PAGE_IDLE (r / 2) ≤ a.now)) ∧
  (∃ (r : Nat), Due (fun _ => True) (fun a _ => r < 4 && (a.rank r).state = 0 && (a.rank r).lastUse + a.rg P.DDR_RANK_PD (r / 2) ≤ a.now)) ∧
  (∃ (moved : Nat) (data : List Byte) (j : StoreJob) (r : List StoreJob), Due (fun _ => True) (fun a _ => a.store.dma = j :: r && j.inward && (a.acc? j.acc).isSome)) ∧
  (∃ (j : StoreJob) (r : List StoreJob), Due (fun _ => True) (fun a _ => a.store.pins = j :: r)) :=
  ⟨⟨0x06000000, { accn 4096 with loans := 1 }, withAccs ready [(0x06000000, { accn 4096 with loans := 1 })], t0, trivial, by decide +kernel⟩,
   ⟨0x06000000, { accn 4096 with loans := 1, state := 3 }, withAccs ready [(0x06000000, { accn 4096 with loans := 1, state := 3 })], t0, trivial, by decide +kernel⟩,
   ⟨0x06000000, 4095, .front, withAccs ready [(0x06000000, accn 4096)], t0, trivial, by decide +kernel⟩,
   ⟨0x06000000, 4095, .front, withAccs ready [(0x06000000, accn 4096)], t0, trivial, by decide +kernel⟩,
   ⟨3, 1, 1, 1, ready, t0, trivial, by decide +kernel⟩,
   ⟨3, true, ready, t0, trivial, by decide +kernel⟩,
   ⟨3, true, ready.updRank 3 fun x => { x with postponed := 8 }, t0, trivial, by decide +kernel⟩,
   ⟨3, 7, 65535, ready, t0, trivial, by decide +kernel⟩,
   ⟨1, ready, t0 + 600000000000, trivial, by decide +kernel⟩,
   ⟨3, 7, ready, t0 + 60000000000, trivial, by decide +kernel⟩,
   ⟨3, ready, t0 + 60000000000, trivial, by decide +kernel⟩,
   ⟨4, [1, 2, 3, 4], ⟨0, 27, 0, 0x06000000, 0, 4, 0, true⟩, [], (withAccs ready [(0x06000000, accn 4096)]).updStore fun st => { st with dma := [⟨0, 27, 0, 0x06000000, 0, 4, 0, true⟩] }, t0, trivial, by decide +kernel⟩,
   ⟨⟨0, 27, 0, 0x06000000, 0, 4, 0, true⟩, [], (withAccs ready [(0x06000000, accn 4096)]).updStore fun st => { st with pins := [⟨0, 27, 0, 0x06000000, 0, 4, 0, true⟩] }, t0, trivial, by decide +kernel⟩⟩

/-- The hypotheses of CompressionCompletes are met. -/
theorem test_wit_compression_completes :
  (Able 0x4000 (fun b c =>
      let p := c.payload
      u8 p 0 ≤ 2 && u8 p 1 ≤ 1 && u8 p 2 ≤ 1 && (b.zipBad false (u32 p 4) (u32 p 8) (u32 p 12) (u32 p 16) (u32 p 20)).isNone)) ∧
  (Able 0x4001 (fun b c =>
      let p := c.payload
      u8 p 0 ≤ 2 && (b.zipBad false (u32 p 4) (u32 p 8) (u32 p 12) (u32 p 16) (u32 p 20)).isNone)) ∧
  (∃ (e : Nat) (j : ZipJob), Due (fun _ => True) (fun a _ => e < 3 && (a.zip e).running = some j)) :=
  ⟨⟨withAccs ready [(0x06000000, accn 4096), (0x06000001, accn 4096)], pk 27 ([0, 0, 1, 0] ++ le 4 0x06000000 ++ le 4 0 ++ le 4 4096 ++ le 4 0x06000001 ++ le 4 noAcc), 0, by decide +kernel⟩,
   ⟨withAccs ready [(0x06000000, accn 4096), (0x06000001, accn 4096)], pk 27 ([1, 0, 0, 0] ++ le 4 0x06000000 ++ le 4 0 ++ le 4 4096 ++ le 4 0x06000001 ++ le 4 noAcc), 0, by decide +kernel⟩,
   ⟨2, ⟨0, 0, 27, 0, 0, true, 0x06000000, 0, 4096, 0x06000001, noAcc, 0, none⟩, (withAccs ready [(0x06000000, accn 4096), (0x06000001, accn 4096)]).updZip 2 fun z => { z with running := some ⟨0, 0, 27, 0, 0, true, 0x06000000, 0, 4096, 0x06000001, noAcc, 0, none⟩ }, t0, trivial, by decide +kernel⟩⟩

/-- The hypotheses of StoreReadsBack are met. -/
theorem test_wit_store_reads_back :
  (∃ (acc off : Nat) (data : List Byte) (acc' off' : Nat), memKey acc' off' < memKey acc off ∧ data ≠ []) ∧
  ∃ (acc off : Nat) (data : List Byte) (acc' off' : Nat), memKey acc off + data.length ≤ memKey acc' off' ∧ data ≠ [] :=
  ⟨⟨0x06000000, 4, [1, 2], 0x06000000, 3, by decide⟩, 0x06000000, 4, [1, 2], 0x06000000, 6, by decide⟩

/-- The hypotheses of StoreStaysCanonical are met. -/
theorem test_wit_store_stays_canonical :
  ∃ s : State, Memory.wf s.store.mem = true ∧ s.store.mem ≠ [] :=
  ⟨ready.memWrite 0x06000000 0 [1, 2], by decide +kernel⟩

/-- The hypotheses of TimeCommandsComplete are met. -/
theorem test_wit_time_commands_complete :
  (Able 0x5000 (fun _ _ => true)) ∧
  (Able 0x5001 (fun b c => b.rg P.TIME_SRC 0 = 0 && b.power.state ≠ 4 && b.twin.state ≠ 3 && 0 ≤ tsDiff (u64 c.payload 0) b.now)) ∧
  (Able 0x5002 (fun b c =>
      let p := c.payload
      let len := u16 p 2
      u8 p 0 ≤ 2 && 60 ≤ len && len ≤ (if b.rg P.ETH_JUMBO (u8 p 0) = 1 then 9014 else 1514) && p.length = 16 + len &&
        5000 ≤ tsDiff (u64 p 8) c.stamp && tsDiff (u64 p 8) c.stamp ≤ 60000000000)) ∧
  (Able 0x5003 (fun _ c => u8 c.payload 0 ≤ 2)) ∧
  (Able 0x5010 (fun _ _ => true)) ∧
  (Able 0x5011 (fun _ c => 1 ≤ u32 c.payload 4 && u32 c.payload 4 ≤ 64)) ∧
  (∃ (g : CatSeg) (a : Accn), Able 0x5012 (fun b c => (b.catListed.find? fun g => g.number = u32 c.payload 0) = some g && b.acc? g.acc = some a && a.state ≠ 3 && a.loans = 0)) ∧
  (AbleManage (fun q => q = P.TIME_SRC)) :=
  ⟨⟨ready, pk 0 ([]), 0, by decide +kernel⟩,
   ⟨ready, pk 0 (le 8 (t0 + 1000000)), 0, by decide +kernel⟩,
   ⟨ready, pk 0 ([2, 0] ++ le 2 60 ++ le 4 9 ++ le 8 (t0 + 5000) ++ zeros 60), 0, by decide +kernel⟩,
   ⟨ready, pk 0 ([2, 0, 0, 0]), 0, by decide +kernel⟩,
   ⟨ready, pk 0 ([]), 0, by decide +kernel⟩,
   ⟨ready, pk 0 (le 4 0 ++ le 4 64), 0, by decide +kernel⟩,
   ⟨⟨1, 0x04000000, [], 0, 0, some 5, none, none, false⟩, accn 4096, (withAccs ready [(0x04000000, accn 4096)]).updLog fun l => { l with segs := [⟨1, 0x04000000, [], 0, 0, some 5, none, none, false⟩] }, pk 0 (le 4 1), 0, by decide +kernel⟩,
   ⟨ready, pk 0 (write P.TIME_SRC 3), 0, by decide +kernel⟩⟩

/-- The hypotheses of ServoEventsComplete are met. -/
theorem test_wit_servo_events_complete :
  (∃ (th : Int) (per : Nat) (r : List (Int × Nat)), Due (fun _ => True) (fun a _ => a.time.offers = (th, per) :: r)) ∧
  (Due (fun _ => True) (fun a _ => a.time.st = 2 && a.servoSrc ≠ 0 && a.time.lastAt + a.rg P.TIME_HOLD_TMO 0 * 1000000 ≤ a.now)) ∧
  (∃ (q : StepReq) (v : TS), Due (fun _ => True) (fun a _ => a.time.step = some q && q.held && a.power.state ≠ 4 && a.now % 2560 = 0 && q.dest = some v)) ∧
  (∃ (k : Nat) (rising : Bool), Due (fun _ => True) (fun a _ => k < 2 && rising != bit (a.rg P.TIME_PPS_IN_EDGE 0) k)) ∧
  (∃ (k : Nat), Due (fun _ => True) (fun a _ => k < 2 && a.rg (P.TIME_PPS_OUT_MODE + k) 0 = 1 && a.now % 1000000000 = 0)) ∧
  (∃ (k : Nat), Due (fun _ => True) (fun a _ => k < 2 && a.rg (P.TIME_PPS_OUT_MODE + k) 0 = 2 && a.now % a.rg P.TIME_PPS_PERIOD 0 = 0)) ∧
  (∃ (t1 : Nat) (t2 : Nat) (t3 : Nat) (t4 : Nat), Due (fun _ => True) (fun a _ => a.twin.state = 3)) ∧
  (∃ (b : Bool), Due (fun _ => True) (fun a _ => !a.time.twinRef)) ∧
  (∃ (p : Nat) (ip : Bool) (m : List Byte), Due (fun _ => True) (fun _ _ => p < 3)) ∧
  (∃ (p : Nat), Due (fun _ => True) (fun a _ => p < 3 && a.ptpOn p && (a.ptp p).state = 6)) ∧
  (∃ (p : Nat), Due (fun _ => True) (fun a _ => p < 3 && a.ptpOn p && (a.ptp p).state = 5)) ∧
  (∃ (p : Nat) (k : PtpTimer), Due (fun _ => True) (fun a _ => p < 3 && !a.ptpOn p)) :=
  ⟨⟨5, 1000, [], ready.updTime fun t => { t with offers := [(5, 1000)] }, t0, trivial, by decide +kernel⟩,
   ⟨(ready.updTime fun t => { t with st := 2 }).setReg P.TIME_SRC 2, t0 + 600000000000, trivial, by decide +kernel⟩,
   ⟨⟨2560, some (t0 + 2560), none, 2, true, none⟩, t0 + 2560, ready.updTime fun t => { t with step := some ⟨2560, some (t0 + 2560), none, 2, true, none⟩ }, t0, trivial, by decide +kernel⟩,
   ⟨1, true, ready, t0, trivial, by decide +kernel⟩,
   ⟨1, ready.setRg (P.TIME_PPS_OUT_MODE + 1) 0 1, 1000000000, trivial, by decide +kernel⟩,
   ⟨1, (ready.setRg (P.TIME_PPS_OUT_MODE + 1) 0 2).setRg P.TIME_PPS_PERIOD 0 2560, t0, trivial, by decide +kernel⟩,
   ⟨0, 10, 20, 30, ready.updTwin fun t => { t with paired := true, state := 3, own := false, partner := 2 }, t0, trivial, by decide +kernel⟩,
   ⟨true, ready, t0, trivial, by decide +kernel⟩,
   ⟨2, true, [], ready, t0, trivial, by decide +kernel⟩,
   ⟨1, (((ready.setRg P.PTP_ENABLE 1 1).setRg P.TIME_PTP_MODE 0 2).updHost fun h => { h with ethUp := [false, true, false] }).updPtp 1 fun q => { q with state := 6 }, t0, trivial, by decide +kernel⟩,
   ⟨1, (((ready.setRg P.PTP_ENABLE 1 1).setRg P.TIME_PTP_MODE 0 2).updHost fun h => { h with ethUp := [false, true, false] }).updPtp 1 fun q => { q with state := 5 }, t0, trivial, by decide +kernel⟩,
   ⟨2, .receipt, ready, t0, trivial, by decide +kernel⟩⟩

/-- The hypotheses of TimeEventsComplete are met. -/
theorem test_wit_time_events_complete :
  (∃ (p : Nat) (l : Launch) (r : List Launch), Due (fun _ => True) (fun a _ => p < 3 && a.launchesOf p = l :: r && l.due ≤ a.now && a.twin.own && a.host.ethUp.getD p false &&
      a.time.lineFree.getD p 0 ≤ a.now && a.now ≤ l.due + a.rg P.TIME_LATE_MAX 0)) ∧
  (∃ (p : Nat) (l : Launch) (r : List Launch), Due (fun _ => True) (fun a _ => p < 3 && a.launchesOf p = l :: r && a.twin.own && l.due + a.rg P.TIME_LATE_MAX 0 < a.now)) ∧
  (∃ (g : CatSeg), Due (fun _ => True) (fun a _ => a.log.openSeg = some g && g.firstAt + a.rg P.CAT_SEAL_MS 0 * 1000000 ≤ a.now)) ∧
  (Due (fun _ => True) (fun a _ => a.rg P.CAT_SUM_FR 0 ≠ 0 && a.now % 2560 = 0 && (a.now / 2560) % a.rg P.CAT_SUM_FR 0 = 0)) ∧
  (∃ (i : Nat), Due (fun _ => True) (fun _ _ => i < 16)) ∧
  (∃ (i : Nat), Due (fun _ => True) (fun _ _ => i < 16)) ∧
  (∃ (i : Nat) (rising : Bool), DueStopped (fun _ _ => i < 16)) ∧
  (∃ (p : Nat) (on : Bool) (speed : Nat), Due (fun _ => True) (fun _ _ => p < 3)) ∧
  (∃ (p : Nat) (mac : Nat) (ip : Nat), Due (fun _ => True) (fun a _ => p < 3 && !a.power.recovery && a.rg P.ETH_IPV4 p = 0xC0A80001 && !a.macHeld p 42)) :=
  ⟨⟨2, ⟨9, t0, zeros 60, 0, 0, 0⟩, [], (ready.updHost fun h => { h with ethUp := [true, true, true] }).updTime fun t => { t with launches := [[], [], [⟨9, t0, zeros 60, 0, 0, 0⟩]] }, t0, trivial, by decide +kernel⟩,
   ⟨2, ⟨9, t0, zeros 60, 0, 0, 0⟩, [], (ready.updHost fun h => { h with ethUp := [true, true, true] }).updTime fun t => { t with launches := [[], [], [⟨9, t0, zeros 60, 0, 0, 0⟩]] }, t0 + 60000000000, trivial, by decide +kernel⟩,
   ⟨⟨1, 0x04000000, [], 0, 0, none, none, none, false⟩, ready.updLog fun l => { l with openSeg := some ⟨1, 0x04000000, [], 0, 0, none, none, none, false⟩ }, t0 + 6000000000000, trivial, by decide +kernel⟩,
   ⟨ready.setRg P.CAT_SUM_FR 0 1, t0, trivial, by decide +kernel⟩,
   ⟨15, ready, t0, trivial, by decide +kernel⟩,
   ⟨15, ready, t0, trivial, by decide +kernel⟩,
   ⟨15, true, (ready.updPower fun p => { p with state := 1 }), t0, by decide +kernel⟩,
   ⟨2, true, 1, ready, t0, trivial, by decide +kernel⟩,
   ⟨2, 5, 0xC0A80002, ready.setRg P.ETH_IPV4 2 0xC0A80001, t0, trivial, by decide +kernel⟩⟩

/-- The hypotheses of TwinCompletes are met. -/
theorem test_wit_twin_completes :
  (Able 0x6000 (fun _ _ => true)) ∧
  (∃ (s : State) (p : Packet) (i : Nat), s.takesHeld 0x6001 p i = true) ∧
  (∃ (b : State) (c : Ctx), c.op = 0x6001 ∧ b.checkBad c = none ∧ b.settledPair = true ∧ b.switchQuiet = true) ∧
  (∃ (s : State) (p : Packet) (i : Nat), s.takes 0x6002 p i = true ∧ seizeAble (s.begun 0x6002 p i) (s.ctxOf 0x6002 p i) = true) ∧
  (∃ (s : State) (p : Packet) (i : Nat), s.takesHeld 0x6003 p i = true) ∧
  (∃ (b : State) (c : Ctx), c.op = 0x6003 ∧ b.checkBad c = none ∧ b.settledPair = true) ∧
  (∃ (h : Hello), Due (fun _ => True) (fun a _ => !a.twin.paired)) ∧
  (∃ (h : Hello), Due (fun _ => True) (fun a _ => a.twin.paired)) ∧
  (Due (fun _ => True) (fun a _ => a.twin.state = 1 && a.twin.paired && !a.killed && !a.twin.mismatch &&
      a.twin.negAt + (a.rg P.TWIN_NEG_TMO 0 * 1000000 + (if a.straps.roleB then 500000000 else 0)) ≤ a.now)) ∧
  (∃ (h : TS), Due (fun _ => True) (fun a _ => a.twin.hbAt = some h && h + a.rg P.TWIN_HB_TMO 0 * 1000 ≤ a.now && a.twin.state = 3)) ∧
  (Due (fun _ => True) (fun a _ => a.inPair && a.twin.state = 2)) ∧
  (Due (fun _ => True) (fun a _ => !a.inPair)) ∧
  (Due (fun _ => True) (fun a _ => !a.inPair)) ∧
  (Due (fun _ => True) (fun a _ => a.inPair && a.twin.state = 3 && !a.twin.own && (a.straps.roleB || a.twin.takeD.isNone))) ∧
  (Due (fun _ => True) (fun _ _ => true)) ∧
  (Due (fun _ => True) (fun _ _ => true)) ∧
  (Due (fun _ => True) (fun a _ => a.twin.takeD.isSome && a.twin.takeB.isNone)) ∧
  (∃ (d : TS), Due (fun _ => True) (fun a _ => a.twin.takeD = some d && a.twin.takeB.isNone && d + 2000 ≤ a.now)) ∧
  (∃ (d : TS) (b : TS), Due (fun _ => True) (fun a _ => a.twin.takeD = some d && a.twin.takeB = some b && b ≤ a.now && !a.killed)) ∧
  (Due (fun _ => True) (fun a _ => a.twin.heard && a.twin.heardAt + a.rg P.TWIN_LINK_TMO 0 * 1000 ≤ a.now && a.twin.state = 2)) :=
  ⟨⟨ready, pk 0 ([]), 0, by decide +kernel⟩,
   ⟨paired, pk 0 [], 0, by decide +kernel⟩,
   ⟨paired, paired.ctxOf 0x6001 (pk 0 []) 0, by decide +kernel⟩,
   ⟨seizing, tagged [0x53, 0], 1, seize_taken, seize_able⟩,
   ⟨paired, pk 0 [], 0, by decide +kernel⟩,
   ⟨paired, paired.ctxOf 0x6003 (pk 0 []) 0, by decide +kernel⟩,
   ⟨⟨0x2460, true, 1, 1, 0⟩, ready, t0, trivial, by decide +kernel⟩,
   ⟨⟨0x2460, true, 1, 1, 0⟩, (ready.updTwin fun t => { t with paired := true, state := 2, partner := 3, linkUp := true, heard := true }), t0, trivial, by decide +kernel⟩,
   ⟨ready.updTwin fun t => { t with paired := true, state := 1, own := false }, t0 + 60000000000, trivial, by decide +kernel⟩,
   ⟨t0, (ready.updTwin fun t => { t with paired := true, state := 3, partner := 2, own := false, hbAt := some t0 }), t0 + 60000000000, trivial, by decide +kernel⟩,
   ⟨(ready.updTwin fun t => { t with paired := true, state := 2, partner := 3, linkUp := true, heard := true }), t0, trivial, by decide +kernel⟩,
   ⟨ready, t0, trivial, by decide +kernel⟩,
   ⟨ready, t0, trivial, by decide +kernel⟩,
   ⟨(ready.updTwin fun t => { t with paired := true, state := 3, partner := 2, own := false }), t0, trivial, by decide +kernel⟩,
   ⟨ready, t0, trivial, by decide +kernel⟩,
   ⟨ready, t0, trivial, by decide +kernel⟩,
   ⟨(ready.updTwin fun t => { t with paired := true, state := 3, partner := 2, own := false, takeD := some t0 }), t0, trivial, by decide +kernel⟩,
   ⟨t0, (ready.updTwin fun t => { t with paired := true, state := 3, partner := 2, own := false, takeD := some t0 }), t0 + 2000, trivial, by decide +kernel⟩,
   ⟨t0, t0, (ready.updTwin fun t => { t with paired := true, state := 3, partner := 2, own := false, takeD := some t0, takeB := some t0 }), t0, trivial, by decide +kernel⟩,
   ⟨(ready.updTwin fun t => { t with paired := true, state := 2, partner := 3, linkUp := true, heard := true }), t0 + 60000000000, trivial, by decide +kernel⟩⟩

/-- The hypotheses of TwinTrafficCompletes are met. -/
theorem test_wit_twin_traffic_completes :
  (∃ (stream : Nat) (seq : Nat) (op : Nat) (flags : Nat) (acc : TS) (payload : List Byte), Due (fun _ => True) (fun a _ => a.follows && stream ≤ 31)) ∧
  (∃ (stream : Nat) (seq : Nat) (op : Nat) (flags : Nat) (result : Nat) (acc : TS) (eff : TS) (payload : List Byte), Due (fun _ => True) (fun a _ => a.follows && stream ≤ 31)) ∧
  (∃ (stream : Nat) (seq : Nat), Due (fun _ => True) (fun _ _ => true)) ∧
  (Due (fun _ => True) (fun a _ => 2 ≤ a.twin.state && a.twin.state ≤ 4 && a.now = a.tick && a.frameNo % 1024 = 0)) ∧
  (Due (fun _ => True) (fun a _ => a.twin.state = 2 && a.twin.partner = 4)) ∧
  (∃ (c : Copy), Due (fun _ => True) (fun a _ => c.boundary ≤ a.now && a.twin.state = 4)) ∧
  (Due (fun _ => True) (fun a _ => a.twin.state = 4 && a.twin.reBegan + a.rg P.TWIN_RESYNC_TMO 0 * 1000000 ≤ a.now && a.twin.reAttempt < 3)) ∧
  (∃ (r : Rec), Due (fun _ => True) (fun a _ => r.code ≠ 0x5005 && !(a.log.recs.any fun q => q.src = r.src && q.seq = r.seq && q.powerups = r.powerups))) :=
  ⟨⟨31, 0, 0, 0, t0, [], (ready.updTwin fun t => { t with paired := true, state := 3, partner := 2, own := false }), t0, trivial, by decide +kernel⟩,
   ⟨31, 0, 0, 0, 0, t0, t0, [], (ready.updTwin fun t => { t with paired := true, state := 3, partner := 2, own := false }), t0, trivial, by decide +kernel⟩,
   ⟨31, 0, ready, t0, trivial, by decide +kernel⟩,
   ⟨{ (ready.updTwin fun t => { t with paired := true, state := 2, partner := 3, linkUp := true, heard := true }) with frameNo := 1024, now := 1024 * 2560, tick := 1024 * 2560 }, t0, trivial, by decide +kernel⟩,
   ⟨(ready.updTwin fun t => { t with paired := true, state := 2, partner := 4, linkUp := true, heard := true }), t0, trivial, by decide +kernel⟩,
   ⟨⟨t0, 0, [], [], cnsReset, galReset, [], motReset, [], lampReset, sessionReset, [], [], 0, [], [], [], [], [], []⟩, ready.updTwin fun t => { t with paired := true, state := 4, partner := 2, own := false }, t0, trivial, by decide +kernel⟩,
   ⟨ready.updTwin fun t => { t with paired := true, state := 4, partner := 2, own := false }, t0 + 600000000000, trivial, by decide +kernel⟩,
   ⟨⟨t0, 0, 0, 0x1000, 0x1005, 1, 0, 0, zeros 24, 0, 0⟩, ready, t0, trivial, by decide +kernel⟩⟩

/-- The hypotheses of LogCommandsComplete are met. -/
theorem test_wit_log_commands_complete :
  (Able 0x7000 (fun _ c => 1 ≤ u32 c.payload 4 && u32 c.payload 4 ≤ 255)) ∧
  (Able 0x7001 (fun b c => u32 c.payload 0 ≤ b.log.head)) ∧
  (Able 0x7002 (fun _ _ => true)) ∧
  (∃ (s : State) (p : Packet) (i : Nat), s.takes 0x7003 p i = true ∧ clearAble (s.begun 0x7003 p i) (s.ctxOf 0x7003 p i) = true) ∧
  (Able 0x7010 (fun b c =>
      let slot := u8 c.payload 0
      let level := u8 c.payload 1
      (b.session c.sess).level = 2 && slot ≤ 7 && level ≤ 2 &&
        (level = 2 || (List.range 8).any fun i => i ≠ slot && ((b.mram.keys[i]?.map (·.level)).getD 0) = 2))) ∧
  (Able 0x7011 (fun _ _ => true)) ∧
  (Able 0x7020 (fun _ _ => true)) ∧
  (Able 0x7021 (fun b c => 1 ≤ u8 c.payload 0 && u8 c.payload 0 ≤ 4 && !b.stopCauseStays (u8 c.payload 0) &&
      !(b.faults.any fun f => f.src = b.srcPath (u8 c.payload 0) 0xF 0xFF && f.cls = clsStop))) ∧
  (Able 0x7021 (fun b c => 1 ≤ u8 c.payload 0 && u8 c.payload 0 ≤ 3 &&
      b.faults.any fun f => f.src = b.srcPath (u8 c.payload 0) 0xF 0xFF && f.cls = clsStop)) ∧
  (Due (fun _ => True) (fun _ _ => true)) :=
  ⟨⟨ready, pk 0 (le 4 0 ++ le 4 255), 0, by decide +kernel⟩,
   ⟨ready, pk 0 (le 4 0), 0, by decide +kernel⟩,
   ⟨ready, pk 0 ([]), 0, by decide +kernel⟩,
   ⟨nonced ready true 0, tagged [0x4C, 0], 0, clear_taken, clear_able⟩,
   ⟨ready, pk 0 ([7, 2, 0, 0] ++ zeros 32), 0, by decide +kernel⟩,
   ⟨ready, pk 0 ([]), 0, by decide +kernel⟩,
   ⟨ready, pk 0 ([]), 0, by decide +kernel⟩,
   ⟨ready, pk 0 ([4, 0, 0, 0]), 0, by decide +kernel⟩,
   ⟨{ ready with faults := [⟨0x1FFF, clsStop, 0x7001, 0, true⟩] }, pk 0 ([1, 0, 0, 0]), 0, by decide +kernel⟩,
   ⟨ready, t0, trivial, by decide +kernel⟩⟩

/-- The hypotheses of RecordsAreInSequence are met. -/
theorem test_wit_records_are_in_sequence :
  ∃ code, isCatalogue code = true :=
  ⟨0x1006, by decide +kernel⟩

/-- The hypotheses of DocentCompletes are met. -/
theorem test_wit_docent_completes :
  (Able 0x7F00 (fun _ _ => true)) ∧
  (Able 0x7F01 (fun b c => b.doc.stackH.head? = some (u16 c.payload 0) && !bit c.flags 2)) ∧
  (Able 0x7F01 (fun b c => b.doc.stackH.head? = some (u16 c.payload 0) && bit c.flags 2)) ∧
  (∃ (id : Nat), 1 ≤ id ∧ id < 512 ∧ AbleManage (fun q => q = P.DOC_SRC + id)) ∧
  (AbleManage (fun q => q = P.DOC_SOFT)) ∧
  (AbleManage (fun q => q = P.DOC_DIS)) ∧
  (∃ (act : FwAct), Due (fun _ => True) (fun _ _ => true)) :=
  ⟨⟨ready, pk 0 ([]), 0, by decide +kernel⟩,
   ⟨{ ready with doc := { docReset with stackH := [5] } }, pk 0 (le 2 5 ++ zeros 2), 0, by decide +kernel⟩,
   ⟨{ ready with doc := { docReset with stackH := [5] } }, { pk 0 (le 2 5 ++ zeros 2) with flags := 4 }, 0, by decide +kernel⟩,
   ⟨26, by decide +kernel, by decide +kernel, ready, pk 0 (write (P.DOC_SRC + 26) 0x11), 0, by decide +kernel⟩,
   ⟨ready, pk 0 (write P.DOC_SOFT 0x8001), 0, by decide +kernel⟩,
   ⟨ready, pk 0 (write P.DOC_DIS 1), 0, by decide +kernel⟩,
   ⟨.enter, ready, t0, trivial, by decide +kernel⟩⟩

/-- The hypotheses of ManagementWritesComplete are met. -/
theorem test_wit_management_writes_complete :
  (AbleManage (fun q => q = P.IO_GPO)) ∧
  (AbleManage (fun q => q = P.SYS_PRESET_SAVE)) ∧
  (AbleManage (fun q => q = P.SYS_PRESET_FACTORY)) ∧
  (∃ (e : Nat), 1 ≤ e ∧ e ≤ 255 ∧ AbleManage (fun q => q = P.CAL_ENTRY + e)) ∧
  (AbleManage (fun q => q = P.CAL_EXPORT)) ∧
  (Able 0x0101 (fun b x => b.mayWrite x && u32 x.payload 0 = P.SYS_FW_LOAD && !(!b.power.recovery && b.power.fwRun = u32 x.payload 4))) ∧
  (∃ (j : FwJob) (img : FwSlot), Due (fun _ => True) (fun a _ => a.power.fwJob = some j && (if j.img.isSome then j.img else a.fwImage j.acc) = some img)) ∧
  (∃ (j : FwJob), Due (fun _ => True) (fun a _ => a.power.fwJob = some j && j.img.isNone && accPool j.acc ≠ 6)) :=
  ⟨⟨ready, pk 0 (write P.IO_GPO 0xFF), 0, by decide +kernel⟩,
   ⟨ready, pk 0 (write P.SYS_PRESET_SAVE 1), 0, by decide +kernel⟩,
   ⟨ready, pk 0 (write P.SYS_PRESET_FACTORY 1), 0, by decide +kernel⟩,
   ⟨245, by decide +kernel, by decide +kernel, ready, pk 0 (write (P.CAL_ENTRY + 245) 1000), 0, by decide +kernel⟩,
   ⟨withAccs ready [(0x06000000, accn 4096)], pk 0 (write P.CAL_EXPORT 0x06000000), 0, by decide +kernel⟩,
   ⟨(withAccs ready [(0x06000000, accn 4096)]).setRg P.SYS_FW_ACC 0 0x06000000, pk 0 (write P.SYS_FW_LOAD 1), 0, by decide +kernel⟩,
   ⟨⟨⟨0, 0, 0⟩, 1, 0x06000000, some ⟨true, 5, 1⟩, t0⟩, ⟨true, 5, 1⟩, (withAccs ready [(0x06000000, accn 4096)]).updPower fun p => { p with fwJob := some ⟨⟨0, 0, 0⟩, 1, 0x06000000, some ⟨true, 5, 1⟩, t0⟩ }, t0, trivial, by decide +kernel⟩,
   ⟨⟨⟨0, 0, 0⟩, 1, 0x05000000, none, t0⟩, (withAccs ready [(0x05000000, accn 4096)]).updPower fun p => { p with fwJob := some ⟨⟨0, 0, 0⟩, 1, 0x05000000, none, t0⟩ }, t0, trivial, by decide +kernel⟩⟩

/-- The hypotheses of ManagementEventsComplete are met. -/
theorem test_wit_management_events_complete :
  (∃ (k : Nat) (level : Bool), Due (fun _ => True) (fun _ _ => k < 4)) ∧
  (∃ (k : Nat) (level : Bool), DueStopped (fun _ _ => k < 4)) ∧
  (∃ (rising : Bool), Due (fun _ => True) (fun _ _ => true)) ∧
  (∃ (raw : List (Option Nat)) (light : List (Nat × Nat)), Due (fun _ => True) (fun a _ => a.now % 256000000 = 0 && a.power.halted ≠ 2 && (a.hkRound raw a.now).1.isNone && !(a.hkRound raw a.now).2.expRuns)) ∧
  (∃ (raw : List (Option Nat)) (light : List (Nat × Nat)) (trip : Trip), Due (fun _ => True) (fun a _ => a.now % 256000000 = 0 && a.power.halted ≠ 2 && (a.hkRound raw a.now).1 = some trip && (a.hkRound raw a.now).2.power.state ≠ 5)) ∧
  (Due (fun _ => True) (fun a _ => a.power.halted ≠ 2 && !a.clockless)) ∧
  (∃ (mv : Nat), Due (fun _ => True) (fun _ _ => true)) ∧
  (∃ (r : Nat) (k : Nat), Due (fun _ => True) (fun a _ => gateable r k && a.domainRuns r && a.reg (mkPid r 8 k P.BLK_IDLE_GATE) ≠ 0 && (a.blk r k).clk = 2 && !a.blockBusy a.askedBlocks r k &&
      (a.blk r k).idleAt + a.reg (mkPid r 8 k P.BLK_IDLE_GATE) * 1000 < a.now)) ∧
  (∃ (r : Nat) (k : Nat), Due (fun _ => True) (fun a _ => gateable r k && a.domainRuns r && (a.blk r k).clk = 1)) :=
  ⟨⟨3, true, ready, t0, trivial, by decide +kernel⟩,
   ⟨3, true, (ready.updPower fun p => { p with state := 1 }), t0, by decide +kernel⟩,
   ⟨true, ready, t0, trivial, by decide +kernel⟩,
   ⟨List.replicate 64 (some 0), [], { idle with mram := { mramReset with calBad := true } }, 256000000, trivial, by decide +kernel⟩,
   ⟨hot, [], theTrip, hotIdle, 256000000, trivial, by decide +kernel⟩,
   ⟨ready, t0, trivial, by decide +kernel⟩,
   ⟨9000, ready, t0, trivial, by decide +kernel⟩,
   ⟨3, 1, ready.setBlk 3 1 ⟨2, 0, 0⟩, t0 + 600000000000, trivial, by decide +kernel⟩,
   ⟨3, 1, ready.setBlk 3 1 ⟨1, 0, 0⟩, t0, trivial, by decide +kernel⟩⟩

/-- The hypotheses of PowerCompletes are met. -/
theorem test_wit_power_completes :
  (∃ (at_ : TS), Due (fun _ => True) (fun a _ => a.power.stbyAt = some at_ && at_ ≤ a.now)) ∧
  (∃ (raw : List (Option Nat)), DueStopped (fun a _ => a.standbyDue)) ∧
  (∃ (id : Nat) (rising : Bool), DueStopped (fun a _ => 1 ≤ id && id ≤ 26 && (a.power.state ≠ 1 || a.power.inReset ||
      !(bit ((a.aonLatch id rising).docCfg id) 8 && docSelects ((a.aonLatch id rising).docSense id) (a.pinActive id rising))))) ∧
  (∃ (id : Nat) (rising : Bool), DueStopped (fun a _ => 1 ≤ id && id ≤ 26 && a.power.state = 1 && !a.power.inReset &&
      bit ((a.aonLatch id rising).docCfg id) 8 && docSelects ((a.aonLatch id rising).docSense id) (a.pinActive id rising))) ∧
  (DueStopped (fun a _ => a.power.state = 1 && !a.power.inReset && a.rg P.SYS_WAKE_TMR 0 ≠ 0 && a.rg P.SYS_WAKE_TMR 0 * 32768 ≤ a.power.aonTicks)) ∧
  (Due (fun _ => True) (fun a _ => a.power.state ≠ 0 && !a.clockless)) ∧
  (∃ (boot : Boot), DueStopped (fun a _ => a.power.inReset && a.power.halted ≠ 2)) ∧
  (Due (fun _ => True) (fun a _ => a.power.state ≠ 0 && !a.clockless)) ∧
  (∃ s : State, s.power.state = 0) ∧
  (Able 0x000A (fun b c => 1 ≤ u8 c.payload 0 && u8 c.payload 0 ≤ 4 && b.power.state ≠ 5 && u8 c.payload 0 = b.power.state)) ∧
  (Able 0x000A (fun b c => 1 ≤ u8 c.payload 0 && u8 c.payload 0 ≤ 4 && b.power.state ≠ 5 && u8 c.payload 0 ≠ b.power.state && !b.powerBad (u8 c.payload 0))) ∧
  (∃ (q : PowerReq), Due (fun _ => True) (fun a _ => a.power.req = some q && a.twin.state ≠ 3 && a.power.state = 2 && 3 ≤ q.target)) ∧
  (∃ (q : PowerReq), Due (fun _ => True) (fun a _ => a.power.req = some q && a.twin.state ≠ 3 && a.power.state = 3 && q.target ≤ 2)) :=
  ⟨⟨t0, idle.updPower fun p => { p with stbyAt := some t0 }, t0, trivial, by decide +kernel⟩,
   ⟨[], (ready.setRg P.SYS_STBY_DIV 0 1).updPower fun p => { p with state := 1, aonTicks := 8192, stbyFrom := t0 }, t0, by decide +kernel⟩,
   ⟨26, true, (ready.updPower fun p => { p with state := 1 }), t0, by decide +kernel⟩,
   ⟨26, true, ((ready.updPower fun p => { p with state := 1 })).setReg (P.DOC_SRC + 26) 0x110, t0, by decide +kernel⟩,
   ⟨(ready.setRg P.SYS_WAKE_TMR 0 1).updPower fun p => { p with state := 1, aonTicks := 32768 }, t0, by decide +kernel⟩,
   ⟨ready, t0, trivial, by decide +kernel⟩,
   ⟨theBoot, ready.updPower fun p => { p with inReset := true }, t0, by decide +kernel⟩,
   ⟨ready, t0, trivial, by decide +kernel⟩,
   ⟨ready.updPower fun p => { p with state := 0 }, by decide +kernel⟩,
   ⟨ready, pk 0 ([3, 0, 0, 0]), 0, by decide +kernel⟩,
   ⟨ready, pk 0 ([4, 0, 0, 0]), 0, by decide +kernel⟩,
   ⟨⟨⟨0, 0, 0⟩, 3, t0, false⟩, idle.updPower fun p => { p with req := some ⟨⟨0, 0, 0⟩, 3, t0, false⟩ }, t0, trivial, by decide +kernel⟩,
   ⟨⟨⟨0, 0, 0⟩, 2, t0, false⟩, ready.updPower fun p => { p with req := some ⟨⟨0, 0, 0⟩, 2, t0, false⟩ }, t0, trivial, by decide +kernel⟩⟩

/-! ## Ill-formed commands -/

/-- A packet whose fields fit. -/
def good : Packet := pk 31 []

/-- Packets of which one field does not fit: the endpoint, the stamp, the generation, the flags, the stream, the sequence. -/
def badPackets : List Packet :=
  [{ good with ep := .udp 0 0 3 0 }, { good with stamp := 2 ^ 64 }, { good with gen := 16 }, { good with flags := 256 },
   { good with stream := 256 }, { good with seq := 2 ^ 32 }]

/-- A command of a packet takes a good one only. -/
def hostChecked (c : Packet → Instr) : Bool := (c good).wf && badPackets.all fun p => !(c p).wf

/-- An event takes a stamp that fits only. -/
def stampChecked (c : TS → Instr) : Bool := (c (2 ^ 64 - 1)).wf && !(c (2 ^ 64)).wf

theorem test_wf_packets_0 :
    List.all ([
    .nop, .heartbeat, .sessionChallenge, .sessionOpen, .sessionClose, .sessionLock, .replyReread, .streamFlush, .fence, .deviceInfo, .powerRequest,
    .paramRead, .paramWrite, .paramReadBlock, .paramWriteBlock, .beamEnable, .beamDisable, .exposeList, .exposeInline, .catalogueMark, .rasterCommit,
    .rasterRun, .rasterHalt, .rasterPush, .rasPscaleWrite, .galleryClear, .gallerySnapshot, .galleryRead, .warderStatus, .galleryGeometryWrite,
    .cnsBind, .cnsMode, .cnsOrder, .cnsStatus, .cnsTrace, .hpFaultClear, .hpGenWrite, .xy2Assign, .prfMove, .prfChange, .prfStop, .prfHome,
    .prfSetPos, .drvEnable, .fbkArmIndex, .fbkLatchRead, .prfFaultClear, .fbkFaultClear, .fbkTypeWrite, .idxModeWrite, .lampEnable, .lampSet,
    .lampTest] : List (Packet → Instr)) hostChecked = true := by decide +kernel

theorem test_wf_packets_1 :
    List.all ([
    .lampPattern, .lampStrobe, .lampI2cXfer, .pipeStart, .pipeStop, .pipeBufs, .pipeRelease, .camCommit, .camI2cXfer, .pipeStatus, .storeAlloc,
    .storeFree, .storeWrite, .storeRead, .storeDmaIn, .storeDmaOut, .storeInfo, .storePin, .zipCompress, .zipDecompress, .timeGet, .timeSet,
    .timeLaunch, .launchFlush, .catSeal, .catList, .catRelease, .twinStatus, .twinSwitch, .twinSeize, .twinResync, .logRead, .logMark, .logChallenge,
    .logClear, .keyWrite, .keyInfo, .faultStatus, .faultClear, .docentClaim, .docentComplete, .docentSrcWrite, .docentSoft, .docentDisableWrite,
    .gpoWrite, .presetSave, .presetFactory, .fwLoad, .calEntryWrite, .calExport, .wrdHoldMaxClear, .timeSrcWrite] : List (Packet → Instr)) hostChecked = true := by decide +kernel

theorem test_wf_stamps_0 :
    List.all ([
    fun t => .fenceComplete t 0, fun t => .packetDiscard t .headerCheck, fun t => .sqTail t 0 0, fun t => .rqHead t 0 0, fun t => .sqEnable t 0 0,
    fun t => .rqEnable t 0 0, fun t => .bar0RegisterWrite t 0 0, fun t => .descriptorFetch t 0 .dmaError, fun t => .replyBatchTimeout t 0,
    fun t => .pcieLinkChange t none, fun t => .sessionTimeout t 0, fun t => .nonceExpire t .pcie, fun t => .catalogueMarkReached t 0,
    fun t => .armingComplete t 0, fun t => .armTimeout t 0, fun t => .laserIdentReply t 0 none, fun t => .exposeBegin t 0, fun t => .listEnd t 0,
    fun t => .vectorFetch t 0, fun t => .vectorPlan t 0, fun t => .tableLatch t 0, fun t => .microStepTick t, fun t => .frameTick t,
    fun t => .laserEnChange t false false, fun t => .safetyFault t, fun t => .laserReadyChange t 0 false, fun t => .laserAlarm t 0 false,
    fun t => .beamParkReached t 0, fun t => .parkTimeout t 0, fun t => .rasterBlanking t 0, fun t => .rasRegionEnd t 0,
    fun t => .lineSyncEdge t 0 false, fun t => .lineBufferFill t 0, fun t => .galleryDeposit t 0, fun t => .gallerySweep t,
    fun t => .warderReserve t 0, fun t => .warderZoneExpire t, fun t => .wardStarve t 0, fun t => .cnsTraceEnd t 0, fun t => .cnsOverrun t [],
    fun t => .cnsImplausible t 0, fun t => .mpGapReset t 0, fun t => .hySwitch t 0, fun t => .hyImplausible t 0, fun t => .headReturnFrame t 0 0 [],
    fun t => .headFrameMissing t 0, fun t => .headLinkTimeout t 0, fun t => .headLockLost t 0, fun t => .xy2Frame t 0, fun t => .xy2StatusFrame t 0 0] : List (TS → Instr)) stampChecked = true := by decide +kernel

theorem test_wf_stamps_1 :
    List.all ([
    fun t => .prfMoveBegin t 0, fun t => .prfMoveEnd t 0, fun t => .prfStall t 0, fun t => .switchEdge t 0 false, fun t => .fbkEdge t 0 false false,
    fun t => .fbkIndex t 0 false, fun t => .fbkSincosSample t 0 0 0, fun t => .fbkHallChange t 0 0, fun t => .fbkAbsRead t 0 0 none,
    fun t => .fbkStandstill t 0, fun t => .fbkLatchTrigger t 0 false, fun t => .stpHoldCurrent t 0, fun t => .stpOvercurrent t 0,
    fun t => .vmotUndervoltage t 0, fun t => .stpOpenLoad t 0 false, fun t => .sdFaultInput t 0 false, fun t => .lampTestDone t [] 0,
    fun t => .lampPeriodStart t, fun t => .strobeEdge t, fun t => .strobeWindowEnd t, fun t => .csiFrameStart t 0 0 0 0,
    fun t => .csiLine t 0 0 ⟨0, 0, true, 0, [], false⟩, fun t => .csiFrameEnd t 0 0 0 0, fun t => .frameTimeout t 0, fun t => .blobPublish t 0,
    fun t => .frameIndexWrite t 0, fun t => .camCommitDone t 0 0 0, fun t => .camTrigger t 0, fun t => .loanReturn t 0,
    fun t => .dramReadComplete t 0 0 .none .front, fun t => .dramAlert t 0 0 0 0 false, fun t => .dramRefresh t 0 false,
    fun t => .rowHammerRefresh t 0 0 0, fun t => .rhWindowClear t 0, fun t => .dramPageClose t 0 0, fun t => .rankPowerDown t 0,
    fun t => .zipJobEnd t 0, fun t => .servoOffset t, fun t => .ptpMessage t 0 false [], fun t => .ppsInEdge t 0 false, fun t => .servoHoldover t,
    fun t => .timeStepApply t, fun t => .ppsOut t 0, fun t => .launchSend t 0, fun t => .launchDrop t 0, fun t => .twinTimingExchange t 0 0 0 0,
    fun t => .catSealTimeout t, fun t => .meltSum t, fun t => .twinHello t ⟨0x2460, true, 1, 1, 0⟩, fun t => .negTimeout t] : List (TS → Instr)) stampChecked = true := by decide +kernel

theorem test_wf_stamps_2 :
    List.all ([
    fun t => .heartbeatLoss t, fun t => .twinFaultRise t, fun t => .twinKillIn t, fun t => .twinReleaseWord t, fun t => .takeoverWaitEnd t,
    fun t => .twinTakeOwn t, fun t => .twinForwardReceive t .close, fun t => .twinAck t false 0 0, fun t => .twinLinkTimeout t,
    fun t => .twinDigest t none, fun t => .stateTransfer t none, fun t => .resyncTimeout t,
    fun t => .logMirror t ⟨t0, 0, 0, 0x1000, 0x1005, 1, 0, 0, zeros 24, 0, 0⟩, fun t => .curatorWatchdog t, fun t => .docentFwInterrupt t .enter,
    fun t => .evtInEdge t 0 false, fun t => .ilkChange t 0 false, fun t => .mgtRound t [] [], fun t => .analogTrip t, fun t => .standbyEnter t,
    fun t => .standbyRound t [], fun t => .aonEdgeLatch t 1 false, fun t => .wakeTimer t, fun t => .vinRise t theBoot, fun t => .vinLoss t,
    fun t => .resetAssert t, fun t => .resetRelease t theBoot, fun t => .refLoss t false, fun t => .blockGate t 1 0, fun t => .blockUngate t 1 0,
    fun t => .laserSyncEdge t 0, fun t => .ethLinkChange t 0 false 0, fun t => .arpIcmpRequest t 0 (.arp 0 0 0),
    fun t => .ptpIntervalTimer t 0 .receipt, fun t => .vmotRestore t 0, fun t => .perstEdge t false, fun t => .twinHbEdge t,
    fun t => .twinKillRelease t, fun t => .storeDmaDone t 0 false [], fun t => .storePinDone t, fun t => .gallerySnapshotDone t,
    fun t => .fwLoadDone t, fun t => .i2cTransferDone t 0 0 [], fun t => .powerStateReached t] : List (TS → Instr)) stampChecked = true := by decide +kernel

theorem test_wf_units_0 :
    List.all ([
    .fenceComplete 0 32, .sqTail 0 32 0, .rqHead 0 4 0, .sqEnable 0 32 0, .rqEnable 0 4 0, .bar0RegisterWrite 0 65536 0,
    .descriptorFetch 0 32 .dmaError, .replyBatchTimeout 0 32, .sessionTimeout 0 8, .catalogueMarkReached 0 24, .armingComplete 0 24, .armTimeout 0 24,
    .laserIdentReply 0 24 none, .exposeBegin 0 24, .listEnd 0 24, .vectorFetch 0 24, .vectorPlan 0 24, .tableLatch 0 24, .laserReadyChange 0 24 false,
    .laserAlarm 0 24 false, .beamParkReached 0 24, .parkTimeout 0 24, .rasterBlanking 0 24, .rasRegionEnd 0 24, .lineSyncEdge 0 16 false,
    .lineBufferFill 0 24, .galleryDeposit 0 24, .warderReserve 0 24, .wardStarve 0 24, .cnsTraceEnd 0 128, .cnsImplausible 0 128, .mpGapReset 0 128,
    .hySwitch 0 128, .hyImplausible 0 128, .headReturnFrame 0 24 0 [], .headFrameMissing 0 24, .headLinkTimeout 0 24, .headLockLost 0 24,
    .xy2Frame 0 4, .xy2StatusFrame 0 4 0, .prfMoveBegin 0 8, .prfMoveEnd 0 8, .prfStall 0 8, .switchEdge 0 12 false, .fbkEdge 0 8 false false] : List Instr) (fun c => !c.wf) = true := by decide +kernel

theorem test_wf_units_1 :
    List.all ([
    .fbkIndex 0 8 false, .fbkSincosSample 0 8 0 0, .fbkHallChange 0 8 0, .fbkAbsRead 0 8 0 none, .fbkStandstill 0 8, .fbkLatchTrigger 0 8 false,
    .stpHoldCurrent 0 6, .stpOvercurrent 0 6, .stpOpenLoad 0 6 false, .sdFaultInput 0 2 false, .csiFrameStart 0 8 0 0 0, .csiFrameStart 0 0 16 0 0,
    .csiLine 0 8 0 ⟨0, 0, true, 0, [], false⟩, .csiLine 0 0 16 ⟨0, 0, true, 0, [], false⟩, .csiFrameEnd 0 8 0 0 0, .csiFrameEnd 0 0 16 0 0,
    .frameTimeout 0 8, .blobPublish 0 8, .frameIndexWrite 0 8, .camCommitDone 0 8 0 0, .camTrigger 0 8, .dramAlert 0 4 0 0 0 false,
    .dramRefresh 0 4 false, .rowHammerRefresh 0 4 0 0, .rowHammerRefresh 0 0 8 0, .rowHammerRefresh 0 0 0 65536, .rhWindowClear 0 2,
    .dramPageClose 0 4 0, .dramPageClose 0 0 8, .rankPowerDown 0 4, .zipJobEnd 0 3, .ptpMessage 0 3 false [], .ppsInEdge 0 2 false, .ppsOut 0 2,
    .launchSend 0 3, .launchDrop 0 3, .evtInEdge 0 16 false, .ilkChange 0 4 false, .laserSyncEdge 0 24, .ethLinkChange 0 3 false 0,
    .arpIcmpRequest 0 3 (.arp 0 0 0), .ptpIntervalTimer 0 3 .receipt, .shp1Frame ⟨.serial, 0, 256, 0, 0, true, []⟩,
    .shp1Frame ⟨.serial, 0, 0, 256, 0, true, []⟩, .shp1Frame ⟨.serial, 0, 0, 0, 256, true, []⟩] : List Instr) (fun c => !c.wf) = true := by decide +kernel

theorem test_wf_units_2 :
    List.all ([
    .shp1Frame ⟨.serial, 0, 0, 0, 0, true, zeros 251⟩, .shp1Frame ⟨.serial, 2 ^ 64, 0, 0, 0, true, []⟩,
    .shp1Frame ⟨.udp 0 0 3 0, 0, 0, 0, 0, true, []⟩, .descriptorFetch 0 0 (.packet 0 65536 good), .descriptorFetch 0 0 (.packet (2 ^ 32) 0 good),
    .pcieLinkChange 0 (some (0, 1)), .pcieLinkChange 0 (some (5, 1)), .pcieLinkChange 0 (some (1, 3)), .nonceExpire 0 (.udp 0 0 3 0),
    .cnsOverrun 0 [128], .csiLine 0 0 0 ⟨64, 0, true, 0, [], false⟩, .csiLine 0 0 0 ⟨0, 3, true, 0, [], false⟩,
    .csiLine 0 0 0 ⟨0, 0, true, 65536, [], false⟩, .sqTail 0 0 (2 ^ 64), .rqHead 0 0 (2 ^ 64), .bar0RegisterWrite 0 0 (2 ^ 64),
    .twinForwardReceive 0 (.command 32 0 0 0 0 []), .twinForwardReceive 0 (.reply 0 0 0 0 256 0 0 []), .twinForwardReceive 0 (.notice 0 0 (2 ^ 64)),
    .twinForwardReceive 0 (.power 6 0), .twinForwardReceive 0 (.switch (2 ^ 64)), .twinForwardReceive 0 (.camera 8 0 0 0 0),
    .twinForwardReceive 0 (.segment 0 (2 ^ 64)), .twinForwardReceive 0 (.logClear 8), .twinForwardReceive 0 (.session 3 0 0 0 false),
    .docentFwInterrupt 0 (.configure 511 0), .docentFwInterrupt 0 (.configure 0 (2 ^ 32)), .docentFwInterrupt 0 (.set 511),
    .docentFwInterrupt 0 (.withdraw 511), .aonEdgeLatch 0 0 true, .aonEdgeLatch 0 27 true, .vinRise 0 { theBoot with boot := 4 },
    .vinRise 0 { theBoot with badRanks := [4] }, .resetRelease 0 { theBoot with restoreBad := [4] }, .blockGate 0 0 0, .blockUngate 0 1 7,
    .i2cTransferDone 0 9 0 [],
    .stateTransfer 0 (some ⟨0, 0, [], [], cnsReset, galReset, [], motReset, [], lampReset, sessionReset, [], [], 0, [], [], [(1, 0), (1, 0)], [], [], []⟩)] : List Instr) (fun c => !c.wf) = true := by decide +kernel

theorem test_wf_payload (p : Packet) (h : 1048576 < p.payload.length) : (Instr.nop p).wf = false := by
  simp only [Instr.wf, Packet.wf]
  exact (Bool.and_eq_false_iff).mpr (.inr (decide_eq_false (by omega)))

/-! ## Values the manual gives -/

/-- The bytes of "123456789". -/
def digits : List Byte := [0x31, 0x32, 0x33, 0x34, 0x35, 0x36, 0x37, 0x38, 0x39]

/-- R40: the check values. -/
theorem test_crc_check_values : crc16 digits = 0x29B1 ∧ crc32c digits = 0xE3069283 := by decide +kernel

/-- Chapter 2, the PID of EXP.BEAM[7].DLY_ON. -/
theorem test_pid : P.BEAM_DLY_ON + 7 * 2 ^ 16 = 0x10070003 := by decide

/-- Chapter 6, the code of 1,234,567, its frame, and the inverted code. -/
theorem test_xy2_example :
    xy2Code 1234567 false = 37590 ∧ xy2Code 1234567 true = 27945 ∧ xy2Code (-1234567) false = 27945 ∧
      xy2Word 37590 = 2 ^ 17 + 2 * 0x92D6 + 1 := by decide +kernel

/-- R246: the ends of the range. -/
theorem test_xy2_ends : xy2Code (-8388608) false = 0 ∧ xy2Code 8388607 false = 65535 := by decide +kernel

/-- Chapter 4: with τ = 40 ms a cell of 20,000 heated 10 ms ago holds 15,576, and the factor is 0.8812. -/
theorem test_gallery_decay :
    fRound ((ready.setRg P.GAL_TAU 0 40).galEnergy 20000 10000000) = 15576 ∧
    fRound (fMul (fOfInt 10000)
      (({ ready with gal := { ready.gal with cells := [(0, 20000)] }, now := 10000000 }.setRg P.GAL_TAU 0 40).galFactor 0
        (ready.rgI P.GAL_ORG_X 0) (ready.rgI P.GAL_ORG_Y 0)).1) = 8812 := by decide +kernel

/-- Chapter 5: band means of 31,410 and 26,408 over dark values of 160 give 2,500.1 K and 0.43868. -/
theorem test_pyrometer :
    ((((ready.setRg P.BEAM_PYR_DARK1 14 160).setRg P.BEAM_PYR_DARK2 14 160).pyrometer 14
      (List.replicate 5 31410) (List.replicate 5 26408)).map fun r => (fRound (fMul r.1 (fOfInt 10)), fRound (fMul r.2 (fOfInt 100000)))) =
    some (25001, 43868) := by decide +kernel

/-- Chapter 3: the type, the set and the length of the hatch island's header. -/
theorem test_hatch_header :
    let r : List Byte := [0x27, 0x12, 0x62, 0x01]
    recType r = 7 ∧ recSet r = 2 ∧ recBidir r = true ∧ recLen r = 2832 := by decide +kernel

/-! ## One step -/

/-- What a next state holds. -/
def after {α : Type} (o : Host.Outcome State Fault Refusal) (f : State → α) : Option α :=
  match o with
  | .next s => some (f s)
  | _ => none

/-- R122: a gate falls when an enable does. -/
theorem test_enable_closes_gates :
    after (execLaserEnChange (t0 + 100) true false lasing) (fun s => s.beams.any fun b => b.laser.gate) = some false := by decide +kernel

/-- R72: SESSION_LOCK locks. -/
theorem test_session_lock : after (execSessionLock (pk 0 []) ready) (fun s => s.host.locked) = some true := by decide +kernel

/-- R26: a write of the data plane waits for its boundary, and acts at it. -/
theorem test_write_waits :
    after (execParamWrite (pk 24 (write (P.HP_PARK_TMO + 23 * 2 ^ 16) 20)) ready)
      (fun s => (s.rg P.HP_PARK_TMO 23, s.writes.length)) = some (ready.rg P.HP_PARK_TMO 23, 1) ∧
    ((after (execParamWrite (pk 24 (write (P.HP_PARK_TMO + 23 * 2 ^ 16) 20)) ready) id).bind fun s =>
      after (execFrameTick (t0 + 2560) s) (fun s => (s.rg P.HP_PARK_TMO 23, s.writes.length))) = some (20, 0) := by decide +kernel

/-- R23: a frame tick is due at its boundary only. -/
theorem test_tick_due :
    after (execFrameTick (t0 + 2560) ready) (fun s => s.frameNo) = some 1001 ∧
      after (execFrameTick (t0 + 2559) ready) (fun s => s.frameNo) = some 1000 := by decide +kernel

/-- A unit the grade does not have. -/
theorem test_absent_unit :
    after (execLaserSyncEdge t0 23 { ready with straps := { ready.straps with grade := .yq1260 } }) id = none := by decide +kernel

end Sys2Proof.Tests
end

