-- ==== Sys2Proof/Proofs/Beams.lean ====
section
/-!
PROOFS. Source paths give back the region, block and cell they were built from (R19), and the places of the beams (R2).
-/
namespace Sys2Proof.Machine

open Sys2Proof

/-! ## Source paths (R19) -/

/-- The role bit of a source path lies above its region, so that it does not matter which module of a pair writes it. -/
theorem State.pathRegion_srcPath (s : State) {region block cell : Nat} (hr : region < 8) (hb : block < 16) (hc : cell < 256) :
    pathRegion (s.srcPath region block cell) = region := by
  simp only [pathRegion, bits, State.srcPath, Nat.shiftRight_eq_div_pow]
  split <;> omega

theorem State.pathBlock_srcPath (s : State) (region : Nat) {block cell : Nat} (hb : block < 16) (hc : cell < 256) :
    pathBlock (s.srcPath region block cell) = block := by
  simp only [pathBlock, bits, State.srcPath, Nat.shiftRight_eq_div_pow]
  split <;> omega

theorem State.pathCell_srcPath (s : State) (region block : Nat) {cell : Nat} (hc : cell < 256) :
    pathCell (s.srcPath region block cell) = cell := by
  simp only [pathCell, bits, State.srcPath, Nat.shiftRight_eq_div_pow]
  split <;> omega

/-! ## The streams of the beams (R2, R46) -/

/-- The stream of each of the 24 beams is a beam stream. -/
theorem beamStream_succ {n : Nat} (h : n < 24) : beamStream (n + 1) = true := by
  simp only [beamStream, Bool.and_eq_true, decide_eq_true_eq]
  omega

/-- The opcodes of the groups 0x10xx and 0x11xx belong to the beam streams. -/
theorem streamTakes_eq_beamStream (stream : Nat) {op : Nat} (h : op / 256 = 0x10 ∨ op / 256 = 0x11) :
    streamTakes stream op = beamStream stream := by
  have hop : ¬ op < 0x100 := by omega
  rw [streamTakes, if_neg hop]
  obtain h | h := h
  · simp only [h]
  · simp only [h]

/-- Settles O8: the place and the stream of a beam below 24 fit the fields of its source path and the range of the beam streams. -/
theorem beamsHaveTheirPlaces : Obligations.BeamsHaveTheirPlaces := by
  intro n hn
  have hblock : n / 4 < 16 := by omega
  have hcell : n % 4 < 256 := by omega
  refine ⟨fun s => ⟨?region, ?block, ?cell⟩, fun c hc => ?beam, fun op hop => ?takes⟩
  case region => exact s.pathRegion_srcPath (by decide) hblock hcell
  case block => exact s.pathBlock_srcPath 1 hblock hcell
  case cell => exact s.pathCell_srcPath 1 (n / 4) hcell
  case beam => rw [Ctx.beam, hc, Nat.add_sub_cancel]
  case takes => rw [streamTakes_eq_beamStream _ hop, beamStream_succ hn]

end Sys2Proof.Machine
end

