-- ==== Sys2Proof/Proofs/Generation.lean ====
section
/-!
PROOFS. A session keeps the generation of its SESSION_OPEN, and a packet of the other generation is not consumed (R88).
-/
namespace Sys2Proof.Machine

open Sys2Proof

/-! ## What an update of the sessions leaves -/

/-- A session that exists reads as its update has left it. -/
theorem State.session_updSession_same (s : State) {i : Nat} (f : Session → Session) (h : i < s.host.sessions.length) :
    (s.updSession i f).session i = f (s.session i) := by
  simp [State.session, State.updSession, h]

@[simp] theorem State.length_sessions_updSession (s : State) (i : Nat) (f : Session → Session) :
    (s.updSession i f).host.sessions.length = s.host.sessions.length := List.length_modify f s.host.sessions i

/-- A session reads from the sessions of the host only. -/
theorem State.session_congr {s t : State} (h : s.host.sessions = t.host.sessions) (i : Nat) : s.session i = t.session i := by
  rw [State.session, State.session, h]

/-- A reply outside every stream is queued beside the sessions. -/
@[simp] theorem State.session_answer (s : State) (p : Packet) (op : Nat) (sess : Option Nat) (res : Nat) (payload : List Byte) (i : Nat) :
    (s.answer p op sess res payload).session i = s.session i := rfl

/-! ## SESSION_OPEN fixes the generation (R68, R70, R88) -/

/-- The instance of an OBSERVE session is one of 1 to 7. -/
theorem State.observeInst_lt (s : State) (ep : Endpoint) : (s.observeInst ep).getD 1 < 8 := by
  cases hi : s.observeInst ep with
  | none => decide
  | some i =>
    have hmem : i ∈ List.range' 1 7 := List.mem_of_find?_eq_some hi
    exact (List.mem_range'_1.mp hmem).2

/-- What a module may tell its partner leaves its own sessions. -/
theorem State.sessions_ite_put (s : State) (b : Bool) (o : Output) :
    (if b = true then s.put o else s).host.sessions = s.host.sessions := by
  cases b <;> rfl

/-- The last thing an accepted SESSION_OPEN does to the sessions, at every level and with or without RESUME, is to give its instance
the generation of the packet. -/
theorem State.openNow_sets_gen (s : State) (p : Packet) (level slot first : Nat) (resume : Bool) :
    (s.openNow p level slot first resume).1 < 8 ∧
    ∃ (t : State) (f : Session → Session), (∀ x, (f x).gen = p.gen) ∧
      (s.openNow p level slot first resume).2.host.sessions =
        (t.updSession (s.openNow p level slot first resume).1 f).host.sessions := by
  unfold State.openNow
  split
  case isTrue => exact ⟨s.observeInst_lt p.ep, s.closeOwn p.ep, _, fun _ => rfl, rfl⟩
  case isFalse =>
    refine ⟨Nat.zero_lt_succ 7, ?_⟩
    simp only [State.sessions_ite_put, State.updHost_host]
    cases resume with
    | true => exact ⟨s.closeOwn p.ep, _, fun _ => rfl, rfl⟩
    | false => exact ⟨(s.closeOwn p.ep).discardOwner, _, fun _ => rfl, rfl⟩

/-- The session of an accepted SESSION_OPEN has the generation of its packet. -/
theorem State.gen_openNow (s : State) (p : Packet) (level slot first : Nat) (resume : Bool)
    (hlen : (s.openNow p level slot first resume).2.host.sessions.length = 8) :
    ((s.openNow p level slot first resume).2.session (s.openNow p level slot first resume).1).gen = p.gen := by
  obtain ⟨hinst, t, f, hgen, hsess⟩ := s.openNow_sets_gen p level slot first resume
  have ht : t.host.sessions.length = 8 := by rwa [hsess, State.length_sessions_updSession] at hlen
  rw [State.session_congr hsess, t.session_updSession_same f (ht ▸ hinst), hgen]

/-! ## A packet of the other generation (R88) -/

/-- A packet of an open session that uses the other generation is answered NO_AUTH, before its sequence is looked at. -/
theorem State.packet_other_generation (s : State) (op : Nat) (p : Packet) {i : Nat}
    (hport : (s.arrived p.stamp).portCarries p.ep [udpShp3, udpShp2] = true) (hkept : (s.arrived p.stamp).packetDiscarded p = false)
    (hsess : (s.arrived p.stamp).sessionAt p.ep = some i) (hopen : ¬(op = 0x0003 ∧ p.stream = 0))
    (hgen : ((s.heard p i).session i).gen ≠ p.gen) :
    (s.arrived p.stamp).packet op p = (s.heard p i).answer p op none rNOAUTH [] := by
  rw [State.heard] at hgen ⊢
  simp only [State.packet, hport, hkept, hsess, Bool.not_true, Bool.false_eq_true, if_false, if_neg hopen, if_pos hgen]

/-- Settles O7: SESSION_OPEN ends by writing the generation of its packet, and the generation of a packet is compared before its
sequence, so that the answer is all that such a packet leaves. -/
theorem otherGenerationIsRefused : Obligations.OtherGenerationIsRefused := by
  refine ⟨fun s p level slot first resume => s.gen_openNow p level slot first resume, ?_⟩
  intro s c op i p a h hexec hup hknown hport hkept hsess hopen hgen
  refine ⟨?answer, fun k => ?streams⟩
  case answer =>
    rw [hexec, State.hostCommand, hknown, State.onUnit_there, State.event_up _ _ _ hup,
      s.packet_other_generation op p hport hkept hsess hopen hgen]
  case streams => exact congrArg (Session.stream · k) (h.session_answer p op none rNOAUTH [] i)

end Sys2Proof.Machine
end

