-- ==== Sys2Proof/Proofs/Xy2Code.lean ====
section
/-!
PROOFS. The code of an XY2-100 axis, and what INV and SWAP make of it (R246).
-/
namespace Sys2Proof.Machine

open Sys2Proof

/-! ## Clamping -/

theorem clampInt_of_mem {lo hi v : Int} (hlo : lo ≤ v) (hhi : v ≤ hi) : clampInt lo hi v = v := by
  rw [clampInt, if_neg (Int.not_lt.mpr hlo), if_neg (Int.not_lt.mpr hhi)]

theorem clampInt_le {lo hi : Int} (h : lo ≤ hi) (v : Int) : clampInt lo hi v ≤ hi := by
  unfold clampInt
  split
  case isTrue => exact h
  case isFalse =>
    split
    case isTrue => exact Int.le_refl hi
    case isFalse hhi => exact Int.not_lt.mp hhi

/-! ## The code of one axis (R246) -/

theorem xy2Code_false (v : Int) : xy2Code v false = (clampInt 0 65535 (32768 + v / 256)).toNat := rfl

/-- INV turns an axis round within its 16 bits. -/
theorem xy2Code_true (v : Int) : xy2Code v true = 65535 - xy2Code v false := rfl

/-- The code fits 16 bits for every value, in the range of the head units or not. -/
theorem xy2Code_false_le (v : Int) : xy2Code v false ≤ 65535 := by
  rw [xy2Code_false, Int.toNat_le]
  exact clampInt_le (by decide) _

/-- In the range of the head units the clamp changes nothing. -/
theorem xy2Code_false_eq {v : Int} (hlo : -8388608 ≤ v) (hhi : v ≤ 8388607) : (xy2Code v false : Int) = 32768 + v / 256 := by
  have hmin : 0 ≤ 32768 + v / 256 := by omega
  have hmax : 32768 + v / 256 ≤ 65535 := by omega
  rw [xy2Code_false, clampInt_of_mem hmin hmax, Int.toNat_of_nonneg hmin]

/-! ## The codes on the three pairs (R246) -/

theorem xy2Sent_straight (inv : Nat) (x y z : Int) :
    xy2Sent inv 0 [x, y, z] = [xy2Code x (bit inv 0), xy2Code y (bit inv 1), xy2Code z (bit inv 2)] := rfl

/-- SWAP exchanges the pairs after INV: each value keeps the INV bit of its own axis. -/
theorem xy2Sent_swapped (inv : Nat) (x y z : Int) :
    xy2Sent inv 1 [x, y, z] = [xy2Code y (bit inv 1), xy2Code x (bit inv 0), xy2Code z (bit inv 2)] := rfl

/-- Settles O33: in the range of the head units the code is the rule's sum unclamped, and its two ends are 0 and 65,535. -/
theorem xy2CodeIsRight : Obligations.Xy2CodeIsRight := by
  refine ⟨fun v hlo hhi => ?value, ?low, ?high, fun v => ⟨xy2Code_true v, xy2Code_false_le v⟩,
    fun inv x y z => ⟨xy2Sent_straight inv x y z, xy2Sent_swapped inv x y z⟩⟩
  case value => rw [xy2Code_false_eq hlo hhi, Int.fdiv_eq_ediv_of_nonneg v (by decide)]
  case low => exact Int.ofNat_inj.mp (xy2Code_false_eq (v := -8388608) (by decide) (by decide))
  case high => exact Int.ofNat_inj.mp (xy2Code_false_eq (v := 8388607) (by decide) (by decide))

end Sys2Proof.Machine
end

