-- ==== Sys2Proof/Proofs/Answers.lean ====
section
/-!
PROOFS. What exec can answer, said once for all 250 commands, and what follows for every command: no gate stays high against the enables
(R122, R124), the one fault (R3), and a module that is OFF (R439).
-/
namespace Sys2Proof.Machine

open Sys2Proof

/-! ## The one form of an answer -/

/-- A well-formed packet comes from an endpoint that exists. -/
theorem Packet.known_of_wf {p : Packet} (h : p.wf = true) : p.ep.known = true := by
  simp only [Packet.wf, Bool.and_eq_true] at h
  exact h.1.1.1.1.1.1

/-- Every command but VIN_RISE is an event at some instant of a unit that may exist or not; on the larger grade the unit of a well-formed
command does. -/
theorem exec_onUnit (i : Instr) (s : State) (hrise : ∀ t b, i ≠ .vinRise t b) :
    ∃ there name t up stopped, (i.wf = true → s.straps.grade = .yq2460 → there = true) ∧
      exec i s = s.onUnit there name (s.eventWhen t up stopped) := by
  cases i
  case vinRise t b => exact absurd rfl (hrise t b)
  -- no unit is named
  case microStepTick | frameTick | laserEnChange | safetyFault | packetDiscard | pcieLinkChange | docentFwInterrupt | mgtRound |
      analogTrip | standbyEnter | standbyRound | wakeTimer | vinLoss | resetAssert | resetRelease | refLoss | vmotRestore | perstEdge |
      fwLoadDone | powerStateReached | vmotUndervoltage | lampTestDone | lampPeriodStart | strobeEdge | strobeWindowEnd | gallerySweep |
      warderZoneExpire | gallerySnapshotDone | loanReturn | dramReadComplete | storeDmaDone | storePinDone | servoOffset |
      servoHoldover | timeStepApply | twinTimingExchange | catSealTimeout | meltSum | twinHello | negTimeout | heartbeatLoss |
      twinFaultRise | twinKillIn | twinReleaseWord | takeoverWaitEnd | twinTakeOwn | twinForwardReceive | twinAck | twinLinkTimeout |
      twinDigest | stateTransfer | resyncTimeout | logMirror | curatorWatchdog | twinHbEdge | twinKillRelease =>
    exact ⟨true, "", _, _, _, fun _ _ => rfl, rfl⟩
  -- the unit is the Ethernet port of the endpoint
  case cnsBind | cnsMode | cnsOrder | cnsStatus | cnsTrace | beamEnable | beamDisable | exposeList | exposeInline | catalogueMark |
      hpFaultClear | hpGenWrite | xy2Assign | nop | heartbeat | sessionChallenge | sessionOpen | sessionClose | sessionLock |
      replyReread | streamFlush | fence | deviceInfo | paramRead | paramWrite | paramReadBlock | paramWriteBlock | powerRequest |
      docentClaim | docentComplete | docentSrcWrite | docentSoft | docentDisableWrite | gpoWrite | presetSave | presetFactory | fwLoad |
      calEntryWrite | calExport | prfMove | prfChange | prfStop | prfHome | prfSetPos | drvEnable | fbkArmIndex | fbkLatchRead |
      prfFaultClear | fbkFaultClear | fbkTypeWrite | idxModeWrite | lampEnable | lampSet | lampTest | lampPattern | lampStrobe |
      lampI2cXfer | rasterCommit | rasterRun | rasterHalt | rasterPush | rasPscaleWrite | galleryClear | gallerySnapshot | galleryRead |
      warderStatus | galleryGeometryWrite | wrdHoldMaxClear | storeAlloc | storeFree | storeWrite | storeRead | storeDmaIn |
      storeDmaOut | storeInfo | storePin | zipCompress | zipDecompress | timeGet | timeSet | timeLaunch | launchFlush | catSeal |
      catList | catRelease | timeSrcWrite | twinStatus | twinSwitch | twinSeize | twinResync | logRead | logMark | logChallenge |
      logClear | keyWrite | keyInfo | faultStatus | faultClear | pipeStart | pipeStop | pipeBufs | pipeRelease | camCommit | camI2cXfer |
      pipeStatus =>
    exact ⟨_, _, _, _, _, fun hwf _ => Packet.known_of_wf hwf, rfl⟩
  -- the unit is a beam, a pipeline, a port, a cell or a rank, whose range the well-formedness names
  all_goals
    refine ⟨_, _, _, _, _, fun hwf hgrade => ?_, rfl⟩
    simp only [Instr.wf, Shp1Frame.wf, Bool.and_eq_true, Bool.or_eq_true, decide_eq_true_eq, beq_iff_eq] at hwf
    simp [State.nBeams, State.nPipes, hgrade, hwf]

/-! ## The gate path (R122, R124) -/

@[simp] theorem State.onUnit_eq_next {s after s' : State} {there : Bool} {name : String} :
    s.onUnit there name after = .next s' ↔ there = true ∧ after = s' := by
  cases there <;> simp [State.onUnit]

@[simp] theorem Beam.gate_gateLow (b : Beam) : b.gateLow.laser.gate = false := by
  unfold Beam.gateLow
  split
  case isTrue => rfl
  case isFalse h => exact eq_false_of_ne_true h

/-- Whatever a step has done, the unclocked path leaves no gate high that may not be. -/
theorem State.gateSafe_gatePath (s : State) : s.gatePath.GateSafe := by
  unfold State.gatePath
  split
  case isTrue h => exact fun _ _ _ => h
  case isFalse =>
    intro b hb hgate
    obtain ⟨b, -, rfl⟩ := List.mem_map.mp hb
    rw [Beam.gate_gateLow] at hgate
    exact absurd hgate Bool.false_ne_true

/-- A start acts through the unclocked path as well, so that every answer has passed it. -/
theorem exec_gatePath (i : Instr) (s : State) :
    ∃ there name u, (i.wf = true → s.straps.grade = .yq2460 → there = true) ∧ exec i s = s.onUnit there name (State.gatePath u) := by
  by_cases hrise : ∃ t b, i = .vinRise t b
  case pos =>
    obtain ⟨t, b, rfl⟩ := hrise
    by_cases hoff : s.power.state = 0
    · exact ⟨true, "", _, fun _ _ => rfl, congrArg Host.Outcome.next (if_pos hoff)⟩
    · exact ⟨true, "", _, fun _ _ => rfl, congrArg Host.Outcome.next (if_neg hoff)⟩
  case neg =>
    obtain ⟨there, name, t, up, stopped, hthere, he⟩ := exec_onUnit i s fun t b hi => hrise ⟨t, b, hi⟩
    exact ⟨there, name, _, hthere, he⟩

theorem step_nil {s : State} (h : s.pending = []) : step s = .next s := by
  unfold step
  rw [h]

theorem step_cons {s : State} {i : Instr} {rest : List Instr} (h : s.pending = i :: rest) : step s = exec i { s with pending := rest } := by
  unfold step
  rw [h]

/-- Settles O1: the two branches of a step. -/
theorem stepRunsTheFront : Obligations.StepRunsTheFront :=
  ⟨fun _ _ _ h => step_cons h, fun _ h => step_nil h⟩

/-- Settles O2: the unclocked path acts last at every event, and a step without a command changes nothing. -/
theorem gatesStaySafe : Obligations.GatesStaySafe := by
  have hexec : ∀ (i : Instr) (s s' : State), exec i s = .next s' → s'.GateSafe := by
    intro i s s' h
    obtain ⟨there, name, u, -, he⟩ := exec_gatePath i s
    rw [he, State.onUnit_eq_next] at h
    exact h.2 ▸ u.gateSafe_gatePath
  refine ⟨fun s s' hsafe hstep => ?_, hexec⟩
  cases hp : s.pending with
  | nil =>
    rw [step_nil hp] at hstep
    rwa [← Host.Outcome.next.inj hstep]
  | cons i rest =>
    rw [step_cons hp] at hstep
    exact hexec i _ s' hstep

/-! ## The one fault (R3) -/

/-- Settles O4: an answer is a next state or the fault of an absent unit; the units of well-formed commands exist on the larger grade. -/
theorem everyCommandAnswers : Obligations.EveryCommandAnswers := by
  refine ⟨fun i s => ?_, fun i s hwf hgrade => ?_⟩
  · obtain ⟨there, name, u, -, he⟩ := exec_gatePath i s
    rw [he]
    cases there with
    | true => exact .inl ⟨_, rfl⟩
    | false => exact .inr ⟨_, rfl⟩
  · obtain ⟨there, name, u, hthere, he⟩ := exec_gatePath i s
    rw [he, hthere hwf hgrade]
    exact ⟨_, rfl⟩

/-! ## A module that is OFF (R439) -/

theorem State.eventWhen_off {s : State} (h : s.power.state = 0) (t : TS) (up stopped : State → State) :
    s.eventWhen t up stopped = State.gatePath { s with out := [] } := by
  rw [State.eventWhen, if_pos h]

/-- Settles O5: every event but the rise of the supply asks first whether the module is OFF. -/
theorem offDoesNothing : Obligations.OffDoesNothing := by
  intro i s s' hoff hrise h
  obtain ⟨there, name, t, up, stopped, -, he⟩ := exec_onUnit i s hrise
  rw [he, State.onUnit_eq_next, State.eventWhen_off hoff] at h
  exact h.2.symm

end Sys2Proof.Machine
end

