-- ==== Sys2Proof/Proofs/Completes.lean ====
section
/-!
PROOFS. The rules by which commands and events complete: what is left to show of each is the equation of its own operation.
-/
namespace Sys2Proof.Machine

open Sys2Proof

/-! ## Host commands -/

/-- How the interpreter of a stream finds a command that came in a packet: its opcode, not forwarded by a partner, and rejected by no
check before the opcode's own. -/
structure State.Begins (b : State) (op : Nat) (x : Ctx) : Prop where
  op : x.op = op
  twin : x.twin = false
  unrejected : b.checkBad x = none

/-- A host command completes with what the body of its opcode makes of the state. -/
theorem CommandCompletes.of_body {c : Packet → Instr} {op : Nat} {able : State → Ctx → Bool} {effect : State → Ctx → State}
    (body : Ctx → State → State)
    (h : ∀ b x, b.Begins op x → able b x = true → body x b = effect b x)
    (hexec : ∀ p s, exec (c p) s = s.hostCommand op p := by intros; rfl)
    (hop : ∀ x b, x.op = op → b.body x = body x b := by rintro ⟨⟩ _ rfl; rfl) : CommandCompletes c op able effect := by
  intro s p i htakes hable
  have hcheck : (s.begun op p i).checkBad (s.ctxOf op p i) = none := by
    simp only [State.takes, Bool.and_eq_true, Option.isNone_iff_eq_none] at htakes
    exact htakes.2
  rw [hexec, s.hostCommand_takes op p i htakes, hop _ _ rfl, h _ _ ⟨rfl, rfl, hcheck⟩ hable]

@[simp] theorem firstBad_nil : firstBad [] = none := rfl

/-- No check of a row finds a reason to reject. -/
@[simp] theorem firstBad_cons_eq_none {b : Bool} {code : Nat} {r : List (Bool × Nat)} :
    firstBad ((b, code) :: r) = none ↔ b = false ∧ firstBad r = none := by
  cases b <;> simp [firstBad]

/-- A command that no check rejects runs its body. -/
theorem State.unless_of {s t : State} {c : Ctx} {why : Option Nat} {body : State → State} (h : why = none)
    (he : body s = t := by rfl) : s.unless c why body = t := by
  rw [h, ← he, State.unless]

/-! ## Events -/

section
variable {there : State → Prop} {c : TS → Instr} {due : State → TS → Bool} {effect up : State → TS → State}
  {stopped : TS → State → State} {name : String}

/-- An event completes with what its operation makes of the state that finds the module. -/
theorem UnitEventCompletes.of_eventWhen
    (hexec : ∀ s t, there s → due (s.arrived t) t = true → exec (c t) s = .next (s.eventWhen t (up · t) (stopped t)))
    (h : ∀ a t, due a t = true → up a t = effect a t) : UnitEventCompletes there c due effect := by
  intro s t hthere hup hdue
  rw [hexec s t hthere hdue, s.eventWhen_up t _ _ hup, h _ _ hdue]

/-- The same, where the unit is looked for first. -/
theorem UnitEventCompletes.of_onUnit {present : State → Bool}
    (hexec : ∀ s t, exec (c t) s = s.onUnit (present s) name (s.eventWhen t (up · t) (stopped t)))
    (hpresent : ∀ s t, there s → due (s.arrived t) t = true → present s = true)
    (h : ∀ a t, due a t = true → up a t = effect a t) : UnitEventCompletes there c due effect := by
  refine .of_eventWhen (stopped := stopped) (fun s t hthere hdue => ?_) h
  rw [hexec, hpresent s t hthere hdue, State.onUnit_there]

/-- An event that names no unit. -/
theorem EventCompletes.of_next (up : State → TS → State) (h : ∀ a t, due a t = true → up a t = effect a t)
    (hexec : ∀ s t, exec (c t) s = .next (s.eventWhen t (up · t) (stopped t)) := by intros; rfl) : EventCompletes c due effect :=
  UnitEventCompletes.of_eventWhen (stopped := stopped) (fun s t _ _ => hexec s t) h

/-- An event of a unit that every grade has, where the event is due only for numbers of such units. -/
theorem EventCompletes.of_unit {present : Bool} (up : State → TS → State) (hpresent : ∀ a t, due a t = true → present = true)
    (h : ∀ a t, due a t = true → up a t = effect a t)
    (hexec : ∀ s t, exec (c t) s = s.onUnit present name (s.eventWhen t (up · t) (stopped t)) := by intros; rfl) :
    EventCompletes c due effect :=
  UnitEventCompletes.of_onUnit (stopped := stopped) (present := fun _ => present) hexec (fun s t _ hdue => hpresent (s.arrived t) t hdue) h

/-- An event of a beam of the grade. -/
theorem BeamEventCompletes.of_beam {n : Nat} (up : State → TS → State) (h : ∀ a t, due a t = true → up a t = effect a t)
    (hexec : ∀ s t, exec (c t) s = s.onUnit (n < s.nBeams) name (s.eventWhen t (up · t) (stopped t)) := by intros; rfl) :
    BeamEventCompletes n c due effect :=
  UnitEventCompletes.of_onUnit (stopped := stopped) hexec (fun _ _ hn _ => decide_eq_true hn) h

/-- An event of a pipeline of the grade. -/
theorem PipeEventCompletes.of_pipe {p : Nat} (up : State → TS → State) (h : ∀ a t, due a t = true → up a t = effect a t)
    (hexec : ∀ s t, exec (c t) s = s.onUnit (p < s.nPipes) name (s.eventWhen t (up · t) (stopped t)) := by intros; rfl) :
    PipeEventCompletes p c due effect :=
  UnitEventCompletes.of_onUnit (stopped := stopped) hexec (fun _ _ hp _ => decide_eq_true hp) h

/-- An event of a module whose clocks stand. -/
theorem StoppedEventCompletes.of_eventWhen {effect : State → TS → State} (stopped up : State → TS → State)
    (hexec : ∀ s t, due (s.stood t) t = true → exec (c t) s = .next (s.eventWhen t (up · t) (stopped · t)))
    (h : ∀ a t, due a t = true → stopped a t = effect a t) : StoppedEventCompletes c due effect := by
  intro s t hst hdue
  simp only [State.stopped, ne_eq, decide_not, Bool.and_eq_true, Bool.not_eq_true', decide_eq_false_iff_not] at hst
  rw [hexec s t hdue, State.eventWhen, if_neg hst.1, if_pos hst.2, ← State.stood, h _ _ hdue]

end

end Sys2Proof.Machine
end

