-- ==== Sys2Proof/Proofs/Sessions.lean ====
section
/-!
PROOFS. Packets up to their interpreter, the commands and events of sessions, a rejected command and a decided one (R41-R52, R67-R89).
-/
namespace Sys2Proof.Machine

open Sys2Proof

/-! ## A packet in sequence (R42, R47, R50, R68, R88) -/

/-- A packet of its session, in sequence, is consumed: it takes its slot and waits at its interpreter. -/
theorem State.packet_eq_taken {s : State} {op : Nat} {p : Packet} {i : Nat}
    (hport : (s.arrived p.stamp).portCarries p.ep [udpShp3, udpShp2] = true) (hkept : (s.arrived p.stamp).packetDiscarded p = false)
    (hsess : (s.arrived p.stamp).sessionAt p.ep = some i) (hgen : ((s.heard p i).session i).gen = p.gen)
    (hopen : ¬(op = 0x0003 ∧ p.stream = 0)) (htrailer : p.trailerOk = true)
    (hrefused : (((s.heard p i).session i).stream p.stream).refused = [])
    (hseq : s.seqNo p i = (((s.heard p i).session i).stream p.stream).expected)
    (hroom : (((s.heard p i).session i).stream p.stream).hasRoom = true) (hfwd : (s.heard p i).backlogged i = false) :
    (s.arrived p.stamp).packet op p = s.taken op p i := by
  have hdiff : seqDiff (s.seqNo p i) (((s.heard p i).session i).stream p.stream).expected = 0 := by
    rw [hseq, seqDiff, Int.sub_self]
    rfl
  have hpacket : (s.arrived p.stamp).packet op p = (s.heard p i).sequence i p op (s.seqNo p i) := by
    rw [State.heard] at hgen
    simp only [State.packet, hport, hkept, hsess, Bool.not_true, Bool.false_eq_true, if_false, if_neg hopen, hgen, ne_eq,
      not_true_eq_false]
    rfl
  rw [hpacket]
  simp only [State.sequence, hdiff, hrefused, htrailer, hroom, hfwd, List.any_nil, Bool.not_true, Bool.false_eq_true, if_false,
    Int.lt_irrefl, gt_iff_lt]
  rfl

/-- A consumed command waits where no command may begin; what follows the event goes on without it. -/
theorem State.hostCommand_takesHeld {s : State} {op : Nat} {p : Packet} {i : Nat} (h : s.takesHeld op p i = true) :
    s.hostCommand op p = .next (((s.taken op p i).afterRun).gpoMove).gatePath := by
  simp only [State.takesHeld, Bool.and_eq_true, Bool.not_eq_true', decide_eq_true_eq, List.isEmpty_iff, Option.isNone_iff_eq_none] at h
  obtain ⟨⟨⟨⟨⟨⟨⟨⟨⟨⟨⟨⟨hup, hknown⟩, hport⟩, hkept⟩, hsess⟩, hgen, hopen⟩, htrailer⟩, hrefused⟩, hseq⟩, hroom⟩, hfwd⟩, htaken⟩, hnone⟩ := h
  have hruns : ((s.taken op p i).power.state = 0 || (s.taken op p i).clockless) = false := by
    simp only [State.up, Bool.and_eq_true, decide_eq_true_eq, Bool.not_eq_true'] at htaken
    rw [htaken.2, decide_eq_false htaken.1, Bool.false_or]
  rw [State.hostCommand, hknown, State.onUnit_there, State.event_up _ _ _ hup,
    State.packet_eq_taken hport hkept hsess hgen hopen htrailer hrefused hseq hroom hfwd, State.closed, State.finish, if_neg (by rw [hruns]; exact Bool.false_ne_true),
    State.settle, State.runStreams, State.interpretAll, hnone]

/-! ## The commands of a session (R69, R71, R72, R83, R85, R86) -/

/-- A FENCE that has nothing left to wait for leaves the front of its stream. -/
theorem State.fenceComplete_ready {a : State} {k : Nat} {w : Waiting} {r : List Waiting}
    (hfront : ((a.session 0).stream k).waiting = w :: r) (hready : a.fenceReady (w.ctx 0 k) = true) :
    a.fenceComplete k = ((a.popCommand 0 k).updTwin fun t =>
      { t with held := t.held.filter fun h => !(h.stream = k && h.seq = w.seq) }).decide ⟨0, k, w.seq⟩ rOK a.now [] := by
  simp only [State.fenceComplete, hfront, hready, Bool.not_true, Bool.false_eq_true, if_false]
  rfl

/-- Settles O9: each opcode is one body; a FENCE has none, so that it is consumed and waits for the event that decides it. -/
theorem sessionCommandsComplete : Obligations.SessionCommandsComplete := by
  refine ⟨.of_body State.bodyNop fun _ _ _ _ => rfl, .of_body State.bodyHeartbeat fun _ _ _ _ => rfl,
    .of_body State.bodySessionChallenge fun _ _ _ _ => rfl,
    .of_body State.bodySessionLock fun b c _ h => if_neg (Classical.not_not.mpr (of_decide_eq_true h)),
    .of_body State.bodyDeviceInfo fun _ _ _ _ => rfl,
    .of_body State.bodySessionClose fun b c hb _ => ?close, .of_body State.bodyReplyReread fun b c _ h => ?reread,
    .of_body State.bodyStreamFlush fun b c _ h => ?flush, fun s p i h => State.hostCommand_takesHeld h,
    fun k w r => .of_unit (fun a _ => a.fenceComplete k) (fun a t h => ?stream) fun a t h => ?fence⟩
  case close =>
    rw [State.bodySessionClose, hb.twin]
    rfl
  case reread =>
    rw [State.bodyReplyReread]
    refine State.unless_of ?_
    simp only [Bool.and_eq_true, decide_eq_true_eq] at h
    simp only [firstBad_cons_eq_none, firstBad_nil, and_true, Bool.or_eq_false_iff, decide_eq_false_iff_not]
    omega
  case flush =>
    rw [State.bodyStreamFlush]
    refine State.unless_of ?_
    simp only [Bool.and_eq_true, decide_eq_true_eq] at h
    simp only [firstBad_cons_eq_none, firstBad_nil, and_true, Bool.or_eq_false_iff, decide_eq_false_iff_not]
    omega
  case stream => exact (Bool.and_eq_true_iff.mp (Bool.and_eq_true_iff.mp h).1).1
  case fence =>
    simp only [Bool.and_eq_true, decide_eq_true_eq] at h
    exact State.fenceComplete_ready h.1.2 h.2

/-! ## SESSION_OPEN (R68-R70) -/

/-- SESSION_OPEN whose checks all pass, at level OBSERVE: no nonce is used up. -/
theorem State.openPacket_observe {h : State} {p : Packet} (htrailer : p.trailerOk = true) (hstarted : h.power.started = true)
    (hflags : flagsBad p.flags 0x0003 p.gen = false) (hlen : p.payload.length = 24) (hlevel : u8 p.payload 0 = 0)
    (hslot : u8 p.payload 1 ≤ 7) (hopen : h.openBad p.ep 0 (bit (u8 p.payload 2) 0) = none) :
    h.openPacket p =
      let o := h.openNow p 0 (u8 p.payload 1) (u32 p.payload 4) (bit (u8 p.payload 2) 0)
      o.2.answer p 0x0003 (some o.1) rOK (o.2.openReply o.1) := by
  simp [State.openPacket, htrailer, hstarted, hflags, hlen, hlevel, Nat.not_lt.mpr hslot, hopen]

/-- The same at OPERATE and INTEGRATE, with a tag that the key slot confirms for the nonce that is used up. -/
theorem State.openPacket_keyed {h : State} {p : Packet} (htrailer : p.trailerOk = true) (hstarted : h.power.started = true)
    (hflags : flagsBad p.flags 0x0003 p.gen = false) (hlen : p.payload.length = 24)
    (hlevel : u8 p.payload 0 = 1 ∨ u8 p.payload 0 = 2) (hslot : u8 p.payload 1 ≤ 7) (hgen : ¬(p.gen = 2 ∧ u8 p.payload 0 = 2))
    (hown : (h.takeNonce false p.ep 0).2.twin.state ≠ 3 ∧ (h.takeNonce false p.ep 0).2.straps.serialHost = false)
    (htag : (h.takeNonce false p.ep 0).2.tagOk (u8 p.payload 1) (u8 p.payload 0) (h.takeNonce false p.ep 0).1
      [BitVec.ofNat 8 (u8 p.payload 0), BitVec.ofNat 8 (u8 p.payload 1)] (field p.payload 8 16) = true)
    (hopen : (h.takeNonce false p.ep 0).2.openBad p.ep (u8 p.payload 0) (bit (u8 p.payload 2) 0) = none) :
    h.openPacket p =
      let o := (h.takeNonce false p.ep 0).2.openNow p (u8 p.payload 0) (u8 p.payload 1) (u32 p.payload 4) (bit (u8 p.payload 2) 0)
      o.2.answer p 0x0003 (some o.1) rOK (o.2.openReply o.1) := by
  have hle : ¬ 2 < u8 p.payload 0 := by omega
  simp only [State.openPacket, htrailer, hstarted, hlevel, if_true, Bool.not_true, Bool.false_eq_true, if_false, hflags, hlen, gt_iff_lt,
    hle, Nat.not_lt.mpr hslot, hgen, hown, htag, hopen, or_false, not_true_eq_false, ne_eq, and_false]

/-- Settles O10: by the level, every check of an opening passes, so that the instance it takes is answered. -/
theorem sessionOpens : Obligations.SessionOpens := by
  intro s p a g h level n b hup hknown hport hkept hstream htrailer hstarted hflags hlen hle hslot hgen hkey hopen o
  have hanswer : h.openPacket p = o.2.answer p 0x0003 (some o.1) rOK (o.2.openReply o.1) := by
    by_cases hlevel : level = 0
    case pos =>
      have hb : b = h := if_pos hlevel
      simp only [hlevel, hb] at hopen
      simp only [o, hlevel, hb]
      exact State.openPacket_observe htrailer hstarted hflags hlen hlevel hslot hopen
    case neg =>
      have hb : b = n.2 := if_neg hlevel
      obtain h0 | ⟨htwin, hserial, htag⟩ := hkey
      · exact absurd h0 hlevel
      · rw [hb] at htwin hserial htag hopen
        simp only [o, hb]
        exact State.openPacket_keyed htrailer hstarted hflags hlen (by omega) hslot hgen ⟨htwin, hserial⟩ htag hopen
  have hpacket : a.packet 0x0003 p = (h.openPacket p).setCause g.log.cause := by
    simp only [State.packet, hport, hkept, hstream, Bool.not_true, Bool.false_eq_true, if_false, and_self, if_true]
    rfl
  show s.hostCommand 0x0003 p = _
  rw [State.hostCommand, hknown, State.onUnit_there, State.event_up _ _ _ hup, hpacket, hanswer]
/-! ## What has no reply (R41, R42, R69, R71) -/

/-- Settles O13: the operation of each event, under the condition that it tests. -/
theorem sessionEventsComplete : Obligations.SessionEventsComplete := by
  refine ⟨fun cause => .of_next (fun a _ => a.discard) fun _ _ _ => rfl,
    fun i => .of_unit (fun a _ => a.sessionTimeout i) (fun a t h => ?inst) fun a t h => ?timeout,
    fun ep => .of_unit (fun a _ => a.nonceExpire ep) (fun _ _ h => h) fun _ _ _ => rfl,
    fun k => .of_unit (fun a _ => a) (fun _ _ h => h) fun _ _ _ => rfl⟩
  case inst =>
    simp only [Bool.and_eq_true] at h
    exact h.1.1.1
  case timeout =>
    simp only [Bool.and_eq_true, decide_eq_true_eq] at h
    obtain ⟨⟨⟨-, hopen⟩, htmo⟩, hlate⟩ := h
    exact if_pos ⟨hopen, htmo, hlate⟩

end Sys2Proof.Machine
end

