-- ==== Sys2Proof/Proofs/Rings.lean ====
section
/-!
PROOFS. The rings of the PCIe transport, the registers of BAR0 and the frames of the serial host (R58-R62, R89).
-/
namespace Sys2Proof.Machine

open Sys2Proof

/-! ## Rings (R59, R60) -/

theorem State.sqTail_of_lt {s : State} {k v : Nat} (h : v < 2 ^ (s.sub k).size) :
    s.sqTail k v = s.updSub k fun r => { r with tail := v } := if_neg (Nat.not_le.mpr h)

theorem State.rqHead_of_lt {s : State} {q v : Nat} (h : v < (s.ring q).bytes) :
    s.rqHead q v = s.updRing q fun r => { r with headDb := v } := if_neg (Nat.not_le.mpr h)

theorem State.sqEnable_on {s : State} {k v : Nat} (hon : bit v 0 = true) (hoff : (s.sub k).enabled = false) :
    s.sqEnable k v = s.updSub k fun r => { r with enabled := true, tail := 0, head := 0, stopped := false } := by
  simp [State.sqEnable, hon, hoff]

theorem State.rqEnable_on {s : State} {q v : Nat} (hon : bit v 0 = true) (hoff : (s.ring q).enabled = false) :
    s.rqEnable q v = (s.updRing q fun r => { r with enabled := true, headDb := 0, tail := 0, wraps := 0 }).tailBack q := by
  simp [State.rqEnable, hon, hoff]

/-- SQ_SIZE of ring k lies 8 bytes into its 32 bytes from 0x1000 on. -/
theorem State.bar0Write_sqSize {s : State} {k v : Nat} (hk : k < 32) (hoff : (s.sub k).enabled = false) (hlo : 6 ≤ v % 16)
    (hhi : v % 16 ≤ 12) : s.bar0Write (0x1008 + 32 * k) v = s.updSub k fun r => { r with size := v % 16 } := by
  have hring : (0x1008 + 32 * k - 0x1000) / 32 = k := by omega
  have hreg : (0x1008 + 32 * k - 0x1000) % 32 = 0x08 := by omega
  have hin : 0x1000 ≤ 0x1008 + 32 * k ∧ 0x1008 + 32 * k < 0x1400 := by omega
  have hsize : ¬(v % 16 < 6 ∨ v % 16 > 12) := by omega
  simp only [State.bar0Write, if_pos hin, hring, hreg, hoff, Bool.false_eq_true, false_or, if_neg hsize]

/-- A descriptor is read only while its ring has one and the link is up. -/
theorem State.descriptorFetch_due {s : State} {k : Nat} (hon : (s.sub k).enabled = true) (hmore : (s.sub k).head ≠ (s.sub k).tail)
    (hup : s.host.pcieUp = true) :
    (∀ op p, s.descriptorFetch k (.packet (packetWire { p with ep := .pcie }) op p) = (s.subAdvance k).packet op { p with ep := .pcie }) ∧
    s.descriptorFetch k .corrupt = (s.subAdvance k).discard := by
  simp [State.descriptorFetch, hon, hmore, hup]

/-- Settles O14: each operation of the rings, under the condition that it tests. -/
theorem ringEventsComplete : Obligations.RingEventsComplete := by
  refine ⟨fun k v => .of_unit (fun a _ => a.sqTail k v) ?_ ?sqTail, fun q v => .of_unit (fun a _ => a.rqHead q v) ?_ ?rqHead,
    fun k v => .of_unit (fun a _ => a.sqEnable k v) ?_ ?sqEnable, fun q v => .of_unit (fun a _ => a.rqEnable q v) ?_ ?rqEnable,
    fun k v => .of_unit (fun a _ => a.bar0Write (0x1008 + 32 * k) v) ?_ ?sqSize,
    fun k op p => .of_unit (fun a _ => a.descriptorFetch k (.packet (packetWire p) op p)) ?_ ?fetch,
    fun k => .of_unit (fun a _ => a.descriptorFetch k .corrupt) ?_ ?corrupt,
    fun gen width => .of_next (fun a _ => a.pcieLink (some (gen, width))) fun _ _ _ => rfl,
    .of_next (fun a _ => a.pcieLink none) fun _ _ _ => rfl⟩
  all_goals
    intro a t h
    simp only [Bool.and_eq_true, Bool.not_eq_true', decide_eq_true_eq] at h ⊢
  case sqTail => exact State.sqTail_of_lt h.2
  case rqHead => exact State.rqHead_of_lt h.2
  case sqEnable => exact State.sqEnable_on h.1.2 h.2
  case rqEnable => exact State.rqEnable_on h.1.2 h.2
  case sqSize =>
    obtain ⟨⟨⟨hk, hoff⟩, hlo⟩, hhi⟩ := h
    exact State.bar0Write_sqSize hk hoff hlo hhi
  case fetch =>
    obtain ⟨⟨⟨-, hon⟩, hmore⟩, hup⟩ := h
    exact (State.descriptorFetch_due hon hmore hup).1 op p
  case corrupt =>
    obtain ⟨⟨⟨-, hon⟩, hmore⟩, hup⟩ := h
    exact (State.descriptorFetch_due hon hmore hup).2
  all_goals omega

/-! ## SHP1 (R89) -/

/-- Settles O15: each check of a frame passes, and its sequence is extended in the stream of its address; a set RSP is rejected of any
command. -/
theorem shp1FrameCompletes : Obligations.Shp1FrameCompletes := by
  intro s f stream a b h q r got hup hknown hserial hport hcrc hlen hstarted hown hstream hep
  have hframe : a.shp1 f =
      r.sequence 0 ⟨f.ep, f.stamp, 1, got.2.2, stream, f.seq, true, got.2.1⟩ got.1
        (extendSeq 8 ((r.session 0).stream stream).expected f.seq) := by
    have hep' : ((a.shp1Open f.ep).session 0).ep = f.ep := hep
    simp only [State.shp1, hserial, hport, hcrc, hstarted, hown, hstream, Nat.not_lt.mpr hlen, hep',
      Bool.not_true, Bool.false_eq_true, or_self, if_false, ne_eq, not_true_eq_false]
    rfl
  refine ⟨?_, ?_⟩
  · show s.onUnit f.ep.known _ (s.event f.stamp fun s => s.shp1 f) = _
    rw [hknown, State.onUnit_there, State.event_up _ _ _ hup, hframe]
  · simp [flagsBad, bit]

end Sys2Proof.Machine
end

