-- ==== Sys2Proof/Proofs/Decisions.lean ====
section
/-!
PROOFS. A rejected command is decided, and a decision touches the slot of its command only (R49); what reset holds and what a register
write changes.
-/
namespace Sys2Proof.Machine

open Sys2Proof

/-! ## Entries of a list under an update of one of them -/

section
variable {α : Type} {d : α}

theorem getD_modify_ne (l : List α) {i j : Nat} (f : α → α) (h : j ≠ i) : (l.modify i f).getD j d = l.getD j d := by
  simp [List.getD_eq_getElem?_getD, Ne.symm h]

/-- An update reaches the entry it names, or there is none. -/
theorem getD_modify_eq_or (l : List α) (i : Nat) (f : α → α) :
    (l.modify i f).getD i d = f (l.getD i d) ∨ (l.modify i f).getD i d = d ∧ l.getD i d = d := by
  cases hl : l[i]? with
  | none => exact .inr (by simp [List.getD_eq_getElem?_getD, hl])
  | some x => exact .inl (by simp [List.getD_eq_getElem?_getD, hl])

theorem getD_modify_same (l : List α) (i : Nat) {f : α → α} (hf : f d = d) : (l.modify i f).getD i d = f (l.getD i d) := by
  obtain h | ⟨hm, hl⟩ := getD_modify_eq_or (d := d) l i f
  · exact h
  · rw [hm, hl, hf]

end

/-! ## Decisions (R49) -/

/-- What a decision makes of the slots of the command's stream. -/
def decideSlots (now : TS) (k : Ticket) (res eff : Nat) (payload : List Byte) (x : StreamSt) : StreamSt :=
  { x with slots := x.slots.map fun sl => if sl.seq = k.seq ∧ sl.dec = none then { sl with dec := some ⟨res, eff, payload, now⟩ } else sl }

theorem State.decide_eq (s : State) (k : Ticket) (res eff : Nat) (payload : List Byte) :
    s.decide k res eff payload = s.updStream k.sess k.stream (decideSlots s.now k res eff payload) := rfl

/-- A session is as its update has left it, or there is none. -/
theorem State.session_updStream_eq_or (s : State) (i j : Nat) (f : StreamSt → StreamSt) :
    (s.updStream i j f).session i = (s.session i).updStream j f ∨
      (s.updStream i j f).session i = sessionReset ∧ s.session i = sessionReset := getD_modify_eq_or s.host.sessions i _

/-- A stream that is not named is as before. -/
theorem State.stream_updStream_ne (s : State) {i j k l : Nat} (f : StreamSt → StreamSt) (h : k ≠ i ∨ l ≠ j) :
    ((s.updStream i j f).session k).stream l = (s.session k).stream l := by
  by_cases hk : k = i
  case neg => exact congrArg (Session.stream · l) (getD_modify_ne s.host.sessions _ hk)
  case pos =>
    subst hk
    obtain he | ⟨hu, hs⟩ := s.session_updStream_eq_or k j f
    · rw [he]
      exact getD_modify_ne (s.session k).streams f (h.resolve_left fun h => h rfl)
    · rw [hu, hs]

theorem stream_sessionReset (j : Nat) : sessionReset.stream j = streamReset := by
  rw [Session.stream, sessionReset, List.getD_eq_getElem?_getD, List.getElem?_replicate]
  split <;> rfl

/-- The stream that is named is as an update that leaves an empty stream has left it. -/
theorem State.stream_updStream_same (s : State) (i j : Nat) {f : StreamSt → StreamSt} (hf : f streamReset = streamReset) :
    ((s.updStream i j f).session i).stream j = f ((s.session i).stream j) := by
  obtain he | ⟨hu, hs⟩ := s.session_updStream_eq_or i j f
  · rw [he]
    exact getD_modify_same (s.session i).streams j hf
  · rw [hu, hs, stream_sessionReset, hf]

/-- A decision keeps the sequence of every slot, so that each is found where it was. -/
theorem slot?_decideSlots (now : TS) (k : Ticket) (res eff : Nat) (payload : List Byte) (x : StreamSt) (q : Nat) :
    (decideSlots now k res eff payload x).slot? q =
      (x.slot? q).map fun sl => if sl.seq = k.seq ∧ sl.dec = none then { sl with dec := some ⟨res, eff, payload, now⟩ } else sl := by
  rw [StreamSt.slot?, StreamSt.slot?, decideSlots, List.find?_map]
  congr 2
  funext sl
  simp only [Function.comp_apply]
  split <;> rfl

/-- Settles O6: a rejection is the decision of its result; a decision maps the slots of one stream, and there the undecided slot of one
sequence only. -/
theorem commandsAreDecidedOnce : Obligations.CommandsAreDecidedOnce := by
  refine ⟨fun s op p i r hreach hbad => ?_, fun b k res eff payload => ?_⟩
  · rw [s.hostCommand_reaches op p i hreach, State.interpret, hbad]
    rfl
  · intro d
    have hd : d = b.updStream k.sess k.stream (decideSlots b.now k res eff payload) := rfl
    have hstream : (d.session k.sess).stream k.stream = decideSlots b.now k res eff payload ((b.session k.sess).stream k.stream) := by
      rw [hd]
      exact b.stream_updStream_same k.sess k.stream rfl
    refine ⟨rfl, fun i j h => ?others, fun q hq => ?seqs, fun sl hsl => ?slot⟩
    case others =>
      rw [hd]
      exact b.stream_updStream_ne _ h
    case seqs =>
      rw [hstream, slot?_decideSlots]
      cases hfind : ((b.session k.sess).stream k.stream).slot? q with
      | none => rfl
      | some sl =>
        have hseq : sl.seq = q := by simpa using List.find?_some hfind
        rw [Option.map_some, if_neg fun h => hq (hseq ▸ h.1)]
    case slot =>
      have hseq : sl.seq = k.seq := by simpa using List.find?_some hsl
      rw [hstream, slot?_decideSlots, hsl, Option.map_some]
      simp only [hseq, true_and]

/-! ## Reset and the register file -/

/-- Settles O3: what State.reset lists, and the laws of a register's write. -/
theorem registersHoldTheirValues : Obligations.RegistersHoldTheirValues := by
  refine ⟨?gates, rfl, rfl, rfl, rfl, fun _ => rfl, fun s pid v hv => ?same, fun s pid q v hq => s.reg_setReg_other pid q v hq, fun _ _ _ => rfl⟩
  case gates =>
    intro b hb hgate
    rw [List.eq_of_mem_replicate hb] at hgate
    exact absurd hgate Bool.false_ne_true
  case same => rw [s.reg_setReg_same, Nat.mod_eq_of_lt hv]

end Sys2Proof.Machine
end

