-- ==== Sys2Proof/Proofs/Parameters.lean ====
section
/-!
PROOFS. Reads and writes of parameters (R26, R76, R77): the rules by which parameter rows complete, and the four opcodes.
-/
namespace Sys2Proof.Machine

open Sys2Proof

/-! ## Checks over a list -/

/-- No entry of a list fails its check. -/
theorem firstFailing_eq_none {α : Type} {check : α → Option Nat} {i : Nat} {l : List α} :
    firstFailing check i l = none ↔ ∀ e ∈ l, check e = none := by
  induction l generalizing i with
  | nil => simp [firstFailing]
  | cons e r ih =>
    rw [firstFailing, List.forall_mem_cons]
    cases h : check e with
    | none => simp [ih]
    | some code => simp

/-! ## One write -/

/-- A write that has passed its checks, of a parameter of the data plane, waits for its boundary (R26). -/
theorem State.bodyParamWrite_queued {b : State} {c : Ctx} (htwin : c.twin = false) (hpass : b.mayWrite c = true)
    (hregion : pidRegion (u32 c.payload 0) ≠ 0) : b.bodyParamWrite c = b.queueWrite c := by
  rw [State.bodyParamWrite]
  refine State.unless_of (Option.isNone_iff_eq_none.mp hpass) ?_
  simp [State.acceptWrites, htwin, hregion, State.atBoundary, State.queueWrite]

/-- One of management acts, and is decided with the value the parameter then reads. -/
theorem State.bodyParamWrite_acts {b : State} {c : Ctx} (hop : c.op = 0x0101) (htwin : c.twin = false) (hpass : b.mayWrite c = true)
    (hone : isBroadcast (u32 c.payload 0) = false) (hregion : pidRegion (u32 c.payload 0) = 0)
    (hload : u32 c.payload 0 ≠ P.SYS_FW_LOAD) :
    b.bodyParamWrite c =
      let s := b.applyMgt c.k false (u32 c.payload 0) (u32 c.payload 4)
      s.decide c.k rOK s.now (le 4 (s.paramValue (u32 c.payload 0))) := by
  rw [State.bodyParamWrite]
  refine State.unless_of (Option.isNone_iff_eq_none.mp hpass) ?_
  simp [State.acceptWrites, State.applyWrites, State.writeReply, State.targets, State.applyParam, hop, htwin, hone, hregion, hload]

/-- Every row of a data-plane parameter completes. -/
theorem WriteCompletes.of_paramWrite {c : Packet → Instr} {pid : Nat → Bool}
    (hexec : ∀ p s, exec (c p) s = s.hostCommand 0x0101 p := by intros; rfl) : WriteCompletes c pid := by
  refine .of_body State.bodyParamWrite (fun b x hb h => ?_) hexec
  simp only [Bool.and_eq_true, decide_eq_true_eq] at h
  exact State.bodyParamWrite_queued hb.twin h.1.1 h.2

/-- A row of a management parameter completes with what a write of it does. -/
theorem ManageCompletes.of_applyMgt {c : Packet → Instr} {pid : Nat → Bool} {act : State → Ctx → Nat → State}
    (h : ∀ b x v q, pid q = true → q ≠ P.SYS_FW_LOAD → pidRegion q = 0 → State.applyMgt b x.k false q v = act b x v)
    (hexec : ∀ p s, exec (c p) s = s.hostCommand 0x0101 p := by intros; rfl) : ManageCompletes c pid act := by
  refine .of_body State.bodyParamWrite (fun b x hb hable => ?_) hexec
  simp only [Bool.and_eq_true, Bool.not_eq_true', decide_eq_true_eq] at hable
  obtain ⟨⟨⟨⟨hpass, hpid⟩, hone⟩, hregion⟩, hload⟩ := hable
  rw [State.bodyParamWrite_acts hb.op hb.twin hpass hone hregion hload, h b x _ _ hpid hload hregion]

/-! ## The four opcodes -/

/-- Settles O11: no PID of the read fails its check. -/
theorem parameterReadsComplete : Obligations.ParameterReadsComplete := by
  refine ⟨.of_body State.bodyParamRead fun b c _ h => ?one, .of_body State.bodyParamReadBlock fun b c _ h => ?block⟩
  case one =>
    rw [State.bodyParamRead]
    exact State.unless_of (Option.isNone_iff_eq_none.mp h)
  case block =>
    simp only [Bool.and_eq_true, decide_eq_true_eq, List.all_eq_true, Option.isNone_iff_eq_none] at h
    obtain ⟨⟨hlo, hhi⟩, hread⟩ := h
    have hcount : ¬(((List.range (u32 c.payload 0)).map fun i => u32 c.payload (4 + 4 * i)).isEmpty = true ∨
        ((List.range (u32 c.payload 0)).map fun i => u32 c.payload (4 + 4 * i)).length > 64) := by
      simp only [List.isEmpty_iff_length_eq_zero, List.length_map, List.length_range]
      omega
    simp only [State.bodyParamReadBlock, if_neg hcount, firstFailing_eq_none.mpr hread]
    rfl

/-- Settles O12: the region of a parameter decides whether its write waits; a block waits if one of its entries does. -/
theorem parameterWritesComplete : Obligations.ParameterWritesComplete := by
  refine ⟨.of_paramWrite, fun pid hpid => .of_applyMgt fun b x v q hq _ _ => ?mgt,
    .of_body State.bodyParamWriteBlock fun b c hb h => ?block⟩
  case mgt =>
    rw [of_decide_eq_true hq]
    simp only [State.applyParam, hpid]
  case block =>
    simp only [Bool.and_eq_true, decide_eq_true_eq, Option.isNone_iff_eq_none, List.any_eq_true] at h
    obtain ⟨⟨⟨⟨hlo, hhi⟩, hpass⟩, himage⟩, e, he, hregion⟩ := h
    have hcount : ¬((blockEntries c.payload).isEmpty = true ∨ (blockEntries c.payload).length > 64) := by
      rw [List.isEmpty_iff_length_eq_zero]
      omega
    have hdata : ¬((blockEntries c.payload).all fun e => pidRegion e.1 = 0) = true := fun hall =>
      hregion (of_decide_eq_true (List.all_eq_true.mp hall e he))
    have hfilter : (blockEntries c.payload).filter (fun _ => true) = blockEntries c.payload := List.filter_eq_self.mpr fun _ _ => rfl
    simp only [State.bodyParamWriteBlock, if_neg hcount, hpass, himage, State.acceptWrites, if_neg hdata, hb.twin, State.atBoundary, hb.op,
      Bool.false_and, Bool.not_false, hfilter]

end Sys2Proof.Machine
end

