-- ==== Sys2Proof/Proofs/Exposure.lean ====
section
/-!
PROOFS. The commands and events of the beam cells, and of the laser ports (R90-R134).
-/
namespace Sys2Proof.Machine

open Sys2Proof

/-! ## A beam under an update -/

/-- A field that an update leaves is as before, also of a beam that does not exist. -/
theorem State.beam_updBeam_field {α : Type} (s : State) (n : Nat) {f : Beam → Beam} (g : Beam → α) (h : ∀ b, g (f b) = g b) :
    g ((s.updBeam n f).beam n) = g (s.beam n) := by
  obtain he | ⟨hu, hs⟩ := getD_modify_eq_or (d := beamReset) s.beams n f
  · exact (congrArg g he).trans (h _)
  · exact congrArg g (hu.trans hs.symm)

theorem State.beam_updBeam_same (s : State) {n : Nat} (f : Beam → Beam) (h : n < s.beams.length) :
    (s.updBeam n f).beam n = f (s.beam n) := by
  simp [State.beam, State.updBeam, h]

theorem State.beam_updBeam_ne (s : State) {n m : Nat} (f : Beam → Beam) (h : m ≠ n) : (s.updBeam n f).beam m = s.beam m :=
  getD_modify_ne s.beams f h

/-! ## Controls (R127, R128) -/

/-- Settles O16: the branches of BEAM_ENABLE by the beam's state and by what waits in its cell. -/
theorem beamControlsComplete : Obligations.BeamControlsComplete := by
  refine ⟨.of_body State.bodyBeamEnable ?arm, .of_body State.bodyBeamEnable ?resume, .of_body State.bodyBeamEnable ?wait,
    .of_body State.bodyBeamEnable ?already, .of_body State.bodyBeamDisable ?disable⟩
  all_goals
    intro b c _ h
    simp only [Bool.and_eq_true, Bool.or_eq_true, Bool.not_eq_true', decide_eq_true_eq, List.isEmpty_iff] at h
  case arm =>
    obtain ⟨⟨⟨hn, htable⟩, hctl⟩, hst⟩ := h
    simp [State.bodyBeamEnable, hctl, hst, htable, Nat.not_le.mpr hn]
  case resume =>
    obtain ⟨⟨⟨⟨⟨hn, htable⟩, hctl⟩, hst⟩, hres⟩, hcause⟩ := h
    simp [State.bodyBeamEnable, hctl, hst, hres, hcause, htable, Nat.not_le.mpr hn]
  case wait =>
    obtain ⟨⟨hn, htable⟩, hwait⟩ := h
    have hwait' : (b.beam c.beam).st = 4 ∨ ¬(b.beam c.beam).ctl = [] := hwait.imp_right fun h => by simpa using h
    have hnot : ¬((b.beam c.beam).st = 5 ∧ (b.beam c.beam).ctl = []) := by
      rintro ⟨hst, hctl⟩
      exact hwait'.elim (by omega) fun h => h hctl
    simp [State.bodyBeamEnable, Nat.not_le.mpr hn, htable, hnot, hwait', State.queued]
  case already =>
    obtain ⟨⟨⟨⟨hn, htable⟩, hctl⟩, hlo⟩, hhi⟩ := h
    have h5 : (b.beam c.beam).st ≠ 5 := by omega
    have h4 : (b.beam c.beam).st ≠ 4 := by omega
    have h0 : (b.beam c.beam).st ≠ 0 := by omega
    simp [State.bodyBeamEnable, hctl, h5, h4, h0, htable, Nat.not_le.mpr hn, State.ok]
  case disable =>
    obtain ⟨hn, hmode⟩ := h
    exact if_neg (not_or.mpr ⟨Nat.not_le.mpr hn, Nat.not_lt.mpr hmode⟩)

/-! ## Exposures (R95, R96) -/

/-- Settles O17: the checks of R95 pass, and the command joins its queue. -/
theorem exposuresComplete : Obligations.ExposuresComplete := by
  refine ⟨.of_body State.bodyExposeList ?list, .of_body State.bodyExposeInline ?inline, .of_body State.bodyCatalogueMark ?mark⟩
  all_goals
    intro b c _ h
    simp only [Bool.and_eq_true, Bool.or_eq_true, Bool.not_eq_true', decide_eq_true_eq, Option.isNone_iff_eq_none] at h
  case list =>
    obtain ⟨⟨⟨⟨⟨⟨⟨hn, hpool⟩, hoff⟩, hlen⟩, hsome⟩, hsize⟩, hloan⟩, hopen⟩ := h
    rw [State.bodyExposeList]
    refine State.unless_of ?_
    simp [hloan, hopen, hoff, hlen, hsome, hsize, hn]
    omega
  case inline =>
    obtain ⟨⟨hn, hlen⟩, hopen⟩ := h
    rw [State.bodyExposeInline]
    refine State.unless_of ?_
    rw [List.length_drop] at hlen
    simp [hlen, hopen, hn]
  case mark =>
    obtain ⟨hn, hopen⟩ := h
    rw [State.bodyCatalogueMark]
    refine State.unless_of ?_
    simp [hopen, hn]

/-- The bytes of an accession are read one by one. -/
theorem State.memBytes_congr {s t : State} {acc : Nat} (h : ∀ off, t.memByte acc off = s.memByte acc off) (off n : Nat) :
    t.memBytes acc off n = s.memBytes acc off n := by
  induction n generalizing off with
  | zero => rfl
  | succ n ih => rw [State.memBytes, State.memBytes, h, ih]

/-- Settles O18: joining a queue updates one beam and decides in the host's sessions. -/
theorem enqueueEffect : Obligations.EnqueueEffect := by
  intro s c tag kind hn
  refine ⟨?_, fun m hm => s.beam_updBeam_ne _ hm, rfl, rfl, rfl, rfl, rfl, rfl, 
    fun k acc off n => ⟨State.memBytes_congr (s := s) (t := s.enqueue c tag kind) (fun _ => rfl) off n, rfl⟩⟩
  exact congrArg Beam.cmds (s.beam_updBeam_same _ hn)

end Sys2Proof.Machine
end

