-- ==== Sys2Proof/Proofs/BeamEvents.lean ====
section
/-!
PROOFS. The events of the beam cells, the ticks and the laser pins (R24, R91, R96, R112, R117-R133, R231).
-/
namespace Sys2Proof.Machine

open Sys2Proof

/-! ## ARMING and STOPPING (R119, R126, R231) -/

/-- Settles O19: what each event tests holds where it is due. -/
theorem beamTransitionsComplete : Obligations.BeamTransitionsComplete := by
  refine ⟨fun n => .of_beam (fun a _ => a.armComplete n) ?armed, fun n => .of_beam (fun a _ => a.armTimeout n) ?late,
    fun n f => .of_beam (fun a _ => a.identReply n (some f)) ?ident, fun n k p => .of_beam (fun a _ => a.parkReached n) ?parked,
    fun n k => .of_beam (fun a _ => a.parkTimeout n) ?timeout⟩
  all_goals
    intro a t h
    simp only [Bool.and_eq_true, Bool.or_eq_true, Bool.not_eq_true', decide_eq_true_eq] at h
  case armed =>
    obtain ⟨⟨⟨⟨⟨hst, hhead⟩, hawake⟩, hready⟩, hlaser⟩, -⟩ := h
    have hgo : ¬((a.beam n).st ≠ 1 ∨ (!(a.headReady n && a.beamAwake n && (a.rg P.LSR_READY_REQ n = 0 || a.readyActive n) &&
        (a.rg P.LSR_MODE n ≠ 2 || (a.beam n).laser.identOk))) = true) := by
      simp only [hst, hhead, hawake, Bool.true_and, ne_eq, not_true_eq_false, false_or, Bool.not_eq_true', Bool.not_eq_false, Bool.and_eq_true,
        Bool.or_eq_true, decide_eq_true_eq]
      exact ⟨hready, hlaser⟩
    exact if_neg hgo
  case late => exact if_pos h
  case ident =>
    obtain ⟨⟨⟨⟨⟨⟨⟨hst, hmode⟩, hnew⟩, hwin⟩, h30⟩, h31⟩, h1⟩, hcrc⟩ := h
    cases hat : (a.beam n).laser.identAt with
    | none => simp [hat] at hwin
    | some begun =>
      simp only [hat, Bool.and_eq_true, decide_eq_true_eq] at hwin
      simp [State.identReply, hat, hst, hmode, hnew, Nat.not_lt.mpr hwin.1, Nat.not_le.mpr hwin.2, h30, h31, h1, hcrc]
  case parked =>
    obtain ⟨⟨⟨⟨hst, hshut⟩, hpark⟩, hpast⟩, hport⟩ := h
    simp [State.parkReached, hst, hshut, hpark, hpast, hport]
  case timeout =>
    obtain ⟨⟨⟨hst, hport⟩, hshut⟩, hpast⟩ := h
    simp [State.parkTimeout, hst, hport, hshut, hpast]

/-! ## The work of a beam (R91, R96, R112, R133) -/

/-- A table write that stands alone and is due takes effect. -/
theorem State.tableLatch_due {a : State} {n : Nat} {w : PendingWrite} (hwrites : a.writes = [w]) (hdue : w.due ≤ a.now)
    (hbeam : (w.tables.any fun p => pidInst p = n) = true) (hready : a.tablesReady w = true) :
    a.tableLatch n = State.applyOne { a with writes := [] } w := by
  have hready' : State.tablesReady { a with writes := [] } w = true := hready
  simp only [State.tableLatch, State.applyTables, State.applyPicked, hwrites, List.foldl_cons, List.foldl_nil, Nat.not_lt.mpr hdue,
    List.any_nil, Bool.false_eq_true, hbeam, hready', Bool.not_true, or_self, if_false, List.nil_append]

/-- Settles O20: what each event finds at the front of the queue, of the ring or of the plan. -/
theorem beamWorkCompletes : Obligations.BeamWorkCompletes := by
  refine ⟨fun n c => .of_beam (fun a _ => a.exposeBegin n) ?begin,
    fun n c r acc off len => .of_beam (fun a _ => a.endList n) ?list, fun n c r data => .of_beam (fun a _ => a.endList n) ?inline,
    fun n c r => .of_beam (fun a _ => a.markReached n) ?mark, fun n c => .of_beam (fun a _ => a.vectorFetch n) ?fetch,
    fun n c v r => .of_beam (fun a _ => a.vectorPlan n) ?plan, fun n w => .of_beam (fun a _ => a.tableLatch n) ?latch⟩
  all_goals
    intro a t h
    simp only [Bool.and_eq_true, Bool.or_eq_true, Bool.not_eq_true', decide_eq_true_eq] at h
  case begin =>
    obtain ⟨⟨hnext, hmay⟩, hst⟩ := h
    simp [State.exposeBegin, hnext, hmay, hst]
  case list =>
    obtain ⟨⟨hcmds, hkind⟩, hdone⟩ := h
    simp [State.endList, hcmds, hkind, hdone, ExpCmd.loans]
  case inline =>
    obtain ⟨⟨hcmds, hkind⟩, hdone⟩ := h
    simp [State.endList, hcmds, hkind, hdone, ExpCmd.loans]
  case mark =>
    obtain ⟨⟨hcmds, hkind⟩, hbegun⟩ := h
    simp [State.markReached, hcmds, hkind, hbegun]
  case fetch =>
    obtain ⟨⟨⟨⟨⟨⟨hst, hfind⟩, hlen⟩, hend⟩, hmax⟩, hring⟩, hpoison⟩ := h
    have hrun : ¬((a.beam n).st ≠ 2 ∧ (a.beam n).st ≠ 3) := by omega
    cases hk : c.kind with
    | list | inline | mark | rasRun | rasPush =>
      simp [State.vectorFetch, hrun, hfind, hlen, Nat.not_lt.mpr hend, Nat.not_lt.mpr hmax, Nat.not_lt.mpr hring, hpoison, hk]
  case plan =>
    obtain ⟨⟨⟨⟨hst, hcmd⟩, hring⟩, hord⟩, hkind⟩ := h
    have hrun : ¬((a.beam n).st ≠ 2 ∧ (a.beam n).st ≠ 3) := by omega
    cases hk : c.kind with
    | list | inline => simp [State.vectorPlan, hrun, hcmd, hk, hring, hord]
    | mark | rasRun | rasPush => simp [hk] at hkind
  case latch =>
    obtain ⟨⟨⟨hwrites, hdue⟩, hbeam⟩, hready⟩ := h
    exact State.tableLatch_due hwrites hdue hbeam hready

/-! ## The ticks (R23, R24, R26, R91) -/

/-- A micro-step that is due while the exposure domain runs: every front, then every laser; at a frame's last the position too. -/
theorem State.microTick_runs {a : State} {t : TS} (hdue : a.microDue t = true) (hmicro : a.micro < t) (hnow : a.now = t)
    (hruns : a.expRuns = true) :
    a.microTick t =
      let p := a.pathTime t
      let s := State.applyTables { a with micro := t } fun _ => true
      let s := forEach (List.range a.nBeams) (fun n s => s.microFront n p) s
      forEach (List.range a.nBeams) (fun n s =>
        let s := s.microLaser n p
        if p % 2560 ≠ 0 then s else (s.setRgI P.BEAM_POS_X n (s.beam n).px).setRgI P.BEAM_POS_Y n (s.beam n).py) s := by
  have hgo : ¬((!a.microDue t) = true ∨ t ≤ a.micro ∨ t ≠ a.now) := by simp [hdue, hmicro, hnow]
  have hruns' : State.expRuns { a with micro := t } = true := hruns
  exact (if_neg hgo).trans (if_neg (by simp [hruns']))

/-- Settles O21: a tick and a micro-step at their instants, while the domain runs and while it does not. -/
theorem ticksComplete : Obligations.TicksComplete := by
  refine ⟨.of_next (fun a t => a.frameTick t) ?frameRuns, .of_next (fun a t => a.frameTick t) ?frameStands,
    .of_next (fun a t => a.microTick t) ?micro, .of_next (fun a t => a.microTick t) ?microLast,
    .of_next (fun a t => a.microTick t) ?microStands⟩
  all_goals
    intro a t h
    simp only [Bool.and_eq_true, Bool.not_eq_true', decide_eq_true_eq] at h
  case frameRuns =>
    obtain ⟨⟨⟨hmod, htick⟩, hnow⟩, hruns⟩ := h
    simp [State.frameTick, hmod, Nat.not_le.mpr htick, hnow, hruns]
  case frameStands =>
    obtain ⟨⟨⟨hmod, htick⟩, hnow⟩, hruns⟩ := h
    simp [State.frameTick, hmod, Nat.not_le.mpr htick, hnow, hruns]
  case micro =>
    obtain ⟨⟨⟨⟨hdue, hmicro⟩, hnow⟩, hruns⟩, hpath⟩ := h
    rw [State.microTick_runs hdue hmicro hnow hruns]
    simp only [ne_eq, hpath, not_false_eq_true, if_true]
  case microLast =>
    obtain ⟨⟨⟨⟨hdue, hmicro⟩, hnow⟩, hruns⟩, hpath⟩ := h
    rw [State.microTick_runs hdue hmicro hnow hruns]
    simp only [ne_eq, hpath, not_true_eq_false, if_false]
  case microStands =>
    obtain ⟨⟨⟨hdue, hmicro⟩, hnow⟩, hruns⟩ := h
    have hgo : ¬((!a.microDue t) = true ∨ t ≤ a.micro ∨ t ≠ a.now) := by simp [hdue, hmicro, hnow]
    have hstands : State.expRuns { a with micro := t } = false := hruns
    exact (if_neg hgo).trans (if_pos (by simp [hstands]))

/-! ## The laser pins (R117, R120, R122, R124) -/

/-- The sync settings of a laser port are registers. -/
theorem State.syncWaits_updBeam (s : State) (n m : Nat) (f : Beam → Beam) : (s.updBeam n f).syncWaits m = s.syncWaits m := rfl

/-- Noting a sync edge leaves the laser's path time. -/
theorem State.laserNow_sync (s : State) (n : Nat) (at_ : TS) :
    (s.updBeam n fun b => { b with laser := { b.laser with lastSync := at_ } }).laserNow n = s.laserNow n :=
  congrArg (fun x : Int => x + ((min 256 (s.now - s.micro) : Nat) : Int))
    (s.beam_updBeam_field n (fun b => b.laser.stepAt) fun _ => rfl)

/-- Settles O22: an enable acts on the gates where one of the two is low; a sync edge opens the gate that waits for it. -/
theorem laserPinsComplete : Obligations.LaserPinsComplete := by
  refine ⟨fun x y => .of_next (fun a t => a.laserEn x y t) ?high, fun x y => .of_next (fun a t => a.laserEn x y t) ?low,
    fun d => .of_next (fun a _ => a.safetyFault) ?safety, fun n on => .of_beam (fun a _ => a.laserReady n on) fun _ _ _ => rfl,
    fun n on => .of_beam (fun a _ => a.laserAlarm n on) fun _ _ _ => rfl,
    fun n => .of_beam (fun a _ => a.syncEdge n) ?free, fun n g => .of_beam (fun a _ => a.syncEdge n) ?opens⟩
  all_goals
    intro a t h
    simp only [Bool.and_eq_true, Bool.not_eq_true', decide_eq_true_eq] at h
  case high => exact if_pos (by simp [h])
  case low => exact if_neg (by simp [h])
  case safety =>
    obtain ⟨⟨hdiff, hok⟩, hlate⟩ := h
    simp [State.safetyFault, hdiff, hok, Nat.not_le.mpr hlate]
  case free =>
    have hfree : (a.updBeam n fun b => { b with laser := { b.laser with lastSync := a.now } }).syncWaits n = false := by
      rw [State.syncWaits_updBeam, State.syncWaits, decide_eq_false h, Bool.false_and]
    simp only [State.syncEdge, hfree, Bool.not_false, if_true]
    split <;> rfl
  case opens =>
    obtain ⟨⟨⟨hst, hwaits⟩, hmin⟩, hfind⟩ := h
    have hst' := a.beam_updBeam_field n (f := fun b => { b with laser := { b.laser with lastSync := a.now } }) Beam.st fun _ => rfl
    have hgates := a.beam_updBeam_field n (f := fun b => { b with laser := { b.laser with lastSync := a.now } }) Beam.gates fun _ => rfl
    have hnow := a.laserNow_sync n a.now
    have hwaits' := a.syncWaits_updBeam n n fun b => { b with laser := { b.laser with lastSync := a.now } }
    simp only [State.syncEdge, hst', hst, hgates, hnow, hfind, hwaits', hwaits, true_or, if_true, Bool.not_true, Bool.false_eq_true, if_false]
    exact if_neg (Int.not_lt.mpr hmin)

end Sys2Proof.Machine
end

