-- ==== Sys2Proof/Proofs/Loans.lean ====
section
/-!
PROOFS. Taking and returning loans leaves all but the store, the log and the outputs (R339-R341).
-/
namespace Sys2Proof.Machine

open Sys2Proof

theorem Logged.releaseAcc (s : State) (acc : Nat) : Logged s (s.releaseAcc acc) := ⟨rfl, fun _ _ _ => rfl⟩

theorem Logged.takeLoan (s : State) (acc : Nat) : Logged s (s.takeLoan acc) := Logged.updAcc s acc _

theorem Logged.returnLoan (s : State) (acc : Nat) : Logged s (s.returnLoan acc) := by
  unfold State.returnLoan
  cases s.acc? acc with
  | none => exact Logged.refl s
  | some a =>
    dsimp only
    split
    · exact (Logged.releaseAcc s acc).trans (Logged.record ..)
    · exact Logged.updAcc s acc _

theorem Logged.foldl {α : Type} {f : State → α → State} (h : ∀ s x, Logged s (f s x)) (l : List α) (s : State) :
    Logged s (l.foldl f s) := by
  induction l generalizing s with
  | nil => exact Logged.refl s
  | cons x r ih => exact (h s x).trans (ih (f s x))

theorem Logged.takeLoans (s : State) (accs : List Nat) : Logged s (s.takeLoans accs) := Logged.foldl Logged.takeLoan accs s

theorem Logged.returnLoans (s : State) (accs : List Nat) : Logged s (s.returnLoans accs) := Logged.foldl Logged.returnLoan accs s

/-- A register that is no counter of the log. -/
theorem Logged.rg {s t : State} (h : Logged s t) {p i : Nat} (h1 : p + i * 2 ^ 16 ≠ P.LOG_OVERWRITTEN) (h2 : p + i * 2 ^ 16 ≠ P.LOG_MERGES) :
    t.rg p i = s.rg p i := h.2 _ h1 h2

theorem Logged.beam {s t : State} (h : Logged s t) (n : Nat) : t.beam n = s.beam n := by rw [State.beam, State.beam, h.beams]

end Sys2Proof.Machine
end

