-- ==== Sys2Proof/Proofs/Raster.lean ====
section
/-!
PROOFS. The commands and events of rasters (R135-R151).
-/
namespace Sys2Proof.Machine

open Sys2Proof

/-! ## What blanking depends on (R145) -/

/-- Whether a beam is in its blanking is told by its raster, its vectors and its path time. -/
theorem State.inBlanking_congr {s t : State} {n : Nat} (hblank : (t.beam n).ras.blanking = (s.beam n).ras.blanking)
    (hvecs : (t.beam n).vecs = (s.beam n).vecs) (hlaser : (t.beam n).laser = (s.beam n).laser) (hnow : t.now = s.now)
    (hmicro : t.micro = s.micro) : t.inBlanking n = s.inBlanking n := by
  have hpath : t.laserNow n = s.laserNow n := by rw [State.laserNow, State.laserNow, hlaser, hnow, hmicro]
  simp only [State.inBlanking, hblank, hvecs, hpath]

/-- A descriptor that is noted as pending, with its loans, changes nothing of the blanking. -/
theorem State.inBlanking_pending (s : State) (n : Nat) (accs : List Nat) (d : Option (List Byte)) (seq : Nat) (fresh : Bool) :
    ((s.takeLoans accs).updBeam n fun b =>
      { b with ras := { b.ras with pending := d, pendingSeq := seq, pendingFresh := fresh } }).inBlanking n = s.inBlanking n := by
  have hloans := Logged.takeLoans s accs
  have hfield {α : Type} (g : Beam → α)
      (h : ∀ b : Beam, g { b with ras := { b.ras with pending := d, pendingSeq := seq, pendingFresh := fresh } } = g b) :=
    ((s.takeLoans accs).beam_updBeam_field n g h).trans (congrArg g (hloans.beam n))
  exact State.inBlanking_congr (hfield (·.ras.blanking) fun _ => rfl) (hfield Beam.vecs fun _ => rfl) (hfield Beam.laser fun _ => rfl)
    hloans.now hloans.micro

/-- The region count of a beam is no counter of the log. -/
theorem Logged.regionNo {s t : State} (h : Logged s t) (n : Nat) : t.rg P.BEAM_RAS_REGION_NO n = s.rg P.BEAM_RAS_REGION_NO n :=
  h.rg (by simp only [P.BEAM_RAS_REGION_NO, P.LOG_OVERWRITTEN]; omega) (by simp only [P.BEAM_RAS_REGION_NO, P.LOG_MERGES]; omega)

/-! ## Commands (R143, R151) -/

/-- A descriptor that finds no fresh one pending becomes the pending set. -/
theorem State.bodyRasterCommit_pending {b : State} {c : Ctx} (hn : c.beam < b.nBeams) (hdesc : b.descBad c.payload = none)
    (hsrc : b.rg P.BEAM_RAS_SRC c.beam ≠ 0) (hfresh : ((b.blankingDue c.beam).beam c.beam).ras.pendingFresh = false) :
    b.bodyRasterCommit c =
      let n := c.beam
      let b := b.blankingDue n
      let late := b.inBlanking n
      let s := (b.takeLoans (descLoans c.payload)).updBeam n fun b =>
        { b with ras := { b.ras with pending := some c.payload, pendingSeq := c.seq, pendingFresh := true } }
      s.decide c.k (if late then rDEFERRED else rOK) s.now (le 4 (b.rg P.BEAM_RAS_REGION_NO n + (if late then 2 else 1))) := by
  rw [State.bodyRasterCommit]
  refine State.unless_of (by simp only [ge_iff_le, if_neg (Nat.not_le.mpr hn), hdesc, if_neg hsrc]) ?_
  have hloans := Logged.takeLoans (b.blankingDue c.beam) (descLoans c.payload)
  have hlate : ((b.blankingDue c.beam).takeLoans (descLoans c.payload)).inBlanking c.beam = (b.blankingDue c.beam).inBlanking c.beam := by
    refine State.inBlanking_congr ?_ ?_ ?_ hloans.now hloans.micro
    all_goals rw [hloans.beam]
  simp only [hfresh, Bool.false_eq_true, if_false, hlate, hloans.regionNo]
  cases ((b.blankingDue c.beam).beam c.beam).ras.pending with
  | none => rw [State.inBlanking_pending]
  | some old => rw [State.inBlanking_pending]

/-- Settles O23: the checks of R143 and R151 pass; the parameter rows are writes of the data plane. -/
theorem rasterCommandsComplete : Obligations.RasterCommandsComplete := by
  refine ⟨.of_body State.bodyRasterCommit ?commit, .of_body State.bodyRasterRun ?run, .of_body State.bodyRasterHalt ?halt,
    .of_body State.bodyRasterHalt ?idle, .of_body State.bodyRasterPush ?push, .of_paramWrite, .of_paramWrite, .of_paramWrite⟩
  all_goals
    intro b c _ h
    simp only [Bool.and_eq_true, Bool.not_eq_true', decide_eq_true_eq, Option.isNone_iff_eq_none] at h
  case commit =>
    obtain ⟨⟨⟨hn, hdesc⟩, hsrc⟩, hfresh⟩ := h
    exact State.bodyRasterCommit_pending hn hdesc hsrc hfresh
  case run =>
    obtain ⟨⟨⟨⟨⟨hn, hsrc⟩, hopen⟩, hfresh⟩, hxy2⟩, hdly⟩ := h
    rw [State.bodyRasterRun]
    refine State.unless_of ?_
    simp [hn, hsrc, hopen, hfresh, hxy2, Nat.not_lt.mpr hdly]
  case halt =>
    obtain ⟨⟨hn, hsrc⟩, hruns⟩ := h
    simp only [State.bodyRasterHalt, ge_iff_le, if_neg (Nat.not_le.mpr hn), if_neg hsrc, hruns, Bool.not_true, Bool.false_eq_true, if_false]
  case idle =>
    obtain ⟨⟨hn, hsrc⟩, hruns⟩ := h
    simp only [State.bodyRasterHalt, ge_iff_le, if_neg (Nat.not_le.mpr hn), if_neg hsrc, hruns, Bool.not_false, if_true]
    rfl
  case push =>
    obtain ⟨⟨⟨hn, hdesc⟩, hsrc⟩, hopen⟩ := h
    rw [State.bodyRasterPush]
    refine State.unless_of ?_
    simp [Nat.not_le.mpr hn, hdesc, hsrc, hopen]

/-! ## Events (R145, R148, R151, R169) -/

/-- A run whose last line is past and whose beam is neither in a region nor in its blanking. -/
theorem State.rasterBlanking_run {a : State} {n : Nat} {c : ExpCmd} (hst : (a.beam n).st = 3) (hcmd : (a.beam n).planCmd = some c)
    (hkind : c.kind = .rasRun) (hbegun : c.begun = true) (hclosed : (a.beam n).ras.regionOpen = false)
    (hblank : (a.beam n).ras.blanking = false) (hdone : (a.beam n).vecs.all (·.done) = true)
    (hpast : ∀ e, (a.beam n).ras.endAt = some e → e ≤ a.laserNow n / 2 * 2 + 1) : a.rasterBlanking n = a.blankRun n c := by
  cases hend : (a.beam n).ras.endAt with
  | none => simp only [State.rasterBlanking, hst, hcmd, hkind, hbegun, hclosed, hblank, hdone, hend, ne_eq, not_true_eq_false, if_false,
      Bool.not_false, Bool.and_self, if_true]
  | some e => simp only [State.rasterBlanking, hst, hcmd, hkind, hbegun, hclosed, hblank, hdone, hend, hpast e hend, decide_true, ne_eq,
      not_true_eq_false, if_false, Bool.not_false, Bool.and_self, if_true]

/-- The open region of a run whose lines are all exposed or skipped ends with its record. -/
theorem State.regionEnd_run {a : State} {n : Nat} {c : ExpCmd} {d : List Byte}
    (hcmd : (a.beam n).cmds.find? (fun c => c.begun && (match c.kind with | .rasRun | .rasPush _ => true | _ => false)) = some c)
    (hkind : c.kind = .rasRun) (hdesc : (a.beam n).descFor c.ord = some d)
    (hopen : (a.beam n).ras.regionOpen = true) (hall : rdH d ≤ (a.beam n).ras.exposed + (a.beam n).ras.skipped) :
    a.regionEnd n =
      let r := (a.beam n).ras
      (a.record (a.beamSrc n) 0x1102
        (le 4 (rdTag d) ++ le 4 (a.rg P.BEAM_RAS_REGION_NO n) ++ le 2 r.exposed ++ le 2 r.skipped ++ le 2 r.clamped ++
          le 4 r.repeated)).updBeam n fun b => { b with ras := { b.ras with regionOpen := false, cache := [] } } := by
  dsimp only [State.regionEnd]
  generalize hf : List.find? _ (a.beam n).cmds = o
  obtain rfl : o = some c := hf.symm.trans hcmd
  simp only [hdesc, hopen, hkind, Nat.not_lt.mpr hall, Bool.not_true, Bool.false_eq_true, or_self, if_false]

/-- Settles O24: the command that each event finds is the one its condition names. -/
theorem rasterEventsComplete : Obligations.RasterEventsComplete := by
  refine ⟨fun n c => .of_beam (fun a _ => a.rasterBlanking n) ?run, fun n c d => .of_beam (fun a _ => a.rasterBlanking n) ?push,
    fun n c d => .of_beam (fun a _ => a.regionEnd n) ?region,
    fun i up => .of_unit (fun a t => a.lineSync i up t) (fun _ _ h => h) fun _ _ _ => rfl,
    fun n c d => .of_beam (fun a _ => a.lineBufferFill n) ?fill⟩
  all_goals
    intro a t h
    simp only [Bool.and_eq_true, Bool.not_eq_true', decide_eq_true_eq] at h
  case run =>
    obtain ⟨⟨⟨⟨⟨⟨⟨hst, hcmd⟩, hkind⟩, hbegun⟩, hclosed⟩, hblank⟩, hdone⟩, hpast⟩ := h
    refine State.rasterBlanking_run hst hcmd hkind hbegun hclosed hblank hdone fun e he => ?_
    rw [he] at hpast
    exact of_decide_eq_true hpast
  case push =>
    obtain ⟨⟨hst, hcmd⟩, hkind⟩ := h
    simp only [State.rasterBlanking, hst, hcmd, hkind, ne_eq, not_true_eq_false, if_false]
  case region =>
    obtain ⟨⟨⟨⟨hcmd, hkind⟩, hdesc⟩, hopen⟩, hall⟩ := h
    exact State.regionEnd_run hcmd hkind hdesc hopen hall
  case fill =>
    obtain ⟨⟨hcmd, hdesc⟩, hfit⟩ := h
    dsimp only [State.lineBufferFill]
    generalize hf : List.find? _ (a.beam n).cmds = o
    obtain rfl : o = some c := hf.symm.trans hcmd
    simp only [hdesc, Nat.not_lt.mpr hfit, if_false]

end Sys2Proof.Machine
end

