-- ==== Sys2Proof/Proofs/Gallery.lean ====
section
/-!
PROOFS. The commands and events of the Gallery map and of the Warder (R155-R166).
-/
namespace Sys2Proof.Machine

open Sys2Proof

/-- The end of a snapshot that is written: its loan is returned and it is decided; `rest` waits. -/
def State.snapEnd (s : State) (k : Ticket) (acc : Nat) (rest : List (Ticket × Nat)) : State :=
  let s := { s with fresh := s.fresh + galCells }
  let s := (s.returnLoan acc).decide k rOK s.now (le 8 s.gal.snapAt ++ le 8 s.now)
  { s with gal := { s.gal with snaps := rest } }

theorem State.snapDone_last {a : State} {k : Ticket} {acc : Nat} (hsnaps : a.gal.snaps = [(k, acc)]) (hacc : (a.acc? acc).isSome = true) :
    a.snapDone = (a.storeData acc 0 ((List.range galCells).flatMap fun cell => a.snapWord cell)).snapEnd k acc [] := by
  rw [State.snapDone, hsnaps, ← if_pos (e := a) hacc (t := a.storeData acc 0 _)]
  rfl

/-- The return of the loan leaves the time and the map, which the reply gives. -/
theorem State.decide_returnLoan (s : State) (k : Ticket) (acc : Nat) :
    (s.returnLoan acc).decide k rOK s.now (le 8 s.gal.snapAt ++ le 8 s.now) =
      (s.returnLoan acc).decide k rOK (s.returnLoan acc).now
        (le 8 (s.returnLoan acc).gal.snapAt ++ le 8 (s.returnLoan acc).now) := by
  rw [(Logged.returnLoan s acc).gal, (Logged.returnLoan s acc).now]

theorem State.snapEnd_eq (s : State) (k : Ticket) (acc : Nat) (rest : List (Ticket × Nat)) :
    s.snapEnd k acc rest =
      let s := ({ s with fresh := s.fresh + galCells } : State).returnLoan acc
      let s := s.decide k rOK s.now (le 8 s.gal.snapAt ++ le 8 s.now)
      { s with gal := { s.gal with snaps := rest } } :=
  congrArg (fun s : State => { s with gal := { s.gal with snaps := rest } })
    (State.decide_returnLoan { s with fresh := s.fresh + galCells } k acc)
/-- A deposit that is due is flushed. -/
theorem State.depositDue_eq {a : State} {n : Nat} {d : Deposit} (hdep : (a.beam n).dep = some d)
    (hdue : d.shut = true ∨ (a.beam n).laser.gate = false ∨ d.since + 10240 ≤ a.now) : a.depositDue n = a.galFlush n := by
  rw [State.depositDue, hdep]
  exact if_pos (by simpa [or_assoc] using hdue)

/-- Settles O25: what each command and event tests holds under its condition. -/
theorem galleryCompletes : Obligations.GalleryCompletes := by
  refine ⟨.of_body State.bodyGalleryClear ?clear, .of_body State.bodyGallerySnapshot ?snapshot,
    fun cell => .of_body State.bodyGalleryRead ?read, .of_body State.bodyWarderStatus fun _ _ _ _ => rfl,
    fun n d => .of_beam (fun a _ => a.depositDue n) ?deposit, .of_next (fun a _ => a.galSweep) ?sweep,
    fun n => .of_beam (fun a _ => a.warderReserve n) fun _ _ _ => rfl, .of_next (fun a _ => a.expireZones) fun _ _ _ => rfl,
    fun n => .of_beam (fun a _ => a.wardStarve n) ?starve, fun k acc => .of_next (fun a _ => a.snapDone) ?done⟩
  case clear =>
    intro b c _ h
    rw [State.bodyGalleryClear]
    exact State.unless_of (by simpa using h)
  case snapshot =>
    intro b c _ h
    simp only [Bool.and_eq_true, decide_eq_true_eq, Option.isNone_iff_eq_none] at h
    obtain ⟨⟨⟨hloan, hpool⟩, hsize⟩, hfirst⟩ := h
    rw [State.bodyGallerySnapshot]
    refine State.unless_of hloan (State.unless_of ?_ ?_)
    · cases hacc : b.acc? (u32 c.payload 0) with
      | none => simp [State.loanCheck, hacc] at hloan
      | some x =>
        rw [hacc] at hsize
        simp [hpool, Nat.not_lt.mpr (show galBytes ≤ x.size from hsize)]
    · simp only [hfirst, if_true]
  case read =>
    intro b c _ h
    simp only [State.bodyGalleryRead, of_decide_eq_true h]
    rfl
  case deposit =>
    intro a t h
    simp only [Bool.and_eq_true, Bool.or_eq_true, Bool.not_eq_true', decide_eq_true_eq, or_assoc] at h
    obtain ⟨hdep, hdue⟩ := h
    rw [State.depositDue_eq hdep hdue, State.galFlush, hdep]
  case sweep =>
    intro a t h
    simp only [State.galSweep, h, Bool.not_true, Bool.false_eq_true, if_false]
    rfl
  case starve =>
    intro a t h
    simp only [Bool.and_eq_true, Bool.not_eq_true', decide_eq_true_eq] at h
    obtain ⟨⟨hheld, hnew⟩, hlong⟩ := h
    simp only [State.wardStarve, hheld, hnew, Nat.not_lt.mpr hlong, Bool.not_true, Bool.false_eq_true, or_self, if_false]
    rfl
  case done =>
    intro a t h
    simp only [Bool.and_eq_true, decide_eq_true_eq] at h
    exact (State.snapDone_last h.1 h.2).trans (State.snapEnd_eq _ k acc [])

end Sys2Proof.Machine
end

