-- ==== Sys2Proof/Proofs/Conservator.lean ====
section
/-!
PROOFS. The commands and events of the Conservator (R172-R208).
-/
namespace Sys2Proof.Machine

open Sys2Proof

/-- Settles O26: no check of an opcode finds a reason under its condition. -/
theorem conservatorCommandsComplete : Obligations.ConservatorCommandsComplete := by
  refine ⟨.of_body State.bodyCnsBind ?bind, .of_body State.bodyCnsMode ?mode, .of_body State.bodyCnsOrder ?order,
    .of_body State.bodyCnsStatus ?status, .of_body State.bodyCnsTrace ?trace⟩
  case bind =>
    intro b c _ h
    simp only [Bool.and_eq_true, decide_eq_true_eq] at h
    obtain ⟨⟨hslot, hoff⟩, hkind⟩ := h
    rw [State.bodyCnsBind]
    refine State.unless_of ?_
    simp only [firstBad_cons_eq_none]
    split at hkind
    all_goals simp_all [Nat.not_lt.mpr hslot]
  case mode =>
    intro b c _ h
    simp only [Bool.and_eq_true, Bool.or_eq_true, Bool.not_eq_true', decide_eq_true_eq] at h
    obtain ⟨⟨⟨⟨hstream, hbound⟩, hmode⟩, hvalues⟩, hbeam⟩ := h
    rw [State.bodyCnsMode]
    refine State.unless_of ?_
    simp only [firstBad_cons_eq_none, hstream, hbound, Nat.not_lt.mpr hmode]
    refine ⟨rfl, ?_, ?_, rfl⟩
    · rcases hvalues with ((hkind | hman) | hhold) | ⟨h0, h1⟩
      · simp [hkind]
      · simp [hman]
      · simp [hhold]
      · simp [h0, h1]
    · simpa using hbeam
  case order =>
    intro b c _ h
    rw [State.bodyCnsOrder]
    exact State.unless_of (if_pos h)
  case status =>
    intro b c _ h
    rw [State.bodyCnsStatus]
    exact State.unless_of (if_neg (by simpa using h))
  case trace =>
    intro b c _ h
    simp only [Bool.and_eq_true, Bool.not_eq_true', decide_eq_true_eq, Option.isNone_iff_eq_none] at h
    obtain ⟨⟨⟨⟨⟨⟨⟨hstream, hbound⟩, hone⟩, hmost⟩, hpool⟩, hloan⟩, hsize⟩, hnone⟩ := h
    rw [State.bodyCnsTrace]
    refine State.unless_of ?_
    simp [hstream, hbound, Nat.one_le_iff_ne_zero.mp hone, Nat.not_lt.mpr hmost, hpool, hloan, Nat.not_lt.mpr hsize, hnone,
      show firstBad [(false, rBADPARAM)] = none from rfl]

/-- Settles O27: the tests of each event hold at the states where it is due. -/
theorem conservatorEventsComplete : Obligations.ConservatorEventsComplete := by
  refine ⟨fun i tr => .of_unit (present := i < 128) (fun a _ => a.traceEnd false) (fun _ _ h => by simp_all) ?traceEnd,
    fun slots => .of_unit (fun a _ => a.slotsLate slots) (fun _ _ h => h) fun _ _ _ => rfl,
    fun i => .of_unit (present := i < 128) (fun a _ => a.implausible i) (fun _ _ h => by simp_all) ?implausible,
    fun i => .of_unit (present := i < 128) (fun a _ => a.gapReset i) (fun _ _ h => by simp_all) ?gap,
    fun i => .of_unit (present := i < 128) (fun a _ => a.hySwitch i) (fun _ _ h => by simp_all) ?on, fun i => .of_unit (present := i < 128) (fun a _ => a.hySwitch i) (fun _ _ h => by simp_all) ?off,
    fun i => .of_unit (present := i < 128) (fun a _ => a.hyImplausible i) (fun _ _ h => by simp_all) ?hyImplausible⟩
  all_goals
    intro a t h
    simp only [Bool.and_eq_true, Bool.or_eq_true, Bool.not_eq_true', decide_eq_true_eq] at h
  case traceEnd =>
    obtain ⟨⟨_, htrace⟩, hfull⟩ := h
    simp only [State.traceEnd, htrace]
    exact if_neg (by simp [Nat.not_lt.mpr hfull])
  case implausible =>
    obtain ⟨⟨⟨⟨⟨⟨_, hkind⟩, hmode⟩, hcmd⟩, himpl⟩, hruns⟩, hres⟩ := h
    have hsup : ¬ (((a.slotOf i).kind ≠ 1 ∧ (a.slotOf i).kind ≠ 2) ∨ (a.slotOf i).mode = 0 ∨ (a.slotOf i).impl ∨ !a.expRuns ∨
        a.sf i P.MPL_RES_CNT < a.sf i P.MPL_RES_N) := by
      simp [hmode, himpl, hruns, Nat.not_lt.mpr hres]
      omega
    exact (if_neg hsup).trans (congrArg (fun s : State => s.slotFault i 0x1301 _ (a.slotHanded i))
      ((if_neg (by simp [hmode])).trans (if_neg (by simp [hcmd]))))
  case gap =>
    obtain ⟨⟨⟨⟨_, hkind⟩, hmode⟩, hheld⟩, hgap⟩ := h
    exact if_pos ⟨hkind, hmode, hheld, hgap⟩
  case on =>
    obtain ⟨⟨⟨⟨⟨⟨_, hkind⟩, hmode⟩, hruns⟩, hout⟩, hside⟩, hlong⟩ := h
    exact (if_neg (by simp [hkind, hmode, hruns])).trans ((if_pos hout).trans ((if_pos (by rw [hside]; simpa using hlong)).trans
      (if_neg (by rw [hout]; decide))))
  case off =>
    obtain ⟨⟨⟨⟨⟨⟨_, hkind⟩, hmode⟩, hruns⟩, hout⟩, hside⟩, hlong⟩ := h
    exact (if_neg (by simp [hkind, hmode, hruns])).trans ((if_neg (by rw [hout]; decide)).trans
      ((if_pos (by rw [hside]; simpa using hlong)).trans (if_neg (by rw [hout]; decide))))
  case hyImplausible =>
    obtain ⟨⟨⟨⟨⟨_, hkind⟩, hmode⟩, himpl⟩, hruns⟩, hdead⟩ := h
    refine if_neg ?_
    simp only [hkind, hmode, himpl, hruns, ne_eq, not_true_eq_false, Bool.false_eq_true, Bool.not_true, or_false, false_or,
      Bool.not_eq_true', Bool.or_eq_false_iff, decide_eq_false_iff_not]
    rintro ⟨hok, hfresh⟩
    exact hdead.elim (ne_true_of_eq_false hok) hfresh

end Sys2Proof.Machine
end

