-- ==== Sys2Proof/Proofs/Slots.lean ====
section
/-!
PROOFS. Slots of the Conservator: what a mode change and a slot that is declared implausible leave and change (R195, R200).
-/
namespace Sys2Proof.Machine

open Sys2Proof

/-! ## What mode changes keep -/

/-- From s to t slot i keeps its kind and mode, every other slot is as before, and so are the beams, motion and the host. -/
structure SlotKept (i : Nat) (s t : State) : Prop where
  others : ∀ j, j ≠ i → t.slotOf j = s.slotOf j
  kind : (t.slotOf i).kind = (s.slotOf i).kind
  mode : (t.slotOf i).mode = (s.slotOf i).mode
  length : t.cns.slots.length = s.cns.slots.length
  beams : t.beams = s.beams
  mot : t.mot = s.mot
  host : t.host = s.host

variable {i : Nat} {s t u : State}

/-- Nothing of the engine, the beams, motion and the host is touched. -/
theorem SlotKept.of_eq (hcns : t.cns = s.cns) (hbeams : t.beams = s.beams) (hmot : t.mot = s.mot) (hhost : t.host = s.host) :
    SlotKept i s t := by
  have hslot (j : Nat) : t.slotOf j = s.slotOf j := by rw [State.slotOf, State.slotOf, hcns]
  exact ⟨fun j _ => hslot j, by rw [hslot], by rw [hslot], by rw [hcns], hbeams, hmot, hhost⟩

theorem SlotKept.refl (i : Nat) (s : State) : SlotKept i s s := .of_eq rfl rfl rfl rfl

theorem SlotKept.trans (h : SlotKept i s t) (k : SlotKept i t u) : SlotKept i s u where
  others j hj := (k.others j hj).trans (h.others j hj)
  kind := k.kind.trans h.kind
  mode := k.mode.trans h.mode
  length := k.length.trans h.length
  beams := k.beams.trans h.beams
  mot := k.mot.trans h.mot
  host := k.host.trans h.host

theorem SlotKept.ite {c : Prop} [Decidable c] (h : SlotKept i s t) (k : SlotKept i s u) : SlotKept i s (if c then t else u) := by
  split
  · exact h
  · exact k

theorem SlotKept.logged (h : Logged s t) : SlotKept i s t := .of_eq h.cns h.beams h.mot h.host

theorem State.slotOf_updSlot_ne (s : State) {j : Nat} (f : CSlot → CSlot) (h : j ≠ i) : (s.updSlot i f).slotOf j = s.slotOf j :=
  getD_modify_ne s.cns.slots f h

theorem State.slotOf_updSlot_same (s : State) (f : CSlot → CSlot) (h : i < s.cns.slots.length) :
    (s.updSlot i f).slotOf i = f (s.slotOf i) := by
  simp [State.slotOf, State.updSlot, List.getD_eq_getElem?_getD, List.getElem?_eq_getElem h]

/-- An update of slot i that touches neither its kind nor its mode. -/
theorem SlotKept.updSlot (s : State) (i : Nat) (f : CSlot → CSlot) (hkind : ∀ c, (f c).kind = c.kind) (hmode : ∀ c, (f c).mode = c.mode) :
    SlotKept i s (s.updSlot i f) := by
  obtain h | ⟨hm, hl⟩ : (s.updSlot i f).slotOf i = f (s.slotOf i) ∨ _ := getD_modify_eq_or (d := cslotReset) s.cns.slots i f
  · exact ⟨fun j hj => s.slotOf_updSlot_ne f hj, by rw [h, hkind], by rw [h, hmode], List.length_modify .., rfl, rfl, rfl⟩
  · have h : (s.updSlot i f).slotOf i = s.slotOf i := hm.trans hl.symm
    exact ⟨fun j hj => s.slotOf_updSlot_ne f hj, by rw [h], by rw [h], List.length_modify .., rfl, rfl, rfl⟩

theorem SlotKept.foldl {α : Type} {f : State → α → State} (h : ∀ s x, SlotKept i s (f s x)) (l : List α) (s : State) :
    SlotKept i s (l.foldl f s) := by
  induction l generalizing s with
  | nil => exact .refl i s
  | cons x r ih => exact (h s x).trans (ih (f s x))

theorem SlotKept.setRg (i : Nat) (s : State) (p j v : Nat) : SlotKept i s (s.setRg p j v) := .of_eq rfl rfl rfl rfl

theorem SlotKept.setSf (i : Nat) (s : State) (j p k v : Nat) : SlotKept i s (s.setSf j p k v) := .of_eq rfl rfl rfl rfl

theorem SlotKept.updHead (i : Nat) (s : State) (n : Nat) (f : HeadPort → HeadPort) : SlotKept i s (s.updHead n f) := .of_eq rfl rfl rfl rfl

/-- A row of a slot's parameters is written one by one: registers only. -/
theorem State.setVec_eq (s : State) (i p : Nat) (l : List Nat) : s.setVec i p l = { s with params := (s.setVec i p l).params } := by
  suffices h : ∀ (l : List Nat) (a : State × Nat), a.1 = { s with params := a.1.params } →
      (l.foldl (fun a v => (a.1.setSf i p a.2 v, a.2 + 1)) a).1 =
        { s with params := (l.foldl (fun a v => (a.1.setSf i p a.2 v, a.2 + 1)) a).1.params } from h l (s, 0) rfl
  intro l
  induction l with
  | nil => exact fun a ha => ha
  | cons v r ih =>
    intro a ha
    refine ih (a.1.setSf i p a.2 v, a.2 + 1) ?_
    rw [ha]
    rfl

theorem State.slotOf_setVec (s : State) (i p : Nat) (l : List Nat) (j : Nat) : (s.setVec i p l).slotOf j = s.slotOf j := by
  rw [State.setVec_eq]
  rfl

theorem SlotKept.setVec (i : Nat) (s : State) (j p : Nat) (l : List Nat) : SlotKept i s (s.setVec j p l) := by
  rw [State.setVec_eq]
  exact .of_eq rfl rfl rfl rfl

theorem SlotKept.setHanded (i : Nat) (s : State) (n a : Nat) (on : Bool) : SlotKept i s (s.setHanded n a on) :=
  .ite (.refl i s) ((SlotKept.setRg i s ..).trans (.logged (Logged.record ..)))

theorem SlotKept.leaveAuto (i : Nat) (s : State) (j : Nat) : SlotKept i s (s.leaveAuto j) := .ite (.setHanded i s ..) (.refl i s)

/-! ## Records and faults -/

theorem State.docNote_eq (s : State) : s.docNote = { s with doc := s.docNote.doc } := by
  unfold State.docNote
  split
  · rfl
  · rfl

/-- Docent notes an edge in its own state. -/
theorem State.docEdge_eq (s : State) (id : Nat) : s.docEdge id = { s with doc := (s.docEdge id).doc } := by
  unfold State.docEdge
  split
  · rfl
  · exact State.docNote_eq (s.updDoc _)

theorem SlotKept.docEdge (i : Nat) (s : State) (id : Nat) : SlotKept i s (s.docEdge id) := by
  rw [State.docEdge_eq]
  exact .of_eq rfl rfl rfl rfl

theorem SlotKept.cnsModeRec (i : Nat) (s : State) (j a b cause u0 xi0 : Nat) : SlotKept i s (s.cnsModeRec j a b cause u0 xi0) :=
  (SlotKept.logged (Logged.record ..)).trans (.docEdge i ..)

theorem SlotKept.faultOff (i : Nat) (s : State) (src cls : Nat) : SlotKept i s (s.faultOff src cls) := .of_eq rfl rfl rfl rfl

theorem SlotKept.clearDegraded (i : Nat) (s : State) (src : Nat) : SlotKept i s (s.clearDegraded src) :=
  .ite ((SlotKept.faultOff i s ..).trans (.logged (Logged.record ..))) (.refl i s)

theorem SlotKept.slotClear (i : Nat) (s : State) (j : Nat) : SlotKept i s (s.slotClear j) :=
  (SlotKept.faultOff i s ..).trans (.clearDegraded i ..)

theorem SlotKept.flushModes (s : State) (i u0 xi0 : Nat) : SlotKept i s (s.flushModes i u0 xi0) := by
  unfold State.flushModes
  have hrecs := SlotKept.foldl (i := i) (f := fun s r => s.cnsModeRec i r.1 r.2 1 u0 xi0) (fun s r => .cnsModeRec i s ..) (s.slotOf i).recs s
  exact hrecs.trans (.updSlot _ i _ (fun _ => rfl) fun _ => rfl)

theorem SlotKept.modeNoted (s : State) (i a b u0 xi0 : Nat) : SlotKept i s (s.modeNoted i a b u0 xi0) := by
  have hrec := SlotKept.updSlot s i (fun c => { c with recs := c.recs ++ [(a, b)] }) (fun _ => rfl) fun _ => rfl
  exact .ite (.refl i s) (.ite (hrec.trans (.flushModes ..)) hrec)

theorem SlotKept.sfInit (s : State) (i : Nat) (notch : List Nat) : SlotKept i s (s.sfInit i notch) :=
  ((SlotKept.setVec i s ..).trans (.setVec i ..)).trans (.updSlot _ i _ (fun _ => rfl) fun _ => rfl)

/-! ## Mode changes (R195) -/

/-- A slot that takes effect in a mode is given it over a state in which it was kept, and then its change is noted. -/
def ModeGiven (i mode : Nat) (s s' : State) : Prop :=
  ∃ (t : State) (g : CSlot → CSlot) (u0 xi0 : Nat), SlotKept i s t ∧ (∀ c, (g c).mode = mode ∧ (g c).kind = c.kind) ∧
    s' = (t.updSlot i g).modeNoted i (s.slotOf i).mode mode u0 xi0

theorem State.applyMode_given (s : State) {i : Nat} (mode : Nat) (hold : Bool) (u0 u1 : Nat) (hbound : (s.slotOf i).kind ≠ 0) :
    ModeGiven i mode s (s.applyMode i mode hold u0 u1) := by
  unfold State.applyMode
  simp only [if_neg hbound]
  split
  case isTrue =>
    refine ⟨_, _, _, _, ?_, ?_, rfl⟩
    · exact .ite ((SlotKept.ite (.setRg i s ..) (.refl i s)).trans (.slotClear i ..)) (.ite (.setRg i s ..) (.refl i s))
    · exact fun c => ⟨rfl, rfl⟩
  case isFalse =>
    refine ⟨_, _, _, _, ?_, ?_, rfl⟩
    · split
      · refine .trans (.trans (.updSlot s i _ ?_ ?_) (.leaveAuto i _ i)) (.setVec i ..)
        · exact fun _ => rfl
        · exact fun _ => rfl
      · refine .trans (.trans (.leaveAuto i s i) (.trans (.setVec i ..) (.ite (.sfInit ..) (.refl i _)))) (.updSlot _ i _ ?_ ?_)
        · exact fun _ => rfl
        · exact fun _ => rfl
      · refine .ite (.refl i s) ?_
        have hinit : SlotKept i s (if (s.slotOf i).mode = 0 then (s.slotClear i).sfInit i [0, 0, 0, 0] else s.slotClear i) :=
          .ite (.trans (.slotClear i s i) (.sfInit ..)) (.slotClear i s i)
        have hauto := (hinit.trans (.setSf i _ i P.MPL_RES_CNT 0 0)).trans
          (.updSlot _ i (fun c => { c with impl := false, byCmd := false, xfer := (s.slotOf i).mode = 1, ramp := [none, none] })
            (fun _ => rfl) fun _ => rfl)
        refine .ite (.trans (.trans ?_ (.updHead i ..)) (.setHanded i ..)) hauto
        exact .ite (.trans (.trans hauto (.setSf i ..)) (.setSf i ..)) hauto
    · exact fun c => ⟨rfl, rfl⟩

/-- Settles O29: the slot is given its mode over a state that is kept, and what notes the change keeps it. -/
theorem modeTakesEffect : Obligations.ModeTakesEffect := by
  intro s i mode u0 u1 hold hi hbound _
  obtain ⟨t, g, u0, xi0, hkept, hg, heq⟩ := s.applyMode_given mode hold u0 u1 hbound
  have hslot : (t.updSlot i g).slotOf i = g (t.slotOf i) := t.slotOf_updSlot_same g (hkept.length ▸ hi)
  have hnoted := SlotKept.modeNoted (t.updSlot i g) i (s.slotOf i).mode mode u0 xi0
  intro s'
  rw [show s' = _ from heq]
  refine ⟨?_, ?_, fun j hj => ?_, hnoted.beams.trans hkept.beams, hnoted.mot.trans hkept.mot, hnoted.host.trans hkept.host⟩
  · rw [hnoted.mode, hslot, (hg _).1]
  · rw [hnoted.kind, hslot, (hg _).2, hkept.kind]
  · rw [hnoted.others j hj, t.slotOf_updSlot_ne g hj, hkept.others j hj]

/-! ## A slot that is declared implausible (R200) -/

/-- From s to t the engine and every register but the log's counters are as before. -/
structure Noted (s t : State) : Prop where
  cns : t.cns = s.cns
  reg : ∀ p, p ≠ P.LOG_OVERWRITTEN → p ≠ P.LOG_MERGES → t.reg p = s.reg p

theorem Noted.trans (h : Noted s t) (k : Noted t u) : Noted s u :=
  ⟨k.cns.trans h.cns, fun p h1 h2 => (k.reg p h1 h2).trans (h.reg p h1 h2)⟩

theorem Noted.docEdge (s : State) (id : Nat) : Noted s (s.docEdge id) := by
  rw [State.docEdge_eq]
  exact ⟨rfl, fun _ _ _ => rfl⟩

theorem Noted.cnsModeRec (s : State) (j a b cause u0 xi0 : Nat) : Noted s (s.cnsModeRec j a b cause u0 xi0) :=
  .trans ⟨(Logged.record ..).cns, (Logged.record ..).2⟩ (.docEdge ..)

theorem Noted.faultOn (s : State) (src cls code seq : Nat) : Noted s (s.faultOn src cls code seq) := by
  unfold State.faultOn
  split
  · exact ⟨rfl, fun _ _ _ => rfl⟩
  · exact ⟨rfl, fun _ _ _ => rfl⟩

theorem Noted.slotOf (h : Noted s t) (j : Nat) : t.slotOf j = s.slotOf j := by rw [State.slotOf, State.slotOf, h.cns]

/-- A parameter of a slot that is not of kind 1. -/
theorem State.sf_eq_reg (hkind : (s.slotOf i).kind ≠ 1) (p k : Nat) : s.sf i p k = s.reg (p + i * 2 ^ 16 + k) := by
  rw [State.sf, State.sfPid, if_neg hkind]

theorem State.sf_setSf_same (i p k v : Nat) : (s.setSf i p k v).sf i p k = v % 2 ^ 32 := s.reg_setReg_same _ v

theorem State.sf_setSf_ne (hkind : (s.slotOf i).kind ≠ 1) {p q k l : Nat} (v : Nat) (h : q + l ≠ p + k) :
    (s.setSf i p k v).sf i q l = s.sf i q l :=
  s.reg_setReg_other _ _ v (show s.sfPid i q + l ≠ s.sfPid i p + k by simp only [State.sfPid, if_neg hkind]; omega)

theorem Noted.sf (h : Noted s t) (hkind : (s.slotOf i).kind ≠ 1) {p k : Nat} (h1 : p + i * 2 ^ 16 + k ≠ P.LOG_OVERWRITTEN)
    (h2 : p + i * 2 ^ 16 + k ≠ P.LOG_MERGES) : t.sf i p k = s.sf i p k := by
  rw [State.sf_eq_reg hkind, State.sf_eq_reg (h.slotOf i ▸ hkind), h.reg _ h1 h2]

/-- A pair of values that was written reads back. -/
theorem State.sf_setVec_pair (hkind : (s.slotOf i).kind ≠ 1) (p : Nat) {v : Nat → Nat} (hv : ∀ j < 2, v j < 2 ^ 32) :
    ∀ j < 2, (s.setVec i p [v 0, v 1]).sf i p j = v j := by
  intro j hj
  obtain rfl | rfl : j = 0 ∨ j = 1 := by omega
  · exact (State.sf_setSf_ne (s := s.setSf i p 0 (v 0)) (k := 1) (l := 0) hkind _ (by omega)).trans
      ((State.sf_setSf_same i p 0 _).trans (Nat.mod_eq_of_lt (hv 0 hj)))
  · exact (State.sf_setSf_same (s := s.setSf i p 0 (v 0)) i p 1 _).trans (Nat.mod_eq_of_lt (hv 1 hj))

theorem State.sf_setVec_pair_ne (hkind : (s.slotOf i).kind ≠ 1) {p q l : Nat} (a b : Nat) (h0 : q + l ≠ p) (h1 : q + l ≠ p + 1) :
    (s.setVec i p [a, b]).sf i q l = s.sf i q l :=
  (State.sf_setSf_ne (s := s.setSf i p 0 a) hkind b h1).trans (State.sf_setSf_ne hkind a h0)

/-- What a slot in AUTO becomes when it is declared implausible. -/
def CSlot.manual (c : CSlot) : CSlot := { c with mode := 1, byCmd := false, xfer := false, ramp := [none, none] }

/-- The slot with what is noted of it before its output changes. -/
def State.marked (s : State) (i : Nat) : State :=
  let c := s.slotOf i
  let row := (s.outOfBand i).getD 0
  let u := (s.flushModes i (s.sf i P.MPL_U) (s.sf i P.MPL_XI)).updSlot i fun c => { c with impl := true }
  let u := u.setSf i P.MPL_IMPL_COUNT 0 (u.sf i P.MPL_IMPL_COUNT + 1)
  u.record (u.slotSrc i) 0x1301
    (le 1 i ++ le 1 c.kind ++ le 1 c.a ++ le 1 row ++ le 4 (u.sf i P.MPL_E row) ++ le 4 (u.sf i P.MPL_RES_BAND row) ++
      le 2 (u.sf i P.MPL_RES_N) ++ zeros 2 ++ le 4 ((s.sfVec i P.MPL_U_GOOD 2).getD 0 0))

theorem SlotKept.marked (s : State) (i : Nat) : SlotKept i s (s.marked i) := by
  unfold State.marked
  refine .trans (.trans (.trans (.flushModes ..) (.updSlot _ i _ ?_ ?_)) (.setSf i ..)) (.logged (Logged.record ..))
  · exact fun _ => rfl
  · exact fun _ => rfl

theorem State.marked_impl (hi : i < s.cns.slots.length) : ((s.marked i).slotOf i).impl = true := by
  have hlen : i < (s.flushModes i (s.sf i P.MPL_U) (s.sf i P.MPL_XI)).cns.slots.length := (SlotKept.flushModes ..).length.symm ▸ hi
  have himpl := congrArg CSlot.impl (State.slotOf_updSlot_same _ (fun c => { c with impl := true }) hlen)
  rw [State.marked, State.slotOf, (Logged.record ..).cns]
  exact himpl

/-- A slot of kind 2 hands no axis back, and its fault is contained. -/
theorem Noted.slot_two (hkind : (s.slotOf i).kind = 2) (a b cause u0 xi0 code seq : Nat) (handed : Bool) :
    Noted s (((s.leaveAuto i).cnsModeRec i a b cause u0 xi0).slotFault i code seq handed) := by
  have hrec := Noted.cnsModeRec s i a b cause u0 xi0
  have hk : ¬ ((s.cnsModeRec i a b cause u0 xi0).slotOf i).kind = 1 := by rw [hrec.slotOf, hkind]; decide
  rw [show s.leaveAuto i = s from if_neg (by rw [hkind]; decide)]
  rw [show State.slotFault _ i code seq handed = _ from if_neg hk]
  exact hrec.trans (.faultOn ..)

/-- The marked slot in MANUAL with the last good output as its order and its output. -/
def State.heldGood (s : State) (i : Nat) : State :=
  (((s.marked i).updSlot i CSlot.manual).setVec i P.MPL_MAN_U (s.sfVec i P.MPL_U_GOOD 2)).setVec i P.MPL_U (s.sfVec i P.MPL_U_GOOD 2)

theorem State.slotOf_heldGood (s : State) (i j : Nat) : (s.heldGood i).slotOf j = ((s.marked i).updSlot i CSlot.manual).slotOf j := by
  rw [State.heldGood, State.slotOf_setVec, State.slotOf_setVec]

theorem State.slotOf_heldGood_same (hi : i < s.cns.slots.length) : (s.heldGood i).slotOf i = ((s.marked i).slotOf i).manual := by
  rw [State.slotOf_heldGood]
  exact State.slotOf_updSlot_same _ _ ((SlotKept.marked s i).length.symm ▸ hi)

theorem State.heldGood_kind (hi : i < s.cns.slots.length) : ((s.heldGood i).slotOf i).kind = (s.slotOf i).kind := by
  rw [State.slotOf_heldGood_same hi]
  exact (SlotKept.marked s i).kind

/-- The last good output is put in force; what follows notes the change of mode and the fault. -/
theorem State.implausible_auto (hi : i < s.cns.slots.length) (hkind : (s.slotOf i).kind = 2) (hmode : (s.slotOf i).mode = 2)
    (himpl : (s.slotOf i).impl = false) (hruns : s.expRuns = true) (hres : s.sf i P.MPL_RES_CNT ≥ s.sf i P.MPL_RES_N) :
    Noted (s.heldGood i) (s.implausible i) := by
  have hsup : ¬ (((s.slotOf i).kind ≠ 1 ∧ (s.slotOf i).kind ≠ 2) ∨ (s.slotOf i).mode = 0 ∨ (s.slotOf i).impl ∨ !s.expRuns ∨
      s.sf i P.MPL_RES_CNT < s.sf i P.MPL_RES_N) := by
    simp [hkind, hmode, himpl, hruns, Nat.not_lt.mpr hres]
  have heq : ∃ u0 xi0 seq handed,
      s.implausible i = (((s.heldGood i).leaveAuto i).cnsModeRec i 2 1 2 u0 xi0).slotFault i 0x1301 seq handed :=
    ⟨_, _, _, _, (if_neg hsup).trans (congrArg (fun s : State => s.slotFault i 0x1301 _ _) (if_pos hmode))⟩
  obtain ⟨u0, xi0, seq, handed, heq⟩ := heq
  rw [heq]
  exact Noted.slot_two ((State.heldGood_kind hi).trans hkind) ..

/-- Settles O28: over the marked slot the output and its order are written, and what follows leaves the engine and the registers. -/
theorem implausibleHoldsLastGood : Obligations.ImplausibleHoldsLastGood := by
  intro s i hi hkind hmode himpl hruns hres hlt hgood
  have hend := State.implausible_auto hi hkind hmode himpl hruns hres
  generalize s.implausible i = s' at hend ⊢
  have hk : ((s.heldGood i).slotOf i).kind ≠ 1 := by rw [State.heldGood_kind hi, hkind]; decide
  have hkm : (((s.marked i).updSlot i CSlot.manual).slotOf i).kind ≠ 1 := State.slotOf_heldGood s i i ▸ hk
  have hkv : ((((s.marked i).updSlot i CSlot.manual).setVec i P.MPL_MAN_U (s.sfVec i P.MPL_U_GOOD 2)).slotOf i).kind ≠ 1 := by
    rw [State.slotOf_setVec]
    exact hkm
  refine ⟨?_, ?_, fun j hj => ?_, fun j hj => ?_, fun j hj => ?_⟩
  · rw [hend.slotOf, State.slotOf_heldGood_same hi]
    rfl
  · rw [hend.slotOf, State.slotOf_heldGood_same hi]
    exact State.marked_impl hi
  · rw [hend.sf hk (by simp only [P.MPL_U, P.LOG_OVERWRITTEN]; omega) (by simp only [P.MPL_U, P.LOG_MERGES]; omega)]
    exact State.sf_setVec_pair hkv P.MPL_U hgood j hj
  · rw [hend.sf hk (by simp only [P.MPL_MAN_U, P.LOG_OVERWRITTEN]; omega) (by simp only [P.MPL_MAN_U, P.LOG_MERGES]; omega)]
    exact (State.sf_setVec_pair_ne hkv _ _ (by simp only [P.MPL_MAN_U, P.MPL_U]; omega)
      (by simp only [P.MPL_MAN_U, P.MPL_U]; omega)).trans (State.sf_setVec_pair hkm P.MPL_MAN_U hgood j hj)
  · rw [hend.slotOf, State.slotOf_heldGood, State.slotOf_updSlot_ne _ _ hj, (SlotKept.marked s i).others j hj]

end Sys2Proof.Machine
end

