-- ==== Sys2Proof/Proofs/Heads.lean ====
section
/-!
PROOFS. The head ports and the XY2-100 ports (R209-R250).
-/
namespace Sys2Proof.Machine

open Sys2Proof

/-! ## Return frames (R212-R217, R241) -/

section
variable {a : State} {n : Nat} {codes : List (BitVec 10)} {ss : List (Option Sym)}

/-- At a port that waits for a frame its symbols are taken in the generation of the head. -/
theorem State.returnFrame_awaited (hstate : (a.head n).state ≠ 0) (harrived : (a.head n).arrived = false) :
    a.returnFrame n (codes.map (·.toNat)) =
      if !(a.received n codes).all (·.isSome) then (a.lineRead n codes).sectionBad n
      else if a.rg P.HP_GEN n = 1 then (a.lineRead n codes).returnRhl2 n (a.received n codes)
      else (a.lineRead n codes).returnRhl1 n (a.received n codes) :=
  if_neg (by simp [hstate, harrived])

/-- Symbols that are all valid fail their section where the SOF, the data or the CRC does. -/
theorem sectionGood_of_all (hall : ss.all (·.isSome) = true) (len : Nat) :
    (!((ss.getD 0 none).any fun y => y = K27_7) || !allData ((ss.drop 1).take len) ||
      u16 (octets ss) (len - 1) ≠ crc16 (field (octets ss) 1 (len - 2))) = !sectionGood ss len := by
  simp only [sectionGood, hall, Bool.true_and, Bool.not_and, ne_eq, decide_not]

theorem State.returnRhl2_bad (s : State) (n : Nat) (hall : ss.all (·.isSome) = true) (hbad : sectionGood ss 45 = false) :
    s.returnRhl2 n ss = s.sectionBad n :=
  if_pos ((sectionGood_of_all hall 45).trans (by rw [hbad]; rfl))

theorem State.returnRhl1_bad (s : State) (n : Nat) (hall : ss.all (·.isSome) = true) (hbad : sectionGood ss 14 = false) :
    s.returnRhl1 n ss = s.sectionBad n :=
  if_pos ((sectionGood_of_all hall 14).trans (by rw [hbad]; rfl))

theorem all_of_sectionGood {len : Nat} (h : sectionGood ss len = true) : ss.all (·.isSome) = true := by
  simp only [sectionGood, Bool.and_eq_true] at h
  exact h.1.1.1

/-- A frame whose section fails is errored, in either generation. -/
theorem State.returnFrame_bad (hstate : (a.head n).state ≠ 0) (harrived : (a.head n).arrived = false) {len : Nat}
    (hlen : len = if a.rg P.HP_GEN n = 1 then 45 else 14) (hbad : sectionGood (a.received n codes) len = false) :
    a.returnFrame n (codes.map (·.toNat)) = (a.lineRead n codes).sectionBad n := by
  rw [State.returnFrame_awaited hstate harrived]
  split
  · rfl
  · rename_i hall
    simp only [Bool.not_eq_true', Bool.not_eq_false] at hall
    subst hlen
    split
    · rename_i hgen
      exact State.returnRhl2_bad _ n hall (by simpa only [if_pos hgen] using hbad)
    · rename_i hgen
      exact State.returnRhl1_bad _ n hall (by simpa only [if_neg hgen] using hbad)

end

/-- Settles O30: the section decides whether the frame is errored or taken. -/
theorem returnFramesComplete : Obligations.ReturnFramesComplete := by
  refine ⟨fun n sof codes => .of_beam (fun a _ => a.returnFrame n ((sof :: codes).map (·.toNat))) ?bad2,
    fun n sof codes => .of_beam (fun a _ => a.returnFrame n ((sof :: codes).map (·.toNat))) ?good2,
    fun n sof codes => .of_beam (fun a _ => a.returnFrame n ((sof :: codes).map (·.toNat))) ?bad1,
    fun n sof codes => .of_beam (fun a _ => a.returnFrame n ((sof :: codes).map (·.toNat))) ?good1⟩
  all_goals
    intro a t h
    simp only [Bool.and_eq_true, Bool.not_eq_true', decide_eq_true_eq] at h
    obtain ⟨⟨⟨hstate, harrived⟩, hgen⟩, hsection⟩ := h
  case bad2 =>
    rw [State.returnFrame_bad hstate harrived (if_pos hgen).symm hsection]
    exact congrArg (State.headErrored · n 1) (if_pos hgen)
  case bad1 =>
    rw [State.returnFrame_bad hstate harrived (if_neg hgen).symm hsection]
    exact congrArg (State.headErrored · n 1) (if_neg hgen)
  case good2 =>
    have hall := all_of_sectionGood hsection
    rw [State.returnFrame_awaited hstate harrived, hall, if_neg (by decide), if_pos hgen]
    refine (if_neg ?_).trans ?_
    · rw [sectionGood_of_all hall 45, hsection]
      decide
    · dsimp only
      rw [show (a.lineRead n (sof :: codes)).straps.roleB = a.straps.roleB from rfl]
      cases a.straps.roleB with
      | true => rfl
      | false => rfl
  case good1 =>
    have hall := all_of_sectionGood hsection
    rw [State.returnFrame_awaited hstate harrived, hall, if_neg (by decide), if_neg hgen]
    refine (if_neg ?_).trans rfl
    rw [sectionGood_of_all hall 14, hsection]
    decide

/-! ## Port events and parameters (R222, R225, R244-R247) -/

/-- Settles O31: the tests of each event hold at the states where it is due; the parameter rows are writes of the data plane. -/
theorem headEventsComplete : Obligations.HeadEventsComplete := by
  refine ⟨fun n => .of_beam (fun a _ => a.frameMissing n) ?missing, fun n => .of_beam (fun a _ => a.linkTimeout n) ?timeout,
    fun n => .of_beam (fun a _ => a.lockLost n) ?train, fun n => .of_beam (fun a _ => a.lockLost n) ?up,
    fun n => .of_beam (fun a _ => a.lockLost n) ?fault,
    fun q => .of_unit (present := q < 4) (fun a _ => a.xy2Frame q) (fun _ _ h => by simp_all) ?xy2,
    fun q w => .of_unit (present := q < 4) (fun a _ => a.xy2Status q w) (fun _ _ h => by simp_all) ?even,
    fun q w => .of_unit (present := q < 4) (fun a _ => a.xy2Status q w) (fun _ _ h => by simp_all) ?odd,
    .of_paramWrite, .of_paramWrite, .of_paramWrite⟩
  all_goals
    intro a t h
    simp only [Bool.and_eq_true, Bool.not_eq_true', decide_eq_true_eq] at h
  case missing =>
    obtain ⟨⟨⟨⟨hstate, haligned⟩, harrived⟩, hsent⟩, hlate⟩ := h
    exact if_neg (by simp [Nat.not_lt.mpr hstate, haligned, harrived, hsent, Nat.not_lt.mpr hlate])
  case timeout => exact if_pos h
  case train => simp only [State.lockLost, h]
  case up => simp only [State.lockLost, h]
  case fault => simp only [State.lockLost, h]
  case xy2 =>
    obtain ⟨⟨⟨_, hinstant⟩, hbeam⟩, hruns⟩ := h
    exact if_neg (by simp [hinstant, Nat.not_le.mpr hbeam, hruns])
  case even =>
    obtain ⟨⟨⟨_, hbeam⟩, hmask⟩, hparity⟩ := h
    refine (if_neg (by simp [Nat.not_le.mpr hbeam, hmask])).trans ((if_pos hparity).trans ?_)
    simp only [decide_eq_true_eq]
  case odd =>
    obtain ⟨⟨⟨_, hbeam⟩, hmask⟩, hparity⟩ := h
    exact (if_neg (by simp [Nat.not_le.mpr hbeam, hmask])).trans (if_neg (by simp [hparity]))

/-! ## The words of an XY2-100 port (R243) -/

/-- A bit below an even number adds itself to the ones. -/
theorem popCount_double_add (w x : Nat) {b : Nat} (hb : b < 2) : popCount (w + 1) (2 * x + b) = b + popCount w x := by
  rw [popCount, show (2 * x + b) % 2 = b by omega, show (2 * x + b) / 2 = x by omega]

/-- The word is the control bits and the code over the parity of their ones. -/
theorem xy2Word_eq (code : Nat) : xy2Word code = 2 * (2 ^ 16 + code) + popCount 19 (2 ^ 16 + code) % 2 := by
  have heven : 0x20000 + code * 2 = 2 * (2 ^ 16 + code) + 0 := by omega
  rw [xy2Word, heven, popCount_double_add 19 _ (by decide)]
  omega

/-- Settles O32: the parity bit lies below the code, and the ones are its own and those above it. -/
theorem xy2WordIsRight : Obligations.Xy2WordIsRight := by
  intro code hcode
  rw [xy2Word_eq]
  generalize hones : popCount 19 (2 ^ 16 + code) = ones
  refine ⟨?_, ?_, ?_⟩
  · simp only [bits, Nat.shiftRight_eq_div_pow]
    omega
  · simp only [bits, Nat.shiftRight_eq_div_pow]
    omega
  · rw [popCount_double_add 19 _ (Nat.mod_lt _ (by decide)), hones]
    omega

end Sys2Proof.Machine
end

