-- ==== Sys2Proof/Proofs/AxisFaults.lean ====
section
/-!
PROOFS. An axis fault of a head port, and what follows it (R228).
-/
namespace Sys2Proof.Machine

open Sys2Proof

/-- From s to t the fault registers of port n and the number of beams are as before. -/
structure PortKept (n : Nat) (s t : State) : Prop where
  fault : t.rg P.HP_FAULT n = s.rg P.HP_FAULT n
  cause : t.rg P.HP_FAULT_CAUSE n = s.rg P.HP_FAULT_CAUSE n
  length : t.beams.length = s.beams.length

variable {n : Nat} {s t u : State}

theorem PortKept.refl (n : Nat) (s : State) : PortKept n s s := ⟨rfl, rfl, rfl⟩

theorem PortKept.trans (h : PortKept n s t) (k : PortKept n t u) : PortKept n s u :=
  ⟨k.fault.trans h.fault, k.cause.trans h.cause, k.length.trans h.length⟩

theorem PortKept.ite {c : Prop} [Decidable c] (h : PortKept n s t) (k : PortKept n s u) : PortKept n s (if c then t else u) := by
  split
  · exact h
  · exact k

/-- Neither the registers nor the beams change. -/
theorem PortKept.of_eq (hparams : t.params = s.params) (hstraps : t.straps = s.straps) (hlen : t.beams.length = s.beams.length) :
    PortKept n s t := by
  have hreg (p : Nat) : t.rg p n = s.rg p n := by simp only [State.rg, State.reg, hparams, hstraps]
  exact ⟨hreg _, hreg _, hlen⟩

theorem PortKept.logged (h : Logged s t) : PortKept n s t :=
  ⟨h.rg (by simp only [P.HP_FAULT, P.LOG_OVERWRITTEN]; omega) (by simp only [P.HP_FAULT, P.LOG_MERGES]; omega),
    h.rg (by simp only [P.HP_FAULT_CAUSE, P.LOG_OVERWRITTEN]; omega) (by simp only [P.HP_FAULT_CAUSE, P.LOG_MERGES]; omega),
    by rw [h.beams]⟩

/-- A register other than those two, told by its number within its class. -/
theorem PortKept.setReg (n : Nat) (s : State) {p : Nat} (v : Nat) (h4 : p % 2 ^ 16 ≠ 4) (h5 : p % 2 ^ 16 ≠ 5) :
    PortKept n s (s.setReg p v) :=
  ⟨s.reg_setReg_other _ _ v (by simp only [P.HP_FAULT]; omega), s.reg_setReg_other _ _ v (by simp only [P.HP_FAULT_CAUSE]; omega), rfl⟩

theorem PortKept.setRg (n : Nat) (s : State) {p : Nat} (i v : Nat) (h4 : p % 2 ^ 16 ≠ 4) (h5 : p % 2 ^ 16 ≠ 5) :
    PortKept n s (s.setRg p i v) :=
  .setReg n s v (by omega) (by omega)

theorem PortKept.updBeam (n : Nat) (s : State) (m : Nat) (f : Beam → Beam) : PortKept n s (s.updBeam m f) :=
  .of_eq rfl rfl (List.length_modify ..)

theorem PortKept.setHanded (n : Nat) (s : State) (m a : Nat) (on : Bool) : PortKept n s (s.setHanded m a on) :=
  .ite (.refl n s) ((PortKept.setRg n s _ _ (by decide) (by decide)).trans (.logged (Logged.record ..)))

theorem PortKept.endHanded (n : Nat) (s : State) (m : Nat) : PortKept n s (s.endHanded m) :=
  ((PortKept.setHanded n s m 0 false).trans (.setHanded n _ m 1 false)).trans (.setHanded n _ m 2 false)

theorem PortKept.updHead (n : Nat) (s : State) (m : Nat) (f : HeadPort → HeadPort) : PortKept n s (s.updHead m f) := .of_eq rfl rfl rfl

theorem PortKept.headTo (n : Nat) (s : State) (m dest cause : Nat) : PortKept n s (s.headTo m dest cause) := by
  unfold State.headTo
  exact .trans (.trans (.updHead n ..) (.setRg n _ _ _ (by decide) (by decide))) (.logged (Logged.record ..))

theorem PortKept.docEdge (n : Nat) (s : State) (id : Nat) : PortKept n s (s.docEdge id) := by
  rw [State.docEdge_eq]
  exact .of_eq rfl rfl rfl

theorem PortKept.faultOn (n : Nat) (s : State) (src cls code seq : Nat) : PortKept n s (s.faultOn src cls code seq) :=
  .ite (.of_eq rfl rfl rfl) (.of_eq rfl rfl rfl)

theorem PortKept.bumpErr (n : Nat) (s : State) (src : Nat) : PortKept n s (s.bumpErr src) :=
  .setReg n s _ (by simp only [P.BLK_ERR_COUNT]; omega) (by simp only [P.BLK_ERR_COUNT]; omega)

/-- A degraded fault is counted, recorded and put in effect. -/
theorem PortKept.raiseFault (n : Nat) (s : State) (src code : Nat) (p : List Byte) : PortKept n s (s.raiseFault src code p clsDegraded) := by
  unfold State.raiseFault State.blockEscalate
  rw [if_pos (Nat.le_refl _)]
  exact .trans (.trans (.trans (.logged (Logged.record ..)) (.bumpErr n ..)) (.logged (Logged.recordC ..))) (.faultOn n ..)

theorem PortKept.endHold (n : Nat) (s : State) (m : Nat) : PortKept n s (s.endHold m) :=
  .trans (.ite (.setRg n s _ _ (by decide) (by decide)) (.refl n s)) (.updBeam n ..)

theorem PortKept.releaseSegs (n : Nat) (s : State) (m : Nat) (t : TS) (which : Nat → Bool) : PortKept n s (s.releaseSegs m t which) :=
  .of_eq rfl rfl rfl

theorem PortKept.releaseLeases (n : Nat) (s : State) (m : Nat) (t : TS) : PortKept n s (s.releaseLeases m t) := by
  unfold State.releaseLeases
  exact .trans (.trans (.releaseSegs n ..) (.endHold n ..)) (.updBeam n ..)

theorem PortKept.zoneCloses (n : Nat) (s : State) (m : Nat) (t : Int) : PortKept n s (s.zoneCloses m t) := .of_eq rfl rfl rfl

theorem PortKept.put (n : Nat) (s : State) (o : Output) : PortKept n s (s.put o) := .of_eq rfl rfl rfl

theorem PortKept.forceGateLow (n : Nat) (s : State) (m : Nat) : PortKept n s (s.forceGateLow m) := by
  unfold State.forceGateLow
  exact .trans (.trans (.ite (.put n ..) (.refl n s)) (.zoneCloses n ..)) (.updBeam n ..)

theorem PortKept.beamTo (n : Nat) (s : State) (m dest cause : Nat) : PortKept n s (s.beamTo m dest cause) :=
  .trans (.trans (.updBeam n s m fun b => { b with st := dest }) (.logged (Logged.record ..))) (.docEdge n ..)

/-- A beam of the grade that goes to a state is in it. -/
theorem State.beamTo_st (s : State) {m : Nat} (dest cause : Nat) (h : m < s.beams.length) : ((s.beamTo m dest cause).beam m).st = dest := by
  have hbeam := s.beam_updBeam_same (fun b => { b with st := dest }) h
  rw [State.beamTo, State.docEdge_eq]
  exact (congrArg Beam.st ((Logged.record ..).beam m)).trans (congrArg Beam.st hbeam)

/-- What is done to a beam in RUN before it goes to its state of an interrupt leaves the registers of its port. -/
theorem State.interrupt_run {m : Nat} (cause : Nat) (hrun : (s.beam m).st = 3) :
    ∃ t, PortKept n s t ∧ s.interrupt m cause = t.beamTo m 5 cause := by
  unfold State.interrupt
  simp only [hrun, ne_eq, not_true_eq_false, if_false]
  refine ⟨_, ?_, rfl⟩
  refine .trans (.trans (.trans (.trans (.releaseLeases n ..) (.forceGateLow n ..)) (.setRg n _ _ _ (by decide) (by decide)))
    (.logged (Logged.record ..))) (.updBeam n ..)

/-- After an interrupt the registers of the port are kept and the beam is not in RUN. -/
theorem State.interrupt_out (s : State) {m : Nat} (cause : Nat) (h : m < s.beams.length) :
    PortKept n s (s.interrupt m cause) ∧ ((s.interrupt m cause).beam m).st ≠ 3 := by
  by_cases hrun : (s.beam m).st = 3
  · obtain ⟨t, hkept, heq⟩ := State.interrupt_run (n := n) cause hrun
    rw [heq]
    refine ⟨hkept.trans (.beamTo n ..), ?_⟩
    rw [t.beamTo_st 5 cause (hkept.length ▸ h)]
    decide
  · rw [show s.interrupt m cause = s from if_pos hrun]
    exact ⟨.refl n s, hrun⟩

/-- What a first fault sets, and what it does to the beam. -/
theorem State.axisFault_first {causes axes : Nat} (hcauses : causes ≠ 0) (hfirst : s.rg P.HP_FAULT n = 0) :
    ∃ t u src p, PortKept n s t ∧
      PortKept n (t.setRg P.HP_FAULT_CAUSE n (Nat.lor (s.rg P.HP_FAULT_CAUSE n) (causes + axes * 2 ^ 16))) u ∧
      s.axisFault n causes axes = ((u.setRg P.HP_FAULT n 1).raiseFault src 0x1402 p clsDegraded).interrupt n 6 := by
  have hnew : ¬ (causes = 0 ∨ ((!(s.rg P.HP_FAULT n = 0 : Bool)) &&
      (Nat.lor (s.rg P.HP_FAULT_CAUSE n) (causes + axes * 2 ^ 16) = s.rg P.HP_FAULT_CAUSE n : Bool)) = true) := by
    simp [hcauses, hfirst]
  refine ⟨if causes ≠ 0 ∧ (s.head n).state = 3 then s.headTo n 4 (if bit causes 2 then 4 else 0) else s, _, _, _, ?_, ?_,
    (if_neg hnew).trans (if_pos hfirst)⟩
  · exact .ite (.headTo n ..) (.refl n s)
  · exact .endHanded n ..

/-- Settles O34: the two registers are written once each, and nothing after them touches them. -/
theorem axisFaultSets : Obligations.AxisFaultSets := by
  intro s n causes axes _ hcauses hlt haxes hfirst hold hn
  obtain ⟨t, u, src, p, ht, hu, heq⟩ := State.axisFault_first (axes := axes) hcauses hfirst
  have hraise := PortKept.raiseFault n (u.setRg P.HP_FAULT n 1) src 0x1402 p
  have hlen : n < ((u.setRg P.HP_FAULT n 1).raiseFault src 0x1402 p clsDegraded).beams.length :=
    (hraise.length.trans (hu.length.trans ht.length)).symm ▸ hn
  obtain ⟨hkept, hst⟩ := State.interrupt_out (n := n) _ 6 hlen
  rw [← heq] at hkept hst
  generalize s.axisFault n causes axes = s' at hkept hst ⊢
  have hall := hraise.trans hkept
  refine ⟨?_, ?_, hst⟩
  · rw [hall.fault]
    exact State.reg_setReg_same u _ 1
  · have hbound : Nat.lor (s.rg P.HP_FAULT_CAUSE n) (causes + axes * 2 ^ 16) < 2 ^ 32 := Nat.or_lt_two_pow hold (by omega)
    rw [hall.cause, show (u.setRg P.HP_FAULT n 1).rg P.HP_FAULT_CAUSE n = u.rg P.HP_FAULT_CAUSE n from
      State.reg_setReg_other u _ _ 1 (by simp only [P.HP_FAULT, P.HP_FAULT_CAUSE]; omega), hu.cause]
    exact (State.reg_setReg_same t _ _).trans (Nat.mod_eq_of_lt hbound)

end Sys2Proof.Machine
end

