-- ==== Sys2Proof/Proofs/Motion.lean ====
section
/-!
PROOFS. Profile cells, switches, power stages and feedback ports (R251-R291).
-/
namespace Sys2Proof.Machine

open Sys2Proof

/-! ## What an update of a unit leaves -/

/-- An update that keeps a field keeps it of every entry. -/
theorem getD_modify_field {α β : Type} {d : α} (l : List α) (i j : Nat) {f : α → α} (g : α → β) (h : ∀ x, g (f x) = g x) :
    g ((l.modify i f).getD j d) = g (l.getD j d) := by
  by_cases hj : j = i
  · subst hj
    obtain he | ⟨hm, hl⟩ := getD_modify_eq_or (d := d) l j f
    · rw [he, h]
    · rw [hm, hl]
  · rw [getD_modify_ne l f hj]

theorem State.sd_updSd_field {β : Type} (s : State) (i j : Nat) {f : SdSt → SdSt} (g : SdSt → β) (h : ∀ x, g (f x) = g x) :
    g ((s.updSd i f).sd j) = g (s.sd j) :=
  getD_modify_field s.mot.sds i j g h

theorem State.port_updPort_field {β : Type} (s : State) (i j : Nat) {f : FbkPort → FbkPort} (g : FbkPort → β) (h : ∀ x, g (f x) = g x) :
    g ((s.updPort i f).port j) = g (s.port j) :=
  getD_modify_field s.mot.ports i j g h

/-! ## Moves (R274, R279) -/

/-- Settles O35: no check of an opcode finds a reason under its condition. -/
theorem movesComplete : Obligations.MovesComplete := by
  refine ⟨.of_body State.bodyPrfMove ?move, .of_body State.bodyPrfHome ?home, .of_body State.bodyPrfChange ?change⟩
  all_goals
    intro b c _ h
    simp only [Bool.and_eq_true, Bool.or_eq_true, Bool.not_eq_true', decide_eq_true_eq, Option.isNone_iff_eq_none] at h
  case move =>
    obtain ⟨⟨⟨⟨⟨⟨⟨⟨hcell, hmode⟩, hspd⟩, hmost⟩, hacc⟩, hdec⟩, htarget⟩, hopen⟩, hlimit⟩ := h
    rw [State.bodyPrfMove]
    refine State.unless_of ?_
    simp only [firstBad_cons_eq_none, hopen, hlimit, Nat.not_lt.mpr hcell, Nat.not_lt.mpr hmode, Nat.one_le_iff_ne_zero.mp hspd,
      Nat.not_lt.mpr hmost, hacc, hdec]
    simpa using htarget
  case home =>
    obtain ⟨⟨hcell, hopen⟩, hlimit⟩ := h
    rw [State.bodyPrfHome]
    exact State.unless_of (by simp [Nat.not_lt.mpr hcell, hopen, hlimit])
  case change =>
    obtain ⟨⟨⟨⟨⟨⟨⟨hcell, hspd⟩, hmost⟩, hacc⟩, hdec⟩, hst⟩, hrun⟩, htarget⟩ := h
    rw [State.bodyPrfChange]
    have hget (v : Nat) (hv : v ≠ 0) : (if v = 2 ^ 32 - 1 then none else some v : Option Nat) ≠ some 0 := by
      split
      · exact nofun
      · exact fun h => hv (Option.some.inj h)
    have hfast : (match (if u32 c.payload 4 = 2 ^ 32 - 1 then none else some (u32 c.payload 4) : Option Nat) with
        | some v => decide (v > 5120000) | none => false) = false := by
      rcases hmost with hle | hkeep
      · rw [if_neg (by omega)]
        exact decide_eq_false (by omega)
      · rw [if_pos hkeep]
    refine State.unless_of ?_
    simp only [firstBad_cons_eq_none, Nat.not_lt.mpr hcell, hget _ hspd, hget _ hacc, hget _ hdec, hst]
    refine ⟨?_, ?_, rfl⟩
    · simp only [decide_false, Bool.or_false, Bool.false_or]
      exact hfast
    · cases hm : (b.prf (u8 c.payload 0)).run with
      | none => simp [hm] at hrun
      | some m => simpa [hm, Decidable.imp_iff_not_or] using htarget

/-! ## Controls (R252, R258, R267, R274) -/

theorem State.chopOff_vmotLow (s : State) (a : Nat) : (s.chopOff a).mot.vmotLow = s.mot.vmotLow := by
  have hone (s : State) (b : Bool) :
      (if ((s.stp a).chop b).phase = 0 then s else (s.setChop a b chopReset).put (.bridge a b s.now 0)).mot.vmotLow = s.mot.vmotLow := by
    split
    · rfl
    · rfl
  exact (hone _ true).trans (hone s false)

/-- Turning a drive on or off leaves what the stages' supply was found to be. -/
theorem State.driveSet_vmotLow (s : State) (a : Nat) (on : Bool) : (s.driveSet a on).mot.vmotLow = s.mot.vmotLow := by
  unfold State.driveSet State.putCoils State.putCoilsAt
  split
  · split
    · rfl
    · split
      · rfl
      · exact State.chopOff_vmotLow _ a
  · rfl

/-- Turning a step/direction cell on or off leaves its fault input. -/
theorem State.driveSet_sdFlt (s : State) {a : Nat} (on : Bool) (ha : ¬ a < 6) (b : Nat) : (s.driveSet a on).sdFlt b = s.sdFlt b := by
  rw [State.driveSet, if_neg ha]
  exact congrArg (· != bit (s.rg P.SD_POL b) 3) (s.sd_updSd_field (a - 6) b SdSt.flt fun _ => rfl)

theorem State.driveSet_rg (s : State) {a : Nat} (on : Bool) (ha : ¬ a < 6) (p b : Nat) : (s.driveSet a on).rg p b = s.rg p b := by
  rw [State.driveSet, if_neg ha]
  rfl

/-- Settles O36: the checks pass, and the branch of each body is the one its condition names. -/
theorem motionControlsComplete : Obligations.MotionControlsComplete := by
  refine ⟨.of_body State.bodyPrfStop ?stop, .of_body State.bodyPrfStop ?rests, .of_body State.bodyPrfSetPos ?setPos,
    .of_body State.bodyDrvEnable ?on, .of_body State.bodyDrvEnable ?off, .of_body State.bodyFbkArmIndex ?arm,
    .of_body State.bodyFbkLatchRead ?latch, .of_paramWrite, .of_paramWrite, .of_paramWrite, .of_paramWrite⟩
  all_goals
    intro b c _ h
    simp only [Bool.and_eq_true, Bool.not_eq_true', decide_eq_true_eq] at h
  case stop =>
    obtain ⟨⟨⟨hcell, hkind⟩, hmoves⟩, hflush⟩ := h
    rw [State.bodyPrfStop]
    refine State.unless_of (by simp [Nat.not_lt.mpr hcell, Nat.not_lt.mpr hkind]) ?_
    dsimp only
    rw [if_neg (ne_true_of_eq_false hflush)]
    exact if_pos hmoves
  case rests =>
    obtain ⟨⟨⟨hcell, hkind⟩, hrests⟩, hflush⟩ := h
    rw [State.bodyPrfStop]
    refine State.unless_of (by simp [Nat.not_lt.mpr hcell, Nat.not_lt.mpr hkind]) ?_
    simp only [hflush, Bool.false_eq_true, if_false, hrests]
  case setPos =>
    obtain ⟨⟨hcell, hst⟩, hqueue⟩ := h
    rw [State.bodyPrfSetPos]
    exact State.unless_of (by simp [Nat.not_lt.mpr hcell, hst, hqueue])
  case on =>
    obtain ⟨⟨⟨⟨hcell, hon⟩, hst⟩, hsupply⟩, hfault⟩ := h
    rw [State.bodyDrvEnable]
    refine State.unless_of (by simp [Nat.not_lt.mpr hcell, hon, hst]) ?_
    refine (if_pos hon).trans (congrArg (fun s : State => s.ok c (le 1 (s.prf (u8 c.payload 0)).st ++ zeros 3))
      ((if_neg (Classical.not_not.mpr hst)).trans ((if_neg ?_).trans (if_neg ?_))))
    · rintro ⟨hstage, hlow⟩
      simp only [Bool.and_eq_false_iff, decide_eq_false_iff_not] at hsupply
      exact hsupply.elim (· hstage) (ne_true_of_eq_false · ((b.driveSet_vmotLow _ true).symm.trans hlow))
    · rintro ⟨hcell', hflt, hact⟩
      have hfault' := (b.driveSet_sdFlt true (Nat.not_lt.mpr hcell') (u8 c.payload 0 - 6)).symm.trans hflt
      have hact' := (b.driveSet_rg true (Nat.not_lt.mpr hcell') P.SD_FLT_ACT (u8 c.payload 0 - 6)).symm.trans hact
      simp [hcell', hfault', hact'] at hfault
  case off =>
    obtain ⟨⟨hcell, hoff⟩, hrests⟩ := h
    rw [State.bodyDrvEnable]
    refine State.unless_of (by simp [Nat.not_lt.mpr hcell, hoff]) ?_
    exact (if_neg (by simp [hoff])).trans (if_neg (by simp [hrests]))
  case arm =>
    obtain ⟨hport, hmode⟩ := h
    rw [State.bodyFbkArmIndex]
    exact State.unless_of (by simp [Nat.not_lt.mpr hport, hmode])
  case latch =>
    obtain ⟨hport, hlatch⟩ := h
    rw [State.bodyFbkLatchRead]
    exact State.unless_of (by simp [Nat.not_lt.mpr hport, Nat.not_lt.mpr hlatch])

end Sys2Proof.Machine
end

