-- ==== Sys2Proof/Proofs/MotionEvents.lean ====
section
/-!
PROOFS. The events of profile cells, switches and power stages (R274-R285).
-/
namespace Sys2Proof.Machine

open Sys2Proof

/-- A move by its plan that has come to its end. -/
theorem State.prfFinish_plan {s : State} {a : Nat} {m : Move} {e : Int} (hrun : (s.prf a).run = some m) (hend : (s.prf a).endAt = some e)
    (hmode : m.mode ≤ 2) (hmoves : (s.prf a).moving = true) (hpast : planEnd (s.prf a).plan 0 ≤ (s.now : Int) * 65536) :
    s.prfFinish a =
      let c := s.prf a
      let t := if c.plan.isEmpty then s.now else c.restTime
      ((s.updPrf a fun c => { c with run := none, pos := e * 65536, plan := [] }).prfRecord a 2 m e t).prfRest a t := by
  simp only [State.prfFinish, hrun, hend]
  exact (if_neg (by simp [hmoves, Int.not_lt.mpr hpast]; omega)).trans (if_neg (by omega))

/-- A stage that is on loses its drive to an overcurrent. -/
theorem State.stageFault_over {s : State} {a : Nat} (ha : a < 6) (hon : (s.stp a).on = true) :
    s.stageFault a false =
      let s := (s.updStp a fun q => { q with on := false, fault := true, oc := true, holding := false }).putCoils a
      s.prfFault a 2 0x2008 (le 1 a ++ le 1 (s.stp a).stat ++ zeros 2 ++ le 4 s.mot.vmot ++ le 2 (s.stp a).phase ++ zeros 14) true := by
  have hup : (fun q : StpSt => { q with on := false, fault := true, oc := q.oc || !false, uv := q.uv || false, holding := false }) =
      fun q => { q with on := false, fault := true, oc := true, holding := false } := by
    funext q
    simp
  refine (if_neg (by simp [ha, hon])).trans ?_
  rw [hup]

/-- The fault input of a step/direction cell acts where it becomes active. -/
theorem State.sdInput_acts {s : State} {b : Nat} {level : Bool} (hnow : (s.updSd b fun x => { x with flt := level }).sdFlt b = true)
    (hwas : s.sdFlt b = false) : s.sdInput b level = (s.updSd b fun x => { x with flt := level }).sdFault b :=
  if_pos (by rw [hnow, hwas]; rfl)

/-- Settles O37: the tests of each event hold at the states where it is due. -/
theorem motionEventsComplete : Obligations.MotionEventsComplete := by
  refine ⟨fun a => .of_unit (present := a < 8) (fun s _ => s.prfBegin a) (fun _ _ h => by simp_all) fun _ _ _ => rfl,
    fun a m e => .of_unit (present := a < 8) (fun s _ => s.prfFinish a) (fun _ _ h => by simp_all) ?moveEnd,
    fun a => .of_unit (present := a < 8) (fun s _ => s.prfStallCheck a) (fun _ _ h => by simp_all) ?stall,
    fun i => .of_unit (fun s t => s.switchInput i false t) (fun _ _ h => h) fun _ _ _ => rfl,
    fun i => .of_unit (fun s t => s.switchInput i true t) (fun _ _ h => h) fun _ _ _ => rfl,
    fun a => .of_unit (present := a < 6) (fun s _ => s.stpHold a) (fun _ _ h => by simp_all) ?hold,
    fun a => .of_unit (present := a < 6) (fun s _ => s.stageFault a false) (fun _ _ h => by simp_all) ?overcurrent,
    fun mv => .of_next (fun s _ => s.vmotFall mv) ?under,
    fun a coilB => .of_unit (present := a < 6) (fun s _ => s.openLoad a coilB) (fun _ _ h => by simp_all) ?openLoad,
    fun b level => .of_unit (present := b < 2) (fun s _ => s.sdInput b level) (fun _ _ h => by simp_all) ?sdLevel,
    fun b level => .of_unit (present := b < 2) (fun s _ => s.sdInput b level) (fun _ _ h => by simp_all) ?sdRecord,
    fun b level => .of_unit (present := b < 2) (fun s _ => s.sdInput b level) (fun _ _ h => by simp_all) ?sdFault⟩
  all_goals
    intro s t h
    simp only [Bool.and_eq_true, Bool.or_eq_true, Bool.not_eq_true', decide_eq_true_eq] at h
  case moveEnd =>
    obtain ⟨⟨⟨⟨⟨_, hrun⟩, hend⟩, hmode⟩, hmoves⟩, hpast⟩ := h
    exact State.prfFinish_plan hrun hend hmode hmoves hpast
  case stall =>
    obtain ⟨⟨⟨⟨_, hport⟩, hst⟩, hfault⟩, hlong⟩ := h
    exact if_neg (by simp [Nat.not_lt.mpr hport, hst, hfault, Nat.not_lt.mpr hlong])
  case hold =>
    obtain ⟨⟨⟨⟨hstage, hon⟩, hfull⟩, hrests⟩, hlong⟩ := h
    exact if_neg (by simp [Nat.not_le.mpr hstage, hon, hfull, hrests, Nat.not_lt.mpr hlong])
  case overcurrent => exact State.stageFault_over h.1 h.2
  case under => exact if_neg (Nat.not_le.mpr h)
  case openLoad =>
    obtain ⟨⟨_, hon⟩, hdrives⟩ := h
    exact if_neg (by simp [hon, hdrives])
  case sdLevel =>
    obtain ⟨_, (hpassive | hwas) | ⟨hact, hrests⟩⟩ := h
    · exact if_neg (by simp [hpassive])
    · exact if_neg (by simp [hwas])
    · by_cases hedge : ((s.updSd b fun x => { x with flt := level }).sdFlt b && !s.sdFlt b) = true
      · exact (if_pos hedge).trans ((if_neg hact).trans (if_pos hrests))
      · exact if_neg hedge
  case sdRecord =>
    obtain ⟨⟨⟨_, hnow⟩, hwas⟩, hact⟩ := h
    rw [State.sdInput_acts hnow hwas]
    exact if_pos hact
  case sdFault =>
    obtain ⟨⟨⟨⟨⟨_, hnow⟩, hwas⟩, hact⟩, hst⟩, hfault⟩ := h
    rw [State.sdInput_acts hnow hwas]
    exact (if_neg hact).trans (if_neg (not_or.mpr ⟨hst, hfault⟩))

end Sys2Proof.Machine
end

