-- ==== Sys2Proof/Proofs/Feedback.lean ====
section
/-!
PROOFS. The feedback ports (R252-R267).
-/
namespace Sys2Proof.Machine

open Sys2Proof

/-! ## Events -/

theorem State.updPort_updPort (s : State) (n : Nat) (f g : FbkPort → FbkPort) :
    (s.updPort n f).updPort n g = s.updPort n fun p => g (f p) := by
  simp only [State.updPort, State.updMot, List.modify_modify_eq]
  rfl

section
variable {a : State} {n : Nat} {stamp : TS} {bs : Option (List Bool)}

/-- A read that is its owner's turn and that fails is counted, while the failures are few. -/
theorem State.absRead_bad (htype : a.fbkType n = 3 ∨ a.fbkType n = 4) (hruns : a.expRuns = true) (hturn : stamp % 2560 = 100)
    (hfirst : (a.port n).absAt = none) (hown : a.twin.ownAt ≤ stamp) (hfew : (a.port n).absBad + 1 < a.rg P.FBK_ABS_ERR_N n) :
    a.absRead n stamp none =
      a.updPort n fun q => { q with absAt := some stamp, absCrc := true, absBad := q.absBad + 1, neRun := 0 } := by
  refine (if_neg (by simp [hruns]; omega)).trans ((if_neg (by simp [hturn, hfirst])).trans ((if_neg (Nat.not_lt.mpr hown)).trans
    ((if_neg ?_).trans (a.updPort_updPort n _ _))))
  rw [State.updPort_updPort]
  refine Nat.not_le.mpr (Nat.lt_of_le_of_lt ?_ hfew)
  obtain h | ⟨hm, hl⟩ := getD_modify_eq_or (d := fbkReset) a.mot.ports n
    fun q => { q with absAt := some stamp, absCrc := true, absBad := q.absBad + 1, neRun := 0 }
  · exact Nat.le_of_eq (congrArg FbkPort.absBad h)
  · exact Nat.le_trans (Nat.le_of_eq (congrArg FbkPort.absBad (hm.trans hl.symm))) (Nat.le_succ _)

/-- A read that is its owner's turn and good counts its difference. -/
theorem State.absRead_good (htype : a.fbkType n = 3 ∨ a.fbkType n = 4) (hruns : a.expRuns = true) (hturn : stamp % 2560 = 100)
    (hfirst : (a.port n).absAt = none) (hown : a.twin.ownAt ≤ stamp) {v : Nat}
    (hread : decodeAbs (a.fbkType n = 3) (a.rg P.FBK_ABS_CODE n = 1) (a.rg P.FBK_ABS_BITS n) bs = .good v true true) :
    a.absRead n stamp bs =
      let nb := a.rg P.FBK_ABS_BITS n
      let d : Int := if nb ≥ 48 then wrap48 (toSigned 48 v - a.fbkSign n * (a.port n).raw)
        else toSigned nb (ofSigned nb ((v : Int) - (((a.port n).absPrev.getD 0 : Nat) : Int)))
      (a.updPort n fun q => { q with
        absAt := some stamp, absCrc := false, absBad := 0, neRun := 0, absPrev := some v, absTs := stamp }).countEdge n
        (a.fbkSign n * d) stamp := by
  refine (if_neg (by simp [hruns]; omega)).trans ((if_neg (by simp [hturn, hfirst])).trans ((if_neg (Nat.not_lt.mpr hown)).trans ?_))
  generalize hr : decodeAbs _ _ _ _ = r
  obtain rfl : r = .good v true true := hr.symm.trans hread
  dsimp only
  rw [State.updPort_updPort]
  rfl

end

/-- An input of a feedback port takes its levels where the clocks stand, too. -/
theorem StoppedEventCompletes.of_fbkLevels {n : Nat} {c : TS → Instr} {levels : List (Nat × Bool)}
    (hexec : ∀ s t, exec (c t) s = s.fbkLevels t n levels) :
    StoppedEventCompletes c (fun _ _ => n < 8) (fun a t => a.fbkInput n levels t) := by
  refine .of_eventWhen (fun a t => a.fbkInput n levels t) (fun a t => a.fbkInput n levels t) (fun s t hn => ?_) fun _ _ _ => rfl
  rw [hexec, State.fbkLevels, hn, State.onUnit_there]

/-- Settles O38: the inputs take their levels whether the clocks run or stand; a read is decoded where it is due. -/
theorem feedbackEventsComplete : Obligations.FeedbackEventsComplete := by
  refine ⟨fun n x y => .of_unit (fun a t => a.fbkInput n [(0, x), (1, y)] t) (fun _ _ h => h) fun _ _ _ => rfl,
    fun n x => .of_unit (fun a t => a.fbkInput n [(2, x)] t) (fun _ _ h => h) fun _ _ _ => rfl,
    fun n code => .of_unit (fun a t => a.fbkInput n [(3, bit code 2), (4, bit code 1), (5, bit code 0)] t) (fun _ _ h => h) fun _ _ _ => rfl,
    fun n x => .of_unit (fun a t => a.latchInput n x t) (fun _ _ h => h) fun _ _ _ => rfl,
    fun n sn cs => .of_unit (present := n < 8) (fun a t => a.sampleInput n sn cs t) (fun _ _ h => by simp_all) fun _ _ _ => rfl,
    fun n stamp => .of_unit (present := n < 8) (fun a _ => a.absRead n stamp none) (fun _ _ h => by simp_all) ?bad,
    fun n stamp bs v => .of_unit (present := n < 8) (fun a _ => a.absRead n stamp (some bs)) (fun _ _ h => by simp_all) ?good,
    fun n => .of_unit (present := n < 8) (fun a _ => a.fbkStill n) (fun _ _ h => by simp_all) ?still,
    fun n x y => .of_fbkLevels fun _ _ => rfl, fun n x => .of_fbkLevels fun _ _ => rfl, fun n code => .of_fbkLevels fun _ _ => rfl⟩
  case bad =>
    intro a t h
    simp only [Bool.and_eq_true, Bool.or_eq_true, decide_eq_true_eq, Option.isNone_iff_eq_none] at h
    obtain ⟨⟨⟨⟨⟨⟨_, htype⟩, hruns⟩, hturn⟩, hfirst⟩, hown⟩, hfew⟩ := h
    exact State.absRead_bad htype hruns hturn hfirst hown hfew
  case good =>
    intro a t h
    simp only [Bool.and_eq_true, Bool.or_eq_true, decide_eq_true_eq, Option.isNone_iff_eq_none, beq_iff_eq] at h
    obtain ⟨⟨⟨⟨⟨⟨_, htype⟩, hruns⟩, hturn⟩, hfirst⟩, hown⟩, hread⟩ := h
    exact State.absRead_good htype hruns hturn hfirst hown hread
  case still =>
    intro a t h
    simp only [Bool.and_eq_true, decide_eq_true_eq] at h
    obtain ⟨⟨⟨⟨_, htype⟩, htick⟩, hruns⟩, hlong⟩ := h
    exact if_neg (by simp [htype, htick.symm, hruns]; omega)

/-! ## What accepted levels do (R253-R263) -/

section
variable {s : State} {n : Nat} {t : TS}

/-- A step of the quadrature sequence at a port that decodes it. -/
theorem State.fbkEdge_step {x y : Bool} (htype : s.fbkType n = 1) (hruns : s.expRuns = true) :
    s.fbkEdge n x y t =
      let b := s.updPort n fun p => { p with a := x, b := y }
      match (quadPlace x y + 4 - quadPlace (s.port n).a (s.port n).b) % 4 with
      | 1 => b.countEdge n (s.fbkSign n) t
      | 3 => b.countEdge n (-s.fbkSign n) t
      | 2 => b.illegal n t
      | _ => b :=
  if_neg (show ¬ (s.fbkType n ≠ 1 ∨ (!s.expRuns) = true) by simp [htype, hruns])

theorem State.docEdge_reg (s : State) (id p : Nat) : (s.docEdge id).reg p = s.reg p := by
  rw [State.docEdge_eq]
  rfl

theorem State.capture_reg (s : State) (n k : Nat) (pos raw : Int) (posTs trigTs : TS) (p : Nat) :
    (s.capture n k pos raw posTs trigTs).reg p = s.reg p := by
  unfold State.capture
  rw [State.docEdge_reg]
  split
  · rfl
  · rfl

/-- A trigger touches no register. -/
theorem State.latchTrigger_reg (s : State) (n k : Nat) (t : TS) (p : Nat) : (s.latchTrigger n k t).reg p = s.reg p := by
  unfold State.latchTrigger
  split
  · rfl
  · split
    · rfl
    · exact State.capture_reg ..
    · exact State.capture_reg ..
    · exact State.capture_reg ..

/-- An index that a port counts in mode 1 resets its position. -/
theorem State.fbkIndex_reset (htype : s.fbkType n = 1) (hruns : s.expRuns = true) (hgate : s.rg P.FBK_IDX_GATE n = 0)
    (hmode : s.rg P.FBK_IDX_MODE n = 1) (hlow : (s.port n).z = false) :
    s.fbkIndex n true t =
      (((s.updPort n fun p => { p with z := true }).latchTrigger n 2 t).bump P.FBK_IDX_CNT n).indexReset n t := by
  have hkept : (((s.updPort n fun p => { p with z := true }).latchTrigger n 2 t).bump P.FBK_IDX_CNT n).rg P.FBK_IDX_MODE n = 1 := by
    refine (State.reg_setReg_other _ _ _ _ ?_).trans ((State.latchTrigger_reg (s.updPort n fun p => { p with z := true }) n 2 t _).trans hmode)
    simp only [P.FBK_IDX_MODE, P.FBK_IDX_CNT]
    omega
  refine (if_neg ?_).trans (if_pos (.inl hkept))
  have htype' : (s.updPort n fun p => { p with z := true }).fbkType n = 1 := htype
  have hruns' : (s.updPort n fun p => { p with z := true }).expRuns = true := hruns
  have hgate' : (s.updPort n fun p => { p with z := true }).rg P.FBK_IDX_GATE n = 0 := hgate
  simp [htype', hruns', hgate', hlow, bit]

theorem State.expRuns_of_power {s u : State} (h : u.power = s.power) : u.expRuns = s.expRuns := by
  rw [State.expRuns, State.expRuns, h]

theorem State.faultOn_eq (s : State) (src cls code seq : Nat) :
    s.faultOn src cls code seq = { s with faults := (s.faultOn src cls code seq).faults } := by
  unfold State.faultOn
  split
  · rfl
  · rfl

/-- A fault of a port leaves the power state and every register but its own and the log's. -/
theorem State.portFault_kept (s : State) (n cause events : Nat) :
    (s.portFault n cause events).expRuns = s.expRuns ∧ (s.portFault n cause events).fbkType n = s.fbkType n := by
  unfold State.portFault
  split
  · exact ⟨rfl, rfl⟩
  · dsimp only
    rw [State.faultOn_eq]
    refine ⟨State.expRuns_of_power ((Logged.record ..).power.trans rfl), ?_⟩
    refine ((Logged.record ..).rg ?_ ?_).trans (State.reg_setReg_other _ _ _ _ ?_)
    · simp only [P.FBK_TYPE, P.LOG_OVERWRITTEN]
      omega
    · simp only [P.FBK_TYPE, P.LOG_MERGES]
      omega
    · simp only [P.FBK_TYPE, P.FBK_FAULT]
      omega

/-- The samples of invalid Hall states leave the power state and the type of the port. -/
theorem State.hallSamples_kept (s : State) (n : Nat) (t : TS) :
    (s.hallSamples n t).expRuns = s.expRuns ∧ (s.hallSamples n t).fbkType n = s.fbkType n := by
  unfold State.hallSamples
  dsimp only
  split
  · exact ⟨rfl, rfl⟩
  · split
    · exact State.portFault_kept ..
    · exact ⟨rfl, rfl⟩

/-- An invalid Hall state is a sample of its own. -/
theorem State.fbkHall_invalid {code : Nat} (htype : s.fbkType n = 5) (hruns : s.expRuns = true) (hcode : code < 8)
    (hinvalid : code = 0 ∨ code = 7) :
    s.fbkHall n code t = ((s.hallSamples n t).updPort n fun p => { p with hall := code, hallNext := t }).hallSamples n (t + 1) := by
  obtain ⟨hruns', htype'⟩ := s.hallSamples_kept n t
  have hup : ¬ ((s.hallSamples n t).fbkType n ≠ 5 ∨ (!(s.hallSamples n t).expRuns) = true) := by simp [hruns', htype', hruns, htype]
  have hmod : code % 8 = code := Nat.mod_eq_of_lt hcode
  rw [State.fbkHall, hmod]
  exact (if_neg hup).trans (if_pos hinvalid)

/-- A Hall state that is the next of its order counts. -/
theorem State.fbkHall_next {code : Nat} (htype : s.fbkType n = 5) (hruns : s.expRuns = true) (hcode : code < 8)
    (hlow : 1 ≤ code) (hhigh : code ≤ 6) (hknown : ((s.hallSamples n t).port n).hallLast ≠ 0)
    (horder : (s.hallSamples n t).rg P.FBK_HALL_ORDER n = 0)
    (hnext : (hallPlace code + 6 - hallPlace ((s.hallSamples n t).port n).hallLast) % 6 = 1) :
    s.fbkHall n code t =
      let b := (s.hallSamples n t).updPort n fun p => { p with hall := code, hallNext := t }
      (b.updPort n fun p => { p with hallBad := false, hallLast := code }).countEdge n (b.fbkSign n) t := by
  obtain ⟨hruns', htype'⟩ := s.hallSamples_kept n t
  have hup : ¬ ((s.hallSamples n t).fbkType n ≠ 5 ∨ (!(s.hallSamples n t).expRuns) = true) := by simp [hruns', htype', hruns, htype]
  have hmod : code % 8 = code := Nat.mod_eq_of_lt hcode
  rw [State.fbkHall, hmod]
  refine (if_neg hup).trans ((if_neg (by omega)).trans ((if_neg hknown).trans ?_))
  rw [hnext]
  refine congrArg (fun d : Int => State.countEdge _ n d t) ?_
  have hone : ¬ (s.hallSamples n t).rg P.FBK_HALL_ORDER n = 1 := by rw [horder]; decide
  exact (congrArg (· * _) (if_neg hone)).trans (Int.one_mul _)

theorem State.outLevels_mot (s : State) (n : Nat) (t : TS) : (s.outLevels n t).mot = s.mot := by
  unfold State.outLevels
  split
  · rfl
  · split
    · rfl
    · rfl
    · rfl

theorem State.passThrough_mot (s : State) (n : Nat) (t : TS) : (s.passThrough n t).mot = s.mot := by
  unfold State.passThrough
  split
  · exact s.outLevels_mot n t
  · rfl

/-- The levels at the balls of a port reach what it has accepted and counted only later. -/
theorem State.fbkInput_field {α : Type} (s : State) (n : Nat) (levels : List (Nat × Bool)) (t : TS) (g : FbkPort → α)
    (h : ∀ p ins, g { p with ins := ins } = g p) : g ((s.fbkInput n levels t).port n) = g (s.port n) := by
  have hpass (u : State) : g ((if levels.any (·.1 < 3) then u.passThrough n t else u).port n) = g (u.port n) := by
    split
    · rw [State.port, State.passThrough_mot]
      rfl
    · rfl
  exact (hpass _).trans (s.port_updPort_field n n g fun p => h p _)

end

/-- Settles O39: what each accepted level does, read off the decoding of its port's type. -/
theorem acceptedLevelsCount : Obligations.AcceptedLevelsCount := by
  refine ⟨fun s n x y t htype hruns => ?edge, fun s n t htype hruns hgate hmode hlow => State.fbkIndex_reset htype hruns hgate hmode hlow,
    fun s n code t htype hruns hcode => ⟨State.fbkHall_invalid htype hruns hcode, fun hlow hhigh hknown horder hnext => ?hall⟩,
    fun s n levels t => ⟨s.fbkInput_field n levels t _ fun _ _ => rfl, s.fbkInput_field n levels t _ fun _ _ => rfl,
      s.fbkInput_field n levels t _ fun _ _ => rfl, s.fbkInput_field n levels t _ fun _ _ => rfl⟩,
    fun s n k hnone => ?settle⟩
  case edge =>
    refine ⟨fun h => ?_, fun h => ?_, fun h => ?_, fun h => ?_⟩
    all_goals
      rw [State.fbkEdge_step htype hruns, h]
      rfl
  case hall =>
    have hlast := (s.hallSamples n t).port_updPort_field n n (f := fun p => { p with hall := code, hallNext := t }) FbkPort.hallLast
      fun _ => rfl
    exact State.fbkHall_next htype hruns hcode hlow hhigh (hlast ▸ hknown) horder (hlast ▸ hnext)
  case settle =>
    cases k with
    | zero => rfl
    | succ k =>
      dsimp only [State.fbkSettle]
      generalize hd : List.map _ _ = due
      obtain rfl : due = [] := by
        rw [← hd, List.map_eq_nil_iff, List.filter_eq_nil_iff]
        rintro ⟨x, q⟩ hx
        rcases hnone (x, q) hx with hsame | hwait
        · simp [show x.1 = q from hsame]
        · simp [hwait]
      rfl

end Sys2Proof.Machine
end

