-- ==== Sys2Proof/Proofs/Lamp.lean ====
section
/-!
PROOFS. The bed lighting (R321-R333).
-/
namespace Sys2Proof.Machine

open Sys2Proof

/-- The entries of a LAMP_SET that are all in range give no reason to reject it. -/
theorem lampSet_unrejected {b : State} {p : List Byte} (hone : 1 ≤ u16 p 0) (hmost : u16 p 0 ≤ 64) (hlen : p.length = 4 + 4 * u16 p 0)
    (hall : ((List.range (u16 p 0)).all fun i => u8 p (4 + 4 * i) ≤ 15 && u8 p (5 + 4 * i) ≤ 3 && u16 p (6 + 4 * i) ≤ b.dutyFull) = true) :
    firstBad [(u16 p 0 = 0 || u16 p 0 > 64 || p.length ≠ 4 + 4 * u16 p 0 ||
      ((List.range (u16 p 0)).map fun i => (u8 p (4 + 4 * i), u8 p (5 + 4 * i), u16 p (6 + 4 * i))).any fun e =>
        e.1 > 15 || e.2.1 > 3 || e.2.2 > b.dutyFull, rBADPARAM)] = none := by
  simp only [List.all_eq_true, Bool.and_eq_true, decide_eq_true_eq] at hall
  simp only [firstBad_cons_eq_none, firstBad_nil, Bool.or_eq_false_iff, decide_eq_false_iff_not, List.any_eq_false, List.mem_map,
    Bool.or_eq_true, decide_eq_true_eq, and_true]
  refine ⟨⟨⟨by omega, by omega⟩, by simp [hlen]⟩, ?_⟩
  rintro _ ⟨i, hi, rfl⟩
  obtain ⟨⟨hcol, hled⟩, hduty⟩ := hall i hi
  simp only
  omega

/-- Writing the duties leaves the time. -/
theorem State.lampDuties_now (es : List (Nat × Nat × Nat)) (s : State) :
    (es.foldl (fun (s : State) e => s.setRg (P.LMP_DUTY + e.2.1) e.1 e.2.2) s).now = s.now := by
  induction es generalizing s with
  | nil => rfl
  | cons e r ih => exact ih _

/-- The end of a test that finds no short clears the faults of the columns. -/
theorem State.lampTestDone_good {a : State} {te : LampTest} {opens : Nat} (htest : a.lamp.test = some te)
    (hlong : te.began + 320000 ≤ a.now) (hruns : a.expRuns = true) :
    a.lampTestDone [] opens =
      let s := a.updLamp fun l =>
        { l with test := none, shorts := [], disabled := 0, openMask := if a.rg P.LAMP_ROWS 0 = 1 then opens % 2 ^ 16 else 0 }
      let s := forEach (List.range 16) (fun c s => s.faultOff (s.lampSrc c) clsContained) s.lampStats
      let s := if te.enable then s.lampOn else if te.back ≥ 2 then s.lampRestore else s.lampTo 0
      s.decide te.k rOK s.now s.lampMasks := by
  have hbad : (((List.range 16).filter fun c => ([] : List (Nat × Nat)).any fun p => p.1 = c || p.2 = c).map fun c => 2 ^ c).sum = 0 := by
    decide
  dsimp only [State.lampTestDone]
  rw [htest]
  dsimp only [List.filter_nil, List.foldl_nil]
  rw [hbad]
  exact if_neg (by simp [Nat.not_lt.mpr hlong, hruns])

/-- Settles O40: the checks pass, and the branch of each operation is the one its condition names. -/
theorem lampCompletes : Obligations.LampCompletes := by
  refine ⟨.of_body State.bodyLampEnable ?off, .of_body State.bodyLampEnable ?on, .of_body State.bodyLampEnable ?onTest,
    .of_body State.bodyLampTest ?test, .of_body State.bodyLampSet ?setLit, .of_body State.bodyLampSet ?setDark,
    .of_body State.bodyLampPattern ?pattern, .of_body State.bodyLampStrobe ?strobe, .of_body State.bodyLampStrobe ?strobeOff,
    .of_body State.bodyLampI2cXfer ?bus, fun te opens => .of_next (fun a _ => a.lampTestDone [] opens) ?testDone,
    .of_next (fun a _ => a) fun _ _ _ => rfl, .of_next (fun a t => a.strobeEdge t) ?edge, fun w => .of_next (fun a _ => a.windowEnd) ?window⟩
  all_goals
    intros
    rename_i h
    simp only [Bool.and_eq_true, Bool.not_eq_true', decide_eq_true_eq] at h
  case off =>
    rw [State.bodyLampEnable]
    exact State.unless_of (by simp [h]) (if_pos h)
  case on =>
    obtain ⟨⟨hon, hcfg⟩, hskip⟩ := h
    rw [State.bodyLampEnable]
    exact State.unless_of (by simp [hon, hcfg]) ((if_neg (by simp [hon])).trans (if_pos hskip))
  case onTest =>
    obtain ⟨⟨hon, hcfg⟩, htest⟩ := h
    rw [State.bodyLampEnable]
    exact State.unless_of (by simp [hon, hcfg]) ((if_neg (by simp [hon])).trans (if_neg (by simp [htest])))
  case test =>
    rw [State.bodyLampTest]
    exact State.unless_of (by simp [h])
  case setLit =>
    obtain ⟨⟨⟨⟨hone, hmost⟩, hlen⟩, hlit⟩, hall⟩ := h
    rw [State.bodyLampSet]
    exact State.unless_of (lampSet_unrejected hone hmost hlen hall) (if_pos hlit)
  case setDark =>
    obtain ⟨⟨⟨⟨hone, hmost⟩, hlen⟩, hdark⟩, hall⟩ := h
    rw [State.bodyLampSet]
    exact State.unless_of (lampSet_unrejected hone hmost hlen hall) (if_neg (by simp [hdark]))
  case pattern =>
    obtain ⟨hslot, hall⟩ := h
    rw [State.bodyLampPattern]
    refine State.unless_of ?_
    simp only [List.all_eq_true, decide_eq_true_eq] at hall
    simpa [Nat.not_lt.mpr hslot] using hall
  case strobe =>
    obtain ⟨⟨⟨hon, hst⟩, hrows⟩, hcompat⟩ := h
    rw [State.bodyLampStrobe]
    exact State.unless_of (by simp [hon, hst, hrows, hcompat]) (if_neg (by simp [hon]))
  case strobeOff =>
    rw [State.bodyLampStrobe]
    exact State.unless_of (by simp [h]) (if_pos h)
  case bus =>
    obtain ⟨⟨haddr, hw⟩, hr⟩ := h
    rw [State.bodyLampI2cXfer]
    exact State.unless_of (by simp [Nat.not_lt.mpr haddr, Nat.not_lt.mpr hw, Nat.not_lt.mpr hr])
  case testDone =>
    obtain ⟨⟨htest, hlong⟩, hruns⟩ := h
    exact State.lampTestDone_good htest hlong hruns
  case edge => exact if_neg (by simp [h])
  case window =>
    obtain ⟨⟨⟨⟨hlast, hst⟩, hstop⟩, hdrives⟩, hruns⟩ := h
    simp only [State.windowEnd, hlast]
    exact if_pos ⟨hst, hstop, hdrives, hruns⟩

end Sys2Proof.Machine
end

