-- ==== Sys2Proof/Proofs/Pipelines.lean ====
section
/-!
PROOFS. The commands of a camera pipeline, and which packets it takes (R292-R320).
-/
namespace Sys2Proof.Machine

open Sys2Proof

/-- Settles O43: the packets of a port are taken while the domain runs, by the pipelines that pass the filter. -/
theorem pipelineTakesItsChannel : Obligations.PipelineTakesItsChannel := by
  intro s port vc p
  unfold State.pipesOn
  split
  case isTrue hstop =>
    have hstop' : s.expRuns = false := by simpa using hstop
    simp [hstop']
  case isFalse hruns =>
    have hruns' : s.expRuns = true := by simpa using hruns
    simp [hruns', and_assoc]

/-! ## Buffers (R306) -/

/-- A slot of buffers as a PIPE_BUFS gives it. -/
def bufSlot (b : List Byte) (deflate : Bool) (i : Nat) : PSlot :=
  ⟨u32 b (8 + 12 * i), u32 b (12 + 12 * i), if deflate then u32 b (16 + 12 * i) else noAcc, 0⟩

/-- The accessions of such a slot. -/
def PSlot.bufs (x : PSlot) (deflate : Bool) : List Nat := [x.frame, x.stats] ++ (if deflate then [x.comp] else [])

/-- A slot whose accessions lie in their pools, are large enough and may be put on loan. -/
structure State.BufsGood (s : State) (p : Nat) (deflate : Bool) (x : PSlot) : Prop where
  loans : ∀ a ∈ x.bufs deflate, s.loanCheck a = none
  framePool : accPool x.frame = 2
  statsPool : accPool x.stats = 3
  frameSize : s.frameBytes p ≤ ((s.acc? x.frame).map (·.size)).getD 0
  statsSize : 3168 ≤ ((s.acc? x.stats).map (·.size)).getD 0
  compPool : deflate = true → accPool x.comp = 2

theorem bufSlot_good {s : State} {p i : Nat} {b : List Byte} {deflate : Bool} (hframe : s.loanCheck (u32 b (8 + 12 * i)) = none)
    (hstats : s.loanCheck (u32 b (12 + 12 * i)) = none) (hpool1 : accPool (u32 b (8 + 12 * i)) = 2) (hpool2 : accPool (u32 b (12 + 12 * i)) = 3)
    (hsize1 : s.frameBytes p ≤ ((s.acc? (u32 b (8 + 12 * i))).map (·.size)).getD 0)
    (hsize2 : 3168 ≤ ((s.acc? (u32 b (12 + 12 * i))).map (·.size)).getD 0)
    (hcomp : deflate = false ∨ s.loanCheck (u32 b (16 + 12 * i)) = none ∧ accPool (u32 b (16 + 12 * i)) = 2) :
    s.BufsGood p deflate (bufSlot b deflate i) where
  loans := by
    cases deflate with
    | false => simp [PSlot.bufs, bufSlot, hframe, hstats]
    | true => simp [PSlot.bufs, bufSlot, hframe, hstats, (hcomp.resolve_left nofun).1]
  framePool := hpool1
  statsPool := hpool2
  frameSize := hsize1
  statsSize := hsize2
  compPool h := by
    subst h
    exact (hcomp.resolve_left nofun).2

/-- Accessions that may all be put on loan give no reason to reject. -/
theorem loans_unrejected {s : State} {accs : List Nat} (h : ∀ a ∈ accs, s.loanCheck a = none) (r : Nat) :
    (accs.map s.loanCheck).contains (some r) = false := by
  simp only [List.contains_eq_mem, decide_eq_false_iff_not, List.mem_map, not_exists, not_and]
  intro a ha
  rw [h a ha]
  exact nofun

/-- Good slots give no reason to reject a PIPE_BUFS. -/
theorem slots_unrejected {s : State} {p index : Nat} {deflate : Bool} {slots : List PSlot} (hindex : s.loanCheck index = none)
    (hslots : ∀ x ∈ slots, s.BufsGood p deflate x) :
    (∀ r, ((index :: slots.flatMap fun x => x.bufs deflate).map s.loanCheck).contains (some r) = false) ∧
    (slots.any fun x => accPool x.frame ≠ 2 || accPool x.stats ≠ 3 || ((s.acc? x.frame).map (·.size)).getD 0 < s.frameBytes p ||
      ((s.acc? x.stats).map (·.size)).getD 0 < 3168 || (deflate && accPool x.comp ≠ 2)) = false := by
  constructor
  · refine loans_unrejected fun a ha => ?_
    obtain rfl | ha := List.mem_cons.mp ha
    · exact hindex
    · obtain ⟨x, hx, hax⟩ := List.mem_flatMap.mp ha
      exact (hslots x hx).loans a hax
  · rw [List.any_eq_false]
    intro x hx
    have hgood := hslots x hx
    cases deflate with
    | false => simp [hgood.framePool, hgood.statsPool, Nat.not_lt.mpr hgood.frameSize, Nat.not_lt.mpr hgood.statsSize]
    | true =>
      simp [hgood.framePool, hgood.statsPool, Nat.not_lt.mpr hgood.frameSize, Nat.not_lt.mpr hgood.statsSize, hgood.compPool rfl]

/-- Settles O41: no check of an opcode finds a reason under its condition. -/
theorem pipelineCommandsComplete : Obligations.PipelineCommandsComplete := by
  refine ⟨.of_body State.bodyPipeStart ?start, .of_body State.bodyPipeStop ?abandon, .of_body State.bodyPipeStop ?stop,
    .of_body State.bodyPipeStop ?rests, .of_body State.bodyPipeRelease ?release, .of_body State.bodyCamCommit ?commit,
    .of_body State.bodyCamI2cXfer ?bus, .of_body State.bodyPipeStatus ?status, .of_body State.bodyPipeBufs ?bufs⟩
  all_goals
    intro b c _ h
    simp only [Bool.and_eq_true, Bool.or_eq_true, Bool.not_eq_true', decide_eq_true_eq, Option.isNone_iff_eq_none] at h
  case start =>
    obtain ⟨⟨⟨⟨hpipe, hslots⟩, hcfg⟩, hclash⟩, hshade⟩ := h
    rw [State.bodyPipeStart]
    refine State.unless_of ?_
    have hchecks : firstBad [((u8 c.payload 0 ≥ b.nPipes : Bool), rBADPARAM), ((b.pipe (u8 c.payload 0)).slots.isEmpty, rBADSTATE),
        (b.pipeCfgBad (u8 c.payload 0), rBADPARAM),
        ((List.range b.nPipes).any fun q => (b.pipe q).run && b.rg P.PIPE_SRC_PORT q = b.rg P.PIPE_SRC_PORT (u8 c.payload 0) &&
          Nat.land (b.rg P.PIPE_VC_MASK q) (b.rg P.PIPE_VC_MASK (u8 c.payload 0)) ≠ 0, rBADSTATE)] = none := by
      simp only [firstBad_cons_eq_none, hslots, hcfg, hclash, firstBad_nil, and_true]
      simpa using hpipe
    rw [hchecks]
    dsimp only
    split
    · rfl
    · exact hshade.resolve_left ‹_›
  case abandon =>
    obtain ⟨hpipe, hmode⟩ := h
    rw [State.bodyPipeStop]
    exact State.unless_of (by simp [Nat.not_le.mpr hpipe, hmode]) (if_pos hmode)
  case stop =>
    obtain ⟨⟨hpipe, hmode⟩, hruns⟩ := h
    rw [State.bodyPipeStop]
    exact State.unless_of (by simp [Nat.not_le.mpr hpipe, hmode]) ((if_neg (by simp [hmode])).trans (if_pos hruns))
  case rests =>
    obtain ⟨⟨hpipe, hmode⟩, hrests⟩ := h
    rw [State.bodyPipeStop]
    exact State.unless_of (by simp [Nat.not_le.mpr hpipe, hmode]) ((if_neg (by simp [hmode])).trans (if_neg (by simp [hrests])))
  case release =>
    rw [State.bodyPipeRelease]
    exact State.unless_of (by simp [Nat.not_le.mpr h])
  case commit =>
    obtain ⟨⟨⟨⟨hpipe, hone⟩, hmost⟩, hlen⟩, hall⟩ := h
    rw [State.bodyCamCommit]
    refine State.unless_of ?_
    simp only [List.all_eq_true, Option.isSome_iff_ne_none] at hall
    simpa [Nat.not_le.mpr hpipe, Nat.one_le_iff_ne_zero.mp hone, Nat.not_lt.mpr hmost, hlen] using hall
  case bus =>
    obtain ⟨⟨⟨hpipe, haddr⟩, hw⟩, hr⟩ := h
    rw [State.bodyCamI2cXfer]
    exact State.unless_of (by simp [Nat.not_le.mpr hpipe, Nat.not_lt.mpr haddr, Nat.not_lt.mpr hw, Nat.not_lt.mpr hr])
  case status =>
    rw [State.bodyPipeStatus]
    exact State.unless_of (by simp [Nat.not_le.mpr h])
  case bufs =>
    obtain ⟨⟨⟨⟨⟨⟨⟨⟨hpipe, hone⟩, hmost⟩, hlen⟩, hrests⟩, hindex⟩, hpool⟩, hsize⟩, hall⟩ := h
    have hslots : ∀ x ∈ (List.range (u8 c.payload 1)).map (bufSlot c.payload (bit (u8 c.payload 2) 0)),
        b.BufsGood (u8 c.payload 0) (bit (u8 c.payload 2) 0) x := by
      simp only [List.all_eq_true, List.mem_range, Bool.and_eq_true, Bool.or_eq_true, Bool.not_eq_true', decide_eq_true_eq,
        Option.isNone_iff_eq_none] at hall
      simp only [List.mem_map, List.mem_range, forall_exists_index, and_imp, forall_apply_eq_imp_iff₂]
      intro i hi
      have h1 : 8 + 4 * (3 * i) = 8 + 12 * i := by omega
      have h2 : 8 + 4 * (3 * i + 1) = 12 + 12 * i := by omega
      have h3 : 8 + 4 * (3 * i + 2) = 16 + 12 * i := by omega
      have hgood := hall i hi
      rw [h1, h2, h3] at hgood
      obtain ⟨⟨⟨⟨⟨⟨hframe, hstats⟩, hpool1⟩, hpool2⟩, hsize1⟩, hsize2⟩, hcomp⟩ := hgood
      exact bufSlot_good hframe hstats hpool1 hpool2 hsize1 hsize2 hcomp
    obtain ⟨hloans, hpools⟩ := slots_unrejected hindex hslots
    rw [State.bodyPipeBufs]
    refine State.unless_of ?_
    simp only [firstBad_cons_eq_none]
    refine ⟨by simp [Nat.not_le.mpr hpipe, Nat.one_le_iff_ne_zero.mp hone, Nat.not_lt.mpr hmost, hlen], hrests, hloans _, hloans _, ?_, rfl⟩
    rw [Bool.or_eq_false_iff]
    exact ⟨by simp [hpool, Nat.not_lt.mpr hsize], hpools⟩

/-! ## Events (R294-R318) -/

/-- A packet of a camera comes to the pipelines of its port. -/
theorem PipeEventCompletes.of_onPipes {port vc : Nat} {c : TS → Instr} {take : Nat → State → State}
    (hexec : ∀ s t, exec (c t) s = s.onUnit (port < s.nPipes ∧ vc < 16) "camera port" (s.event t fun s => s.onPipes port vc take)) :
    PipeEventCompletes port c (fun _ _ => vc < 16)
      fun a _ => let b := a.phySync port; forEach (b.pipesOn port vc) take b :=
  UnitEventCompletes.of_onUnit (stopped := fun _ s => s) (up := fun a _ => a.onPipes port vc take) hexec
    (fun _ _ hport hvc => decide_eq_true ⟨hport, of_decide_eq_true hvc⟩) fun _ _ _ => rfl

/-- A transfer that succeeded on the bus of a pipeline gives what was read. -/
theorem State.i2cDone_pipe {a : State} {p : Nat} {data : List Byte} {x : I2cXfer} {r : List I2cXfer} (hxfers : (a.pipe p).xfers = x :: r)
    (hbegun : x.begun = true) (hp : p ≠ 8) :
    a.i2cDone p 0 data = ((a.updPipe p fun q => { q with xfers := r }).decide x.k rOK a.now (i2cReply 0 data x.readLen)).camBus p := by
  refine (if_neg hp).trans ?_
  simp only [State.camXferDone, hxfers]
  exact if_neg (by simp [hbegun])

/-- Settles O42: what each operation finds first is what its condition names. -/
theorem pipelineEventsComplete : Obligations.PipelineEventsComplete := by
  refine ⟨fun port vc n ecc => .of_onPipes fun _ _ => rfl, fun port vc l => .of_onPipes fun _ _ => rfl,
    fun port vc n ecc => .of_onPipes fun _ _ => rfl, fun p f => .of_pipe (fun a _ => a.frameTimeout p) ?timeout,
    fun p d => .of_pipe (fun a _ => a.blobPublish p) ?blob, fun p d r => .of_pipe (fun a _ => a.indexWrite p) ?index,
    fun p made bus m r => .of_pipe (fun a _ => a.camCommitDone p made bus) ?commit, fun p => .of_pipe (fun a _ => a.camPeriod p) ?trigger,
    fun p result data x r => UnitEventCompletes.of_onUnit (stopped := fun _ s => s) (up := fun a _ => a.i2cDone p result data)
      (fun _ _ => rfl) (fun _ _ hp _ => decide_eq_true (.inr hp)) ?bus,
    fun result data x r => UnitEventCompletes.of_onUnit (stopped := fun _ s => s) (up := fun a _ => a.i2cDone 8 result data)
      (present := fun s => (8 = 8 ∨ 8 < s.nPipes : Bool)) (name := "bus") (fun _ _ => rfl) (fun _ _ _ _ => decide_eq_true (.inl rfl)) ?lampBus⟩
  all_goals
    intro a t h
    simp only [Bool.and_eq_true, Bool.not_eq_true', decide_eq_true_eq] at h
  case timeout =>
    obtain ⟨hcur, hlate⟩ := h
    simp only [State.frameTimeout, hcur]
    exact if_neg (Nat.not_lt.mpr hlate)
  case blob =>
    obtain ⟨hfind, hacc⟩ := h
    dsimp only [State.blobPublish]
    rw [hfind]
    exact if_pos hacc
  case index =>
    obtain ⟨⟨⟨hdone, hpub⟩, hzip⟩, hacc⟩ := h
    rw [State.indexWrite, hdone]
    exact (if_neg (by simp [hpub, hzip])).trans (congrArg (fun s : State => ((s.updPipe p fun q =>
      { q with done := r, slots := match d.slot with | some i => q.slots.modify i fun x => { x with owner := 2 } | none => q.slots }).docEdge
        (125 + p)).pipeStopDecide p) (if_pos hacc))
  case commit =>
    obtain ⟨hcommits, hbegun⟩ := h
    simp only [State.camCommitDone, hcommits]
    exact if_neg (by simp [hbegun])
  case trigger => exact if_pos (by simp [h])
  case bus =>
    obtain ⟨⟨⟨hxfers, hbegun⟩, rfl⟩, hp⟩ := h
    exact State.i2cDone_pipe hxfers hbegun hp
  case lampBus =>
    obtain ⟨hxfers, hbegun⟩ := h
    refine (if_pos rfl).trans ?_
    simp only [State.lampXferDone, hxfers]
    exact if_neg (by simp [hbegun])

end Sys2Proof.Machine
end

