-- ==== Sys2Proof/Proofs/StoreBytes.lean ====
section
/-!
PROOFS. The bytes of the store: what a write puts there, what it leaves, and their canonical form (R335-R342).
-/
namespace Sys2Proof.Machine

open Sys2Proof

/-! ## Reading back (R342) -/

/-- A byte of an accession that is neither the map's nor a system page lies in memory. -/
theorem State.memByte_mem {s : State} {acc : Nat} (hmap : acc ≠ s.gal.acc) (hpages : acc ≠ systemPages) (off : Nat) :
    s.memByte acc off = (Memory.get s.store.mem (memKey acc off)).getD (Config.undefByte (memKey acc off)) := by
  rw [State.memByte, if_neg hmap, if_neg hpages]

theorem State.memBytes_eq_map (s : State) (acc off n : Nat) : s.memBytes acc off n = (List.range' off n).map (s.memByte acc) := by
  induction n generalizing off with
  | zero => rfl
  | succ n ih => rw [State.memBytes, ih, List.range'_succ, List.map_cons]

theorem State.memByte_memWrite_same (s : State) {acc off : Nat} {data : List Byte} (hmap : acc ≠ s.gal.acc) (hpages : acc ≠ systemPages)
    {i : Nat} (hi : i < data.length) : (s.memWrite acc off data).memByte acc (off + i) = data[i] := by
  have hget := Memory.get_putAll_same s.store.mem (memKey acc off) data i hi
  rw [State.memByte_mem (s := s.memWrite acc off data) hmap hpages, show memKey acc (off + i) = memKey acc off + i by
    simp only [memKey]; omega]
  exact congrArg (Option.getD · _) hget

/-- Settles O47: memory holds the bytes at their addresses and no others; the map and the pages are not in it. -/
theorem storeReadsBack : Obligations.StoreReadsBack := by
  intro s acc off data
  refine ⟨fun hmap hpages => ?_, fun off' => ?_, fun acc' off' hout => ?_, rfl, rfl, rfl, rfl⟩
  · rw [State.memBytes_eq_map]
    refine List.ext_getElem (by simp) fun i h1 h2 => ?_
    simp only [List.getElem_map, List.getElem_range', Nat.one_mul]
    exact s.memByte_memWrite_same hmap hpages h2
  · exact (if_pos rfl).trans (if_pos rfl).symm
  · have hget := Memory.get_putAll_other s.store.mem (memKey acc off) data (memKey acc' off') hout
    by_cases hmap : acc' = s.gal.acc
    · exact (if_pos hmap).trans (if_pos hmap).symm
    · refine (if_neg hmap).trans (Eq.trans ?_ (if_neg hmap).symm)
      cases (if acc' = systemPages then blobAt off' else none) with
      | some pk => rfl
      | none => exact congrArg (Option.getD · _) hget

/-! ## Canonical form -/

theorem State.useLine_mem (s : State) (acc : Nat) (write : Bool) (line : Nat) : (s.useLine acc write line).store.mem = s.store.mem := rfl

theorem State.useLines_mem (s : State) (acc off n : Nat) (write : Bool) : (s.useLines acc off n write).store.mem = s.store.mem := by
  have hall (l : List Nat) (s : State) : (forEach l (fun line s => s.useLine acc write line) s).store.mem = s.store.mem := by
    induction l generalizing s with
    | nil => rfl
    | cons x r ih => exact ih _
  unfold State.useLines
  split
  · rfl
  · exact hall _ s

theorem State.updAcc_mem (s : State) (acc : Nat) (f : Accn → Accn) : (s.updAcc acc f).store.mem = s.store.mem := by
  unfold State.updAcc
  split
  · rfl
  · rfl

/-- Settles O48: bytes are put in order, and dropping some keeps the order of the others. -/
theorem storeStaysCanonical : Obligations.StoreStaysCanonical := by
  refine ⟨rfl, fun s hwf => ⟨fun acc off data => Memory.wf_putAll _ _ _ hwf, fun acc off n => Memory.wf_drop _ _ _ hwf,
    fun acc => Memory.wf_drop _ _ _ hwf, fun acc off data => ?_⟩⟩
  rw [State.storeData, State.useLines_mem, State.clearPoison, State.updAcc_mem]
  exact Memory.wf_putAll _ _ _ hwf

end Sys2Proof.Machine
end

