-- ==== Sys2Proof/Proofs/Store.lean ====
section
/-!
PROOFS. The commands of the Accession Store and of its compression engines (R337-R366).
-/
namespace Sys2Proof.Machine

open Sys2Proof

/-- A register of the store's front is no counter of the log. -/
theorem Logged.pinUsed {s t : State} (h : Logged s t) : t.rg P.SF_PIN_USED 0 = s.rg P.SF_PIN_USED 0 := h.rg (by decide) (by decide)

/-- Settles O44: no check of an opcode finds a reason under its condition. -/
theorem storeCommandsComplete : Obligations.StoreCommandsComplete := by
  refine ⟨.of_body State.bodyStoreAlloc ?alloc, fun a => .of_body State.bodyStoreFree ?free, .of_body State.bodyStoreWrite ?write,
    .of_body State.bodyStoreRead ?read, .of_body State.bodyStoreDmaIn ?dmaIn, .of_body State.bodyStoreDmaOut ?dmaOut,
    fun a => .of_body State.bodyStoreInfo ?info, fun a => .of_body State.bodyStorePin ?pin⟩
  all_goals
    intro b c _ h
    simp only [Bool.and_eq_true, Bool.or_eq_true, Bool.not_eq_true', decide_eq_true_eq, Option.isNone_iff_eq_none] at h
  case alloc =>
    obtain ⟨⟨⟨⟨⟨hpool, hnot4⟩, hone⟩, hmost⟩, hruns⟩, hspace⟩ := h
    rw [State.bodyStoreAlloc]
    refine State.unless_of ?_
    simp only [firstBad_cons_eq_none, hruns, hspace, firstBad_nil, and_true, Bool.or_eq_false_iff, decide_eq_false_iff_not]
    omega
  case free =>
    obtain ⟨⟨hacc, hpool⟩, hstate⟩ := h
    simp only [State.bodyStoreFree, hacc, if_neg hpool, if_neg hstate]
  case write =>
    obtain ⟨⟨hparam, hpool⟩, hbusy⟩ := h
    rw [State.bodyStoreWrite]
    exact State.unless_of (by simp only [hparam, hpool, hbusy]; rfl)
  case read =>
    obtain ⟨⟨⟨hone, hmost⟩, hparam⟩, hpoison⟩ := h
    rw [State.bodyStoreRead]
    refine State.unless_of (by simp [Nat.one_le_iff_ne_zero.mp hone, Nat.not_lt.mpr hmost, hparam]) ?_
    simp only [hpoison]
  case dmaIn =>
    obtain ⟨⟨⟨hparam, hpool⟩, hbusy⟩, hhost⟩ := h
    rw [State.bodyStoreDmaIn, State.storeDma]
    refine State.unless_of ?_
    rcases hhost with htwin | hpcie
    · simp [hparam, hpool, hbusy, htwin]
    · simp [hparam, hpool, hbusy, hpcie]
  case dmaOut =>
    obtain ⟨hparam, hhost⟩ := h
    rw [State.bodyStoreDmaOut, State.storeDma]
    refine State.unless_of ?_
    rcases hhost with htwin | hpcie
    · simp [hparam, htwin]
    · simp [hparam, hpcie]
  case info => simp only [State.bodyStoreInfo, h]
  case pin =>
    obtain ⟨⟨⟨⟨⟨⟨⟨hacc, hpin⟩, hpool⟩, hready⟩, hfree⟩, hnone⟩, hloan⟩, hroom⟩ := h
    rw [State.bodyStorePin, hacc]
    refine (if_neg (by simp [hpin, hpool])).trans ((if_neg (by simp [hpin])).trans ((if_neg (by simp [hfree, hnone])).trans ?_))
    rw [hloan]
    refine (if_neg (Nat.not_lt.mpr hroom)).trans ?_
    dsimp only
    rw [(Logged.takeLoan b (u32 c.payload 0)).pinUsed]

/-! ## Compression (R362-R365) -/

/-- Settles O46: the job is accepted where its accessions give no reason to reject. -/
theorem compressionCompletes : Obligations.CompressionCompletes := by
  refine ⟨.of_body State.bodyZipCompress ?compress, .of_body State.bodyZipDecompress ?decompress,
    fun e j => .of_unit (present := e < 3) (fun a _ => a.zipEnd e) (fun _ _ h => by simp_all) ?ends⟩
  case compress =>
    intro b c _ h
    simp only [Bool.and_eq_true, decide_eq_true_eq, Option.isNone_iff_eq_none] at h
    obtain ⟨⟨⟨hengine, hframing⟩, hdyn⟩, hbad⟩ := h
    rw [State.bodyZipCompress]
    refine State.unless_of ?_
    simpa [Nat.not_lt.mpr hengine, Nat.not_lt.mpr hframing, Nat.not_lt.mpr hdyn] using hbad
  case decompress =>
    intro b c _ h
    simp only [Bool.and_eq_true, decide_eq_true_eq, Option.isNone_iff_eq_none] at h
    obtain ⟨hframing, hbad⟩ := h
    rw [State.bodyZipDecompress]
    refine State.unless_of ?_
    simpa [Nat.not_lt.mpr hframing] using hbad
  case ends =>
    intro a t h
    simp only [Bool.and_eq_true, decide_eq_true_eq] at h
    rw [State.zipEnd, h.2]
    rfl

end Sys2Proof.Machine
end

