-- ==== Sys2Proof/Proofs/StoreEvents.lean ====
section
/-!
PROOFS. The events of the Accession Store and its DRAM (R341-R366).
-/
namespace Sys2Proof.Machine

open Sys2Proof

/-! ## Loans (R341) -/

/-- The last of a freed accession's loans releases it with its record. -/
theorem State.returnLoan_freed {a : State} {acc : Nat} {x : Accn} (hacc : a.acc? acc = some x) (hlast : x.loans = 1) (hfreed : x.state = 3) :
    a.returnLoan acc =
      let s := a.releaseAcc acc
      s.record (s.srcPath 4 3 0) 0x4006 (le 4 acc ++ le 4 x.loansAtFree ++ le 4 ((a.now - x.freedAt) / 1000) ++ zeros 12) := by
  rw [State.returnLoan, hacc]
  exact if_pos ⟨hfreed, by rw [hlast]⟩

/-- A loan of an accession that is not freed is counted back. -/
theorem State.returnLoan_held {a : State} {acc : Nat} {x : Accn} (hacc : a.acc? acc = some x) (hheld : x.state ≠ 3) :
    a.returnLoan acc = a.updAcc acc fun x => { x with loans := x.loans - 1 } := by
  rw [State.returnLoan, hacc]
  refine (if_neg fun h => hheld h.1).trans ?_
  simp only [State.updAcc, hacc]

theorem State.loanBack_some {a : State} {acc : Nat} {x : Accn} (hacc : a.acc? acc = some x) (hloans : 1 ≤ x.loans) :
    a.loanBack acc = a.returnLoan acc := by
  rw [State.loanBack, hacc]
  exact if_pos hloans

/-! ## DRAM (R351-R358) -/

/-- A read of an accession that is not the front's alone and not poisoned, at its place in DRAM. -/
theorem State.readComplete_dram {a : State} {acc off : Nat} {q : Requester} (hacc : (a.acc? acc).isSome = true)
    (hdram : a.frontOnly acc = false) (hgood : a.firstPoison acc (off / 64 * 64) 64 = none) :
    a.readComplete acc off .none q =
      (((a.bankUsed (a.placeOf acc off).1 (a.placeOf acc off).2.1).issue 1 (a.placeOf acc off).1 (a.placeOf acc off).2.1
        (a.placeOf acc off).2.2.1).fillLine acc off) := by
  have hthere : (a.acc? acc).isNone = false := by rw [← Option.not_isSome, hacc]; rfl
  unfold State.readComplete
  generalize a.placeOf acc off = pl
  simp [hthere, hdram, hgood]

/-- The same with a corrected error. -/
theorem State.readComplete_corrected {a : State} {acc off : Nat} {q : Requester} (hacc : (a.acc? acc).isSome = true)
    (hdram : a.frontOnly acc = false) (hgood : a.firstPoison acc (off / 64 * 64) 64 = none) :
    a.readComplete acc off .dramSingle q =
      let pl := a.placeOf acc off
      let s := (((a.bankUsed pl.1 pl.2.1).issue 1 pl.1 pl.2.1 pl.2.2.1).fillLine acc off).bump P.RANK_CE_COUNT pl.1
      s.record (s.rankSrc pl.1) 0x4001
        (le 1 pl.2.1 ++ zeros 1 ++ le 2 pl.2.2.2 ++ le 4 pl.2.2.1 ++ le 4 acc ++ le 4 (off / 64 * 64) ++ zeros 8) := by
  have hthere : (a.acc? acc).isNone = false := by rw [← Option.not_isSome, hacc]; rfl
  unfold State.readComplete
  generalize a.placeOf acc off = pl
  simp [hthere, hdram, hgood]
  rfl

/-- Giving a row to the activation counters leaves the time that pages stay open. -/
theorem State.activate_pageIdle (r bank k fuel : Nat) (rows : List Nat) (s : State) :
    (s.activate r bank fuel rows).rg P.DDR_PAGE_IDLE k = s.rg P.DDR_PAGE_IDLE k := by
  induction fuel generalizing rows s with
  | zero => rfl
  | succ fuel ih =>
    cases rows with
    | nil => rfl
    | cons row rest =>
      unfold State.activate
      dsimp only
      split
      · exact ih _ _
      · refine (ih _ _).trans (((Logged.record ..).rg ?_ ?_).trans (State.reg_setReg_other _ _ _ _ ?_))
        · simp only [P.DDR_PAGE_IDLE, P.LOG_OVERWRITTEN]
          omega
        · simp only [P.DDR_PAGE_IDLE, P.LOG_MERGES]
          omega
        · simp only [P.DDR_PAGE_IDLE, P.DDR_RH_REFRESH]
          omega

/-- A row that is opened is counted, and stays open where it is not hot. -/
theorem State.openBank_eq (s : State) (r bank row : Nat) :
    s.openBank r bank row =
      let hot := (rhTouch ((s.rank r).rh.getD bank []) row (s.rg P.DDR_RH_THR (r / 2))).2.isSome
      let left := if hot ∨ s.rg P.DDR_PAGE_IDLE (r / 2) = 0 then none else some row
      (s.activate r bank 40000 [row]).updRank r fun x => { x with openRow := x.openRow.set bank left } := by
  rw [State.openBank]
  dsimp only
  rw [State.activate_pageIdle]

theorem State.refresh_due {a : State} {r : Nat} (hrank : r < 4) (hstate : (a.rank r).state ≤ 1) (hdue : (a.rank r).refDue ≤ a.now) :
    ¬ (r > 3 ∨ (a.rank r).state ≥ 2 ∨ a.now < (a.rank r).refDue) :=
  not_or.mpr ⟨by omega, not_or.mpr ⟨by omega, Nat.not_lt.mpr hdue⟩⟩

/-! ## Transfers (R344, R366) -/

/-- The bytes a transfer brought leave the time. -/
theorem State.storeData_now (s : State) (acc off : Nat) (data : List Byte) : (s.storeData acc off data).now = s.now := by
  have hlines (l : List Nat) (s : State) : (forEach l (fun line s => s.useLine acc true line) s).now = s.now := by
    induction l generalizing s with
    | nil => rfl
    | cons x r ih => exact ih _
  have huse (u : State) : (u.useLines acc off data.length true).now = u.now := by
    unfold State.useLines
    split
    · rfl
    · exact hlines _ u
  exact (huse _).trans (Logged.updAcc ..).now

/-- A transfer into an accession that is there writes what it brought. -/
theorem State.dmaDone_inward {a : State} {j : StoreJob} {r : List StoreJob} {moved : Nat} {data : List Byte} (hdma : a.store.dma = j :: r)
    (hin : j.inward = true) (hacc : (a.acc? j.acc).isSome = true) :
    a.dmaDone moved true data =
      let b := a.updStore fun st => { st with dma := r }
      let b := if b.forwards && j.sess = 0 then b.put (.twin 19 (le 1 j.stream ++ le 4 j.seq ++ data.take j.len)) else b
      (b.storeData j.acc j.off (data.take j.len)).decide ⟨j.sess, j.stream, j.seq⟩ rOK a.now (le 4 j.len) := by
  rw [State.dmaDone, hdma]
  refine (if_pos hin).trans ?_
  simp only [if_true]
  generalize hb : (if ((a.updStore fun st => { st with dma := r }).forwards && j.sess = 0) = true then State.put _ _ else _) = b
  have hkept : b.acc? j.acc = a.acc? j.acc ∧ b.now = a.now := by
    rw [← hb]
    split
    · exact ⟨rfl, rfl⟩
    · exact ⟨rfl, rfl⟩
  rw [hkept.1, if_pos hacc, State.storeData_now, hkept.2]

theorem State.updAcc_pinFree (s : State) (acc : Nat) (f : Accn → Accn) : (s.updAcc acc f).pinFree = s.pinFree := by
  unfold State.updAcc
  split
  · rfl
  · rfl

/-- Settles O45: the tests of each event hold at the states where it is due. -/
theorem storeEventsComplete : Obligations.StoreEventsComplete := by
  refine ⟨fun acc x => .of_next (fun a _ => a.loanBack acc) ?held, fun acc x => .of_next (fun a _ => a.loanBack acc) ?freed,
    fun acc off q => .of_next (fun a _ => a.readComplete acc off .dramSingle q) ?single,
    fun acc off q => .of_next (fun a _ => a.readComplete acc off .none q) ?read,
    fun r commands attempts stall => .of_unit (present := r < 4) (fun a _ => a.dramAlert r commands attempts stall false)
      (fun _ _ h => by simp_all) ?alert,
    fun r waiting => .of_unit (present := r < 4) (fun a _ => a.dramRefresh r waiting) (fun _ _ h => by simp_all) ?postponed,
    fun r waiting => .of_unit (present := r < 4) (fun a _ => a.dramRefresh r waiting) (fun _ _ h => by simp_all) ?refresh,
    fun r bank row => .of_unit (present := (r < 4 ∧ bank < 8 ∧ row < 65536 : Bool)) (fun a _ => a.rowActivate r bank row)
      (fun _ _ h => by simp_all) ?row,
    fun ch => .of_unit (present := ch < 2) (fun a _ => a.rhClear ch) (fun _ _ h => by simp_all) ?window,
    fun r bank => .of_unit (present := (r < 4 ∧ bank < 8 : Bool)) (fun a _ => a.pageClose r bank) (fun _ _ h => by simp_all) ?page,
    fun r => .of_unit (present := r < 4) (fun a _ => a.rankPowerDown r) (fun _ _ h => by simp_all) ?down,
    fun moved data j r => .of_next (fun a _ => a.dmaDone moved true data) ?dma, fun j r => .of_next (fun a _ => a.pinDone) ?pin⟩
  all_goals
    intro a t h
    simp only [Bool.and_eq_true, Bool.or_eq_true, Bool.not_eq_true', decide_eq_true_eq, Option.isNone_iff_eq_none] at h
  case held =>
    obtain ⟨⟨hacc, hloans⟩, hheld⟩ := h
    rw [State.loanBack_some hacc hloans, State.returnLoan_held hacc hheld]
  case freed =>
    obtain ⟨⟨hacc, hlast⟩, hfreed⟩ := h
    rw [State.loanBack_some hacc (Nat.le_of_eq hlast.symm), State.returnLoan_freed hacc hlast hfreed]
  case single => exact State.readComplete_corrected h.1.1 h.1.2 h.2
  case read => exact State.readComplete_dram h.1.1 h.1.2 h.2
  case alert =>
    obtain ⟨hrank, hstate⟩ := h
    exact (if_neg (by omega)).trans rfl
  case postponed =>
    obtain ⟨⟨⟨⟨hrank, hstate⟩, hdue⟩, hwait⟩, hfew⟩ := h
    exact (if_neg (State.refresh_due hrank hstate hdue)).trans (if_pos ⟨hwait, hfew⟩)
  case refresh =>
    obtain ⟨⟨⟨hrank, hstate⟩, hdue⟩, hwhy⟩ := h
    refine (if_neg (State.refresh_due hrank hstate hdue)).trans (if_neg fun hp => ?_)
    rcases hwhy with hidle | hmany
    · exact ne_true_of_eq_false hidle hp.1
    · omega
  case row =>
    obtain ⟨⟨⟨hrank, hbank⟩, hrow⟩, hstate⟩ := h
    refine (if_neg (by omega)).trans ?_
    rw [State.openBank_eq]
  case window => exact if_neg (Nat.not_lt.mpr h.2)
  case page => exact if_neg (Nat.not_lt.mpr h.2)
  case down =>
    obtain ⟨⟨hrank, hstate⟩, hidle⟩ := h
    exact if_neg (not_or.mpr ⟨Nat.not_lt.mpr (Nat.le_of_lt_succ hrank), not_or.mpr ⟨Classical.not_not.mpr hstate, Nat.not_lt.mpr hidle⟩⟩)
  case dma =>
    obtain ⟨⟨hdma, hin⟩, hacc⟩ := h
    exact State.dmaDone_inward hdma hin hacc
  case pin =>
    rw [State.pinDone, h]
    dsimp only
    rw [State.updAcc_pinFree]
    rfl

end Sys2Proof.Machine
end

