-- ==== Sys2Proof/Proofs/Time.lean ====
section
/-!
PROOFS. Time, launches and the catalogue (R370-R400).
-/
namespace Sys2Proof.Machine

open Sys2Proof

/-! ## Commands (R377, R388-R398) -/

/-- Settles O49: no check of an opcode finds a reason under its condition. -/
theorem timeCommandsComplete : Obligations.TimeCommandsComplete := by
  refine ⟨.of_body State.bodyTimeGet fun _ _ _ _ => rfl, .of_body State.bodyTimeSet ?set, .of_body State.bodyTimeLaunch ?launch,
    .of_body State.bodyLaunchFlush ?flush, .of_body State.bodyCatSeal fun _ _ _ _ => rfl, .of_body State.bodyCatList ?list,
    fun g a => .of_body State.bodyCatRelease ?release, .of_applyMgt ?src⟩
  case set =>
    intro b c _ h
    simp only [Bool.and_eq_true, decide_eq_true_eq] at h
    obtain ⟨⟨⟨hsrc, hpower⟩, hshadow⟩, hahead⟩ := h
    rw [State.bodyTimeSet]
    exact State.unless_of (by simp [hsrc, hpower, hshadow, Int.not_lt.mpr hahead]) (if_neg hshadow)
  case launch =>
    intro b c _ h
    simp only [Bool.and_eq_true, decide_eq_true_eq] at h
    obtain ⟨⟨⟨⟨⟨hport, hmin⟩, htop⟩, hlen⟩, hsoon⟩, hlate⟩ := h
    rw [State.bodyTimeLaunch]
    refine State.unless_of ?_
    simp [Nat.not_lt.mpr hport, Nat.not_lt.mpr hmin, Nat.not_lt.mpr htop, hlen, Int.not_lt.mpr hsoon, Int.not_lt.mpr hlate]
  case flush =>
    intro b c _ h
    rw [State.bodyLaunchFlush]
    exact State.unless_of (by simp [Nat.not_lt.mpr (of_decide_eq_true h)])
  case list =>
    intro b c _ h
    simp only [Bool.and_eq_true, decide_eq_true_eq] at h
    rw [State.bodyCatList]
    exact State.unless_of (by simp [Nat.one_le_iff_ne_zero.mp h.1, Nat.not_lt.mpr h.2])
  case release =>
    intro b c _ h
    simp only [Bool.and_eq_true, decide_eq_true_eq] at h
    obtain ⟨⟨⟨hfind, hacc⟩, hstate⟩, hloans⟩ := h
    dsimp only [State.bodyCatRelease]
    rw [hfind]
    dsimp only
    generalize hx : State.acc? _ g.acc = o
    obtain rfl : o = some a := hx.symm.trans hacc
    exact (if_neg hstate).trans (if_pos hloans)
  case src =>
    intro b x v q hq _ _
    rw [of_decide_eq_true hq]
    rfl

/-! ## Steps of the time base (R25, R378) -/

theorem State.rg2_setRg2_zero (s : State) (p i : Nat) : (s.setRg2 p i 0).rg2 p i = 0 := by
  have hlow : (s.setRg2 p i 0).rg p i = 0 := (State.reg_setReg_other _ _ _ _ (by omega)).trans (State.reg_setReg_same _ _ _)
  have hhigh : (s.setRg2 p i 0).rg (p + 1) i = 0 := State.reg_setReg_same _ _ _
  rw [State.rg2, hlow, hhigh]
  rfl

/-- Counting a step and recording it leave the step that waits. -/
theorem State.stepPend_noted (s : State) (src code : Nat) (p : List Byte) :
    ((s.bump P.TIME_STEPS 0).record src code p).rg2 P.TIME_STEP_PEND 0 = s.rg2 P.TIME_STEP_PEND 0 := by
  have hreg (q : Nat) (h1 : q + 0 * 2 ^ 16 ≠ P.LOG_OVERWRITTEN) (h2 : q + 0 * 2 ^ 16 ≠ P.LOG_MERGES)
      (h3 : q + 0 * 2 ^ 16 ≠ P.TIME_STEPS + 0 * 2 ^ 16) : ((s.bump P.TIME_STEPS 0).record src code p).rg q 0 = s.rg q 0 :=
    ((Logged.record ..).rg h1 h2).trans (s.reg_setReg_other _ _ _ h3)
  rw [State.rg2, State.rg2, hreg P.TIME_STEP_PEND (by decide) (by decide) (by decide),
    hreg (P.TIME_STEP_PEND + 1) (by decide) (by decide) (by decide)]

/-- The first multiple of a frame at or after a time. -/
theorem frameStart_bounds (new : Nat) :
    ((new + 2560 + 2559) / 2560 * 2560 - 2560) % 2560 = 0 ∧ new ≤ (new + 2560 + 2559) / 2560 * 2560 - 2560 ∧
      (new + 2560 + 2559) / 2560 * 2560 - 2560 < new + 2560 := by
  omega

/-- Settles O52: the record of the step leaves the time, the frame and the registers, but for the counter of steps. -/
theorem stepRestartsTheFrame : Obligations.StepRestartsTheFrame := by
  intro s new cause held s'
  have htick : s'.tick = (new + 2560 + 2559) / 2560 * 2560 - 2560 := (Logged.record ..).tick
  obtain ⟨hmultiple, hafter, hbefore⟩ := frameStart_bounds new
  refine ⟨(Logged.record ..).now, by rw [htick]; exact hmultiple, by rw [htick]; exact hafter, by rw [htick]; exact hbefore,
    congrArg TimeSt.valid (Logged.record ..).time, congrArg TimeSt.step (Logged.record ..).time, ?_⟩
  exact (State.stepPend_noted ..).trans (State.rg2_setRg2_zero ..)

end Sys2Proof.Machine
end

