-- ==== Sys2Proof/Proofs/TimeEvents.lean ====
section
/-!
PROOFS. The events of the servo, of PTP, of launches and of the input pins (R373-R397).
-/
namespace Sys2Proof.Machine

open Sys2Proof

/-! ## The servo, PPS and PTP (R375-R386) -/

/-- From s to t nothing but Docent changes. -/
def Docked (s t : State) : Prop := t = { s with doc := t.doc }

theorem Docked.trans {s t u : State} (h : Docked s t) (k : Docked t u) : Docked s u := by
  unfold Docked at h k ⊢
  rw [k, h]

theorem Docked.ite {s t u : State} {c : Prop} [Decidable c] (h : Docked s t) (k : Docked s u) : Docked s (if c then t else u) := by
  split
  · exact h
  · exact k

theorem Docked.docEdge (s : State) (id : Nat) : Docked s (s.docEdge id) := s.docEdge_eq id

theorem Docked.docNote (s : State) : Docked s s.docNote := s.docNote_eq

theorem Docked.updDoc (s : State) (f : DocSt → DocSt) : Docked s (s.updDoc f) := rfl

theorem Docked.docLevel (s : State) (id : Nat) (level : Bool) : Docked s (s.docLevel id level) := by
  unfold State.docLevel
  exact .ite rfl (.trans (.ite (.trans (.updDoc s _) (.docEdge ..)) (.updDoc s _)) (.docNote _))

theorem Docked.reg {s t : State} (h : Docked s t) (p : Nat) : t.reg p = s.reg p := by
  rw [h]
  rfl

/-- A held step to a set time is made at a tick outside EXPOSE. -/
theorem State.stepApply_set {a : State} {q : StepReq} {v : TS} (hstep : a.time.step = some q) (hheld : q.held = true)
    (hpower : a.power.state ≠ 4) (htick : a.now % 2560 = 0) (hdest : q.dest = some v) :
    a.stepApply =
      let s := a.stepTo (max v a.now) q.cause true
      match q.k with | some k => s.decide k rOK a.now [] | none => s := by
  rw [State.stepApply, hstep]
  refine (if_neg (by simp [hheld, hpower, htick])).trans ?_
  cases q.k <;> simp only [hdest]

/-- Settles O50: the tests of each event hold at the states where it is due. -/
theorem servoEventsComplete : Obligations.ServoEventsComplete := by
  refine ⟨fun th per r => .of_next (fun a _ => a.servoOffset) ?offset, .of_next (fun a _ => a.servoHoldover) ?holdover,
    fun q v => .of_next (fun a _ => a.stepApply) ?step,
    fun k rising => .of_unit (present := k < 2) (fun a _ => a.ppsIn k rising) (fun _ _ h => by simp_all) ?ppsIn,
    fun k => .of_unit (present := k < 2) (fun a _ => a.ppsOut k) (fun _ _ h => by simp_all) ?ppsSecond,
    fun k => .of_unit (present := k < 2) (fun a _ => a.ppsOut k) (fun _ _ h => by simp_all) ?ppsPeriod,
    fun t1 t2 t3 t4 => .of_next (fun a _ => a.twinTiming t1 t2 t3 t4) ?twin, fun b => .of_next (fun a _ => a.refLoss b) ?ref,
    fun p ip m => .of_unit (fun a _ => a.ptpMessage p ip m) (fun _ _ h => h) fun _ _ _ => rfl,
    fun p => .of_unit (present := p < 3) (fun a _ => a.ptpTimer p .sync) (fun _ _ h => by simp_all) ?sync,
    fun p => .of_unit (present := p < 3) (fun a _ => a.ptpTimer p .qualify) (fun _ _ h => by simp_all) ?qualify,
    fun p k => .of_unit (present := p < 3) (fun a _ => a.ptpTimer p k) (fun _ _ h => by simp_all) ?noPtp⟩
  all_goals
    intro a t h
    simp only [Bool.and_eq_true, Bool.not_eq_true', decide_eq_true_eq] at h
  case offset => rw [State.servoOffset, h]
  case holdover =>
    obtain ⟨⟨hst, hsrc⟩, hlong⟩ := h
    exact if_pos ⟨hst, hsrc, hlong⟩
  case step =>
    obtain ⟨⟨⟨⟨hstep, hheld⟩, hpower⟩, htick⟩, hdest⟩ := h
    exact State.stepApply_set hstep hheld hpower htick hdest
  case ppsIn =>
    obtain ⟨_, hedge⟩ := h
    have hreg : (a.docLevel (289 + k) rising).rg P.TIME_PPS_IN_EDGE 0 = a.rg P.TIME_PPS_IN_EDGE 0 := (Docked.docLevel ..).reg _
    refine if_neg ?_
    rw [hreg]
    simpa using hedge
  case ppsSecond =>
    obtain ⟨⟨_, hmode⟩, hsecond⟩ := h
    simp [State.ppsOut, hmode, hsecond]
  case ppsPeriod =>
    obtain ⟨⟨_, hmode⟩, hperiod⟩ := h
    simp [State.ppsOut, hmode, hperiod]
  case twin => exact (if_neg (by simp [h])).trans (if_pos h)
  case ref => exact if_neg (by simp [h])
  case sync =>
    obtain ⟨⟨_, hon⟩, hst⟩ := h
    exact (if_neg (by simp [hon])).trans ((if_neg (by simp [hst])).trans rfl)
  case qualify =>
    obtain ⟨⟨_, hon⟩, hst⟩ := h
    exact (if_neg (by simp [hon])).trans (if_pos hst)
  case noPtp => exact if_pos (by simp [h])

/-! ## Launches, the catalogue, the input pins and the links (R373, R388-R397) -/

/-- Settles O51: the tests of each event hold at the states where it is due; an input pin follows where the clocks stand, too. -/
theorem timeEventsComplete : Obligations.TimeEventsComplete := by
  refine ⟨fun p l r => .of_unit (present := p < 3) (fun a _ => a.launchSend p) (fun _ _ h => by simp_all) ?send,
    fun p l r => .of_unit (present := p < 3) (fun a _ => a.launchDrop p) (fun _ _ h => by simp_all) ?drop,
    fun g => .of_next (fun a _ => a.catSealTimeout) ?sealing, .of_next (fun a _ => a.meltSums) ?sums,
    fun i => .of_unit (fun a t => a.evtEdge i false t) (fun _ _ h => h) fun _ _ _ => rfl,
    fun i => .of_unit (fun a t => a.evtEdge i true t) (fun _ _ h => h) fun _ _ _ => rfl,
    fun i rising => .of_eventWhen (fun a _ => a.aonInput (1 + i) rising) (fun a t => a.evtEdge i rising t) ?pin fun _ _ _ => rfl,
    fun p on speed => .of_unit (fun a _ => a.ethLink p on speed) (fun _ _ h => h) fun _ _ _ => rfl,
    fun p mac ip => .of_unit (present := p < 3) (fun a _ => a.netRequest p (.arp mac ip 0xC0A80001)) (fun _ _ h => by simp_all) ?arp⟩
  case pin =>
    intro s t hi
    have hexec : exec (.evtInEdge t i rising) s =
      s.onUnit (i < 16) "EVT_IN input" (s.eventWhen t (fun s => s.evtEdge i rising t) fun s => s.aonInput (1 + i) rising) := rfl
    rw [hexec, hi, State.onUnit_there]
  all_goals
    intro a t h
    simp only [Bool.and_eq_true, Bool.not_eq_true', decide_eq_true_eq] at h
  case send =>
    obtain ⟨⟨⟨⟨⟨⟨_, hfirst⟩, hdue⟩, hown⟩, hup⟩, hline⟩, hlate⟩ := h
    rw [State.launchSend, hfirst]
    refine if_neg ?_
    simp only [Nat.not_lt.mpr hdue, hown, hup, Nat.not_lt.mpr hline, gt_iff_lt, Nat.not_lt.mpr hlate, Bool.not_true, Bool.false_eq_true,
      or_self, not_false_eq_true]
  case drop =>
    obtain ⟨⟨⟨_, hfirst⟩, hown⟩, hlate⟩ := h
    rw [State.launchDrop, hfirst]
    exact if_neg (by simp only [hown, Nat.not_le.mpr hlate, Bool.not_true, Bool.false_eq_true, or_self, not_false_eq_true])
  case sealing =>
    obtain ⟨hopen, hlong⟩ := h
    rw [State.catSealTimeout, hopen]
    exact if_pos hlong
  case sums =>
    obtain ⟨⟨hon, htick⟩, hframe⟩ := h
    exact if_neg (by simp [hon, htick, hframe])
  case arp =>
    obtain ⟨⟨⟨_, hrec⟩, hown⟩, hfree⟩ := h
    simp only [State.netRequest, hrec, Bool.false_and, Bool.false_eq_true, if_false, hown]
    exact (if_pos (by simp)).trans (if_neg (by simp [hfree]))

end Sys2Proof.Machine
end

