-- ==== Sys2Proof/Proofs/Twin.lean ====
section
/-!
PROOFS. What passes between the modules of a pair, and the log, the keys and the faults (R406-R434).
-/
namespace Sys2Proof.Machine

open Sys2Proof

/-! ## The pair (R406-R410, R431) -/

/-- Settles O54: each branch is the one the event's condition names. -/
theorem twinTrafficCompletes : Obligations.TwinTrafficCompletes := by
  refine ⟨fun stream seq op flags acc payload => .of_next (fun a _ => a.twinForward (.command stream seq op flags acc payload)) ?command,
    fun stream seq op flags result acc eff payload =>
      .of_next (fun a _ => a.twinForward (.reply stream seq op flags result acc eff payload)) ?reply,
    fun stream seq => .of_next (fun a _ => a.twinAck true stream seq) fun _ _ _ => rfl, .of_next (fun a _ => a.twinDigest none) ?digest,
    .of_next (fun a _ => a.stateTransfer none) ?send, fun c => .of_next (fun a _ => a.stateTransfer (some c)) ?take,
    .of_next (fun a _ => a.resyncTimeout) ?timeout, fun r => .of_next (fun a _ => a.logMirror r) ?mirror⟩
  all_goals
    intro a t h
    simp only [Bool.and_eq_true, Bool.not_eq_true', decide_eq_true_eq] at h
  case command =>
    obtain ⟨hfollows, hstream⟩ := h
    exact (if_neg (by simp [hfollows])).trans (if_neg (Nat.not_lt.mpr hstream))
  case reply =>
    obtain ⟨hfollows, hstream⟩ := h
    exact (if_neg (by simp [hfollows])).trans (if_neg (Nat.not_lt.mpr hstream))
  case digest =>
    obtain ⟨⟨⟨hlow, hhigh⟩, htick⟩, hframe⟩ := h
    exact (if_neg (not_or.mpr ⟨Nat.not_lt.mpr hlow, Nat.not_lt.mpr hhigh⟩)).trans
      (if_neg (not_or.mpr ⟨Classical.not_not.mpr htick, Classical.not_not.mpr hframe⟩))
  case send => exact if_pos (by simp [h])
  case take =>
    obtain ⟨hboundary, hstate⟩ := h
    refine (if_neg (Nat.not_lt.mpr hboundary)).trans ?_
    rw [hstate]
    rfl
  case timeout =>
    obtain ⟨⟨hstate, hlong⟩, hattempt⟩ := h
    refine (if_neg (not_or.mpr ⟨Classical.not_not.mpr hstate, Nat.not_lt.mpr hlong⟩)).trans (if_pos ?_)
    rw [(Logged.record ..).twin]
    exact hattempt
  case mirror =>
    obtain ⟨hcode, hnew⟩ := h
    dsimp only [State.logMirror]
    rw [hnew]
    exact if_neg fun hlaunch => hcode hlaunch.1

/-! ## Records of the catalogue (R426, R394) -/

theorem newestOf_code {recs : List Rec} {src code : Nat} {r : Rec} (h : newestOf recs src code = some r) : r.code = code := by
  have hall : ∀ q, newestOf recs src code = some q → q.code = code := by
    refine List.foldlRecOn (motive := fun o : Option Rec => ∀ q, o = some q → q.code = code) recs _ nofun fun o ho r _ q hq => ?_
    split at hq
    · rename_i heq
      obtain rfl := Option.some.inj hq
      exact heq.2
    · exact ho q hq
  exact hall r h

/-- A record of the catalogue merges with none of its code. -/
theorem merges_catalogue {r : Rec} (payload : List Byte) (ts flags powerups : Nat) (hcat : isCatalogue r.code = true) :
    merges r payload ts flags powerups = false := by
  rw [merges, hcat]
  rfl

theorem State.logPlace_seqs (s : State) (r : Rec) : (s.logPlace r).log.seqs = s.log.seqs := by
  dsimp only [State.logPlace]
  split <;> rfl

theorem State.mirrorOut_seqs (s : State) (r : Rec) : (s.mirrorOut r).log.seqs = s.log.seqs := by
  rw [State.mirrorOut]
  split <;> rfl

theorem State.updAcc_log (s : State) (acc : Nat) (f : Accn → Accn) : (s.updAcc acc f).log = s.log := by
  rw [State.updAcc]
  split <;> rfl

theorem State.openSegment_seqs (s : State) : s.openSegment.log.seqs = s.log.seqs := by
  dsimp only [State.openSegment]
  split
  · rfl
  · dsimp only
    rw [State.updAcc_log]
    rfl

theorem State.catStage_seqs (s : State) (r : Rec) : (s.catStage r).log.seqs = s.log.seqs := by
  have hopen : (if s.log.openSeg.isNone then s.openSegment else s).log.seqs = s.log.seqs := by
    split
    · exact s.openSegment_seqs
    · rfl
  dsimp only [State.catStage]
  generalize (if s.log.openSeg.isNone then s.openSegment else s) = u at hopen ⊢
  cases u.log.openSeg <;> exact hopen

/-- A record of the catalogue is the next of its source. -/
theorem State.recordAt_seqs (s : State) (src : Nat) {code : Nat} (payload : List Byte) (ts : TS) (hcat : isCatalogue code = true) :
    (s.recordAt src code payload ts).log.seqs = assocPut s.log.seqs src ((s.seqOf src + 1) % 2 ^ 32) := by
  dsimp only [State.recordAt]
  split
  · next hmerged =>
    split at hmerged
    · next hnew =>
      rw [merges_catalogue _ _ _ _ (by rw [newestOf_code hnew, hcat])] at hmerged
      exact absurd hmerged nofun
    · exact absurd hmerged nofun
  · split
    · rw [State.catStage_seqs, State.mirrorOut_seqs, State.logPlace_seqs]
    · rw [State.mirrorOut_seqs, State.logPlace_seqs]

/-- Settles O56: the record merges with none, and nothing after its place in the log changes a sequence or another part of the state. -/
theorem recordsAreInSequence : Obligations.RecordsAreInSequence := by
  intro s src code payload ts hcat s'
  have hseqs : s'.log.seqs = _ := s.recordAt_seqs src payload ts hcat
  have hlog : Logged s s' := .recordAt ..
  refine ⟨?same, fun q hq => ?other, hlog.beams, hlog.host, hlog.mot, hlog.pipes, hlog.lamp, hlog.gal, hlog.cns, hlog.power, hlog.twin, hlog.time,
    hlog.doc, hlog.faults, hlog.writes⟩
  case same => rw [State.seqOf, hseqs, assocGet_put_same, Option.getD_some]
  case other => rw [State.seqOf, hseqs, assocGet_put_other _ _ _ _ hq, State.seqOf]

/-! ## The log, the keys and the faults (R403, R421, R430-R434) -/

/-- Settles O55: the checks pass, and the branch of each operation is the one its condition names. -/
theorem logCommandsComplete : Obligations.LogCommandsComplete := by
  refine ⟨.of_body State.bodyLogRead ?read, .of_body State.bodyLogMark ?mark, .of_body State.bodyLogChallenge fun _ _ _ _ => rfl,
    .of_body State.bodyLogClear ?clear, .of_body State.bodyKeyWrite ?key, .of_body State.bodyKeyInfo fun _ _ _ _ => rfl,
    .of_body State.bodyFaultStatus fun _ _ _ _ => rfl, .of_body State.bodyFaultClear ?none, .of_body State.bodyFaultClear ?stop,
    .of_next (fun a _ => a.watchdog) fun _ _ _ => rfl⟩
  all_goals
    intro b x _ h
    simp only [Bool.and_eq_true, Bool.or_eq_true, Bool.not_eq_true', decide_eq_true_eq] at h
  case read =>
    obtain ⟨hone, hmost⟩ := h
    rw [State.bodyLogRead]
    exact State.unless_of (by simp [Nat.not_lt.mpr hmost, Nat.ne_of_gt hone]) (by simp only [decide_eq_true_eq])
  case mark =>
    rw [State.bodyLogMark]
    exact State.unless_of (by simp [Nat.not_lt.mpr h])
  case clear =>
    obtain ⟨hslot, htag⟩ := h
    dsimp only [State.bodyLogClear]
    exact State.unless_of (by simp [Nat.not_lt.mpr hslot]) (if_pos htag)
  case key =>
    obtain ⟨⟨⟨hinteg, hslot⟩, hlevel⟩, hothers⟩ := h
    rw [State.bodyKeyWrite]
    refine State.unless_of ?_
    simp only [firstBad_cons_eq_none, firstBad_nil, and_true]
    exact ⟨by simp [hinteg], by simp [Nat.not_lt.mpr hslot, Nat.not_lt.mpr hlevel],
      hothers.elim (fun h2 => by simp [h2]) fun hother => by rw [hother, Bool.not_true, Bool.and_false]⟩
  case none =>
    obtain ⟨⟨⟨hone, hmost⟩, hstays⟩, hoff⟩ := h
    rw [State.bodyFaultClear]
    exact State.unless_of (by simp [Nat.not_lt.mpr hmost, Nat.ne_of_gt hone, hstays])
      (congrArg (fun s : State => s.ok x (le 1 (s.regionClass (u8 x.payload 0)) ++ zeros 3)) (if_neg (Bool.not_eq_true _ ▸ hoff)))
  case stop =>
    obtain ⟨⟨hone, hmost⟩, hon⟩ := h
    have hregion : u8 x.payload 0 ≠ 4 := by omega
    rw [State.bodyFaultClear]
    exact State.unless_of (by simp [State.stopCauseStays, hregion]; omega)
      (congrArg (fun s : State => s.ok x (le 1 (s.regionClass (u8 x.payload 0)) ++ zeros 3)) ((if_pos hon).trans (if_neg hregion)))

end Sys2Proof.Machine
end

