-- ==== Sys2Proof/Proofs/Management.lean ====
section
/-!
PROOFS. Docent, the management parameters that act, and housekeeping (R440-R475).
-/
namespace Sys2Proof.Machine

open Sys2Proof

/-! ## Writes of one management parameter -/

/-- A row of one PID. -/
theorem ManageCompletes.of_pid {c : Packet → Instr} {pid : Nat} {act : State → Ctx → Nat → State}
    (h : ∀ b x v, State.applyMgt b x.k false pid v = act b x v)
    (hexec : ∀ p s, exec (c p) s = s.hostCommand 0x0101 p := by intros; rfl) : ManageCompletes c (fun q => q = pid) act :=
  .of_applyMgt (fun b x v q hq _ _ => by rw [of_decide_eq_true hq, h]) hexec

theorem pidNum_add {p k : Nat} (h : pidNum p + k < 2 ^ 16) : pidNum (p + k) = pidNum p + k := by
  simp only [pidNum, bits, Nat.shiftRight_eq_div_pow] at h ⊢
  omega

theorem pidClass_add {p k : Nat} (h : pidNum p + k < 2 ^ 16) : pidClass (p + k) = pidClass p := by
  simp only [pidNum, pidClass, bits, Nat.shiftRight_eq_div_pow] at h ⊢
  omega

/-- The PIDs past 0x1000 are those of Docent's sources and of the calibration. -/
theorem State.applyMgt_entry (s : State) (k : Ticket) (block : Bool) {pid : Nat} (v : Nat) (hnum : 0x1000 < pidNum pid) :
    s.applyMgt k block pid v =
      if pidClass pid = 2 then s.docSrcWrite (pidNum pid - 0x1000) v
      else if pidClass pid = 14 then s.calWrite (pidNum pid - 0x1000) v (s.session k.sess).slotKey
      else s.setReg pid v := by
  have hne : ∀ q, pidNum q ≤ 0x1000 → pid ≠ q := by
    rintro q hq rfl
    omega
  simp only [State.applyMgt, hne P.SYS_WAKE_EN (by decide), hne P.SYS_ILK_POL (by decide), hne P.SYS_FW_PREF (by decide),
    hne P.SYS_FW_LOAD (by decide), hne P.SYS_PRESET_SAVE (by decide), hne P.SYS_PRESET_FACTORY (by decide), hne P.DOC_DIS (by decide),
    hne P.DOC_SOFT (by decide), hne P.TIME_SRC (by decide), hne P.CAL_EXPORT (by decide), hnum, and_true, if_false]

/-! ## Docent (R465-R474) -/

/-- Settles O57: what the host takes from its stack is on it, and every write of a row names its own PID. -/
theorem docentCompletes : Obligations.DocentCompletes := by
  refine ⟨.of_body State.bodyDocentClaim fun _ _ _ _ => rfl, .of_body State.bodyDocentComplete ?last, .of_body State.bodyDocentComplete ?next,
    fun id hlow hhigh => .of_pid ?src, .of_pid fun _ _ _ => rfl, .of_pid fun _ _ _ => rfl,
    fun act => .of_next (fun a _ => a.docFw act) fun _ _ _ => rfl⟩
  case last =>
    intro b c _ h
    simp only [Bool.and_eq_true, Bool.not_eq_true', decide_eq_true_eq] at h
    rw [State.bodyDocentComplete]
    exact State.unless_of (by simp [h.1]) (if_pos (by simp [h.2]))
  case next =>
    intro b c _ h
    simp only [Bool.and_eq_true, decide_eq_true_eq] at h
    rw [State.bodyDocentComplete]
    exact State.unless_of (by simp [h.1]) (if_neg (by simp [h.2]))
  case src =>
    intro b x v
    have hsmall : pidNum P.DOC_SRC + id < 2 ^ 16 := by
      have hbase : pidNum P.DOC_SRC = 0x1000 := rfl
      omega
    have hnum : pidNum (P.DOC_SRC + id) = 0x1000 + id := pidNum_add hsmall
    have hclass : pidClass (P.DOC_SRC + id) = 2 := pidClass_add hsmall
    rw [State.applyMgt_entry _ _ _ _ (by omega), if_pos hclass, hnum, Nat.add_sub_cancel_left]

/-! ## Presets, calibration and firmware images (R78, R452-R455, R463) -/

theorem State.applyMgt_fwLoad (s : State) (k : Ticket) (block : Bool) (v : Nat) :
    s.applyMgt k block P.SYS_FW_LOAD v = s.fwLoadBegin k v block := rfl

/-- What a write of SYS_FW_LOAD begins, where the slot does not run. -/
theorem State.bodyParamWrite_fwLoad {b : State} {c : Ctx} (hop : c.op = 0x0101) (htwin : c.twin = false) (hpass : b.mayWrite c = true)
    (hpid : u32 c.payload 0 = P.SYS_FW_LOAD) : b.bodyParamWrite c = b.fwLoadBegin c.k (u32 c.payload 4) false := by
  rw [State.bodyParamWrite]
  refine State.unless_of (Option.isNone_iff_eq_none.mp hpass) ?_
  have hone : isBroadcast P.SYS_FW_LOAD = false := by decide
  have hregion : pidRegion P.SYS_FW_LOAD = 0 := by decide
  rw [hpid]
  simp [State.acceptWrites, State.applyWrites, State.targets, State.applyParam, State.applyMgt_fwLoad, hop, htwin, hone, hregion]

/-- An accession of another pool holds no image. -/
theorem State.fwImage_none (s : State) {acc : Nat} (hpool : accPool acc ≠ 6) : s.fwImage acc = none := if_neg (by simp [hpool])

/-- Settles O58: every write of a row names its own PID, and the end of a load finds its job. -/
theorem managementWritesComplete : Obligations.ManagementWritesComplete := by
  refine ⟨.of_pid fun _ _ _ => rfl, .of_pid fun _ _ _ => rfl, .of_pid fun _ _ _ => rfl, fun e hlow hhigh => .of_pid ?cal, .of_pid fun _ _ _ => rfl,
    .of_body State.bodyParamWrite ?load, fun j img => .of_next (fun a _ => a.fwLoadDone) ?good, fun j => .of_next (fun a _ => a.fwLoadDone) ?bad⟩
  case cal =>
    intro b x v
    have hsmall : pidNum P.CAL_ENTRY + e < 2 ^ 16 := by
      have hbase : pidNum P.CAL_ENTRY = 0x1000 := rfl
      omega
    have hnum : pidNum (P.CAL_ENTRY + e) = 0x1000 + e := pidNum_add hsmall
    have hclass : pidClass (P.CAL_ENTRY + e) = 14 := pidClass_add hsmall
    rw [State.applyMgt_entry _ _ _ _ (by omega), if_neg (by omega), if_pos hclass, hnum, Nat.add_sub_cancel_left]
    rfl
  case load =>
    intro b x hb h
    simp only [Bool.and_eq_true, Bool.not_eq_true', decide_eq_true_eq] at h
    obtain ⟨⟨hpass, hpid⟩, hfree⟩ := h
    rw [State.bodyParamWrite_fwLoad hb.op hb.twin hpass hpid]
    dsimp only [State.fwLoadBegin]
    rw [if_neg (by simpa using hfree), (Logged.takeLoan ..).now]
    rfl
  case good =>
    intro a t h
    simp only [Bool.and_eq_true, decide_eq_true_eq] at h
    dsimp only [State.fwLoadDone]
    rw [h.1]
    dsimp only
    rw [h.2]
  case bad =>
    intro a t h
    simp only [Bool.and_eq_true, decide_eq_true_eq, Option.isNone_iff_eq_none] at h
    obtain ⟨⟨hjob, himg⟩, hpool⟩ := h
    dsimp only [State.fwLoadDone]
    rw [hjob]
    dsimp only
    rw [himg, a.fwImage_none hpool]
    rfl

/-! ## Interlocks, rounds, the trip and gating (R34, R440-R462) -/

/-- A round off its instant, or of a module that has tripped, does nothing; else it is the round of housekeeping and what its trip asks for. -/
theorem State.mgtRound_due {a : State} (raw : List (Option Nat)) (light : List (Nat × Nat)) (hround : a.now % 256000000 = 0)
    (hhalted : a.power.halted ≠ 2) :
    a.mgtRound raw light =
      let s := (a.hkRound raw a.now).2.updLog fun l => { l with savedSeqs := l.seqs }
      match (a.hkRound raw a.now).1 with
      | some p => (if s.power.state = 5 then s else s.halt 1 (p.payload (s.now / 256000000))).permitRound
      | none =>
        (if s.expRuns then
          s.lampRound (if (s.hkChan 18).faulted then none else some (s.rg P.HK_VALUE 18)) (s.rg P.HK_VALUE 18) light else s).permitRound := by
  refine (if_neg (not_or.mpr ⟨Classical.not_not.mpr hround, hhalted⟩)).trans ?_
  generalize a.hkRound raw a.now = r
  obtain ⟨_ | p, s⟩ := r <;> rfl

/-- Settles O59: each event is due at the states of its condition. -/
theorem managementEventsComplete : Obligations.ManagementEventsComplete := by
  refine ⟨fun k level => .of_unit (fun a _ => a.ilkEdge k level) (fun _ _ h => h) fun _ _ _ => rfl,
    fun k level => .of_eventWhen (fun a _ => a.aonInput (17 + k) level) (fun a _ => a.ilkEdge k level) ?pin fun _ _ _ => rfl,
    fun rising => .of_next (fun a _ => a.perstEdge rising) fun _ _ _ => rfl, fun raw light => .of_next (fun a _ => a.mgtRound raw light) ?round,
    fun raw light trip => .of_next (fun a _ => a.mgtRound raw light) ?tripped, .of_next (fun a _ => a.analogTrip) ?analog,
    fun mv => .of_next (fun a _ => a.vmotRise mv) fun _ _ _ => rfl,
    fun r k => .of_unit (present := gateable r k) (fun a _ => a.blockGate r k) (fun _ _ h => by simp_all) ?gate,
    fun r k => .of_unit (present := gateable r k) (fun a _ => a.blockUngate r k) (fun _ _ h => by simp_all) ?ungate⟩
  case pin =>
    intro s t hk
    have hexec : exec (.ilkChange t k level) s =
      s.onUnit (k < 4) "ILK input" (s.eventWhen t (fun s => s.ilkEdge k level) fun s => s.aonInput (17 + k) level) := rfl
    rw [hexec, hk, State.onUnit_there]
  all_goals
    intro a t h
    simp only [Bool.and_eq_true, Bool.not_eq_true', decide_eq_true_eq, Option.isNone_iff_eq_none] at h
  case round =>
    obtain ⟨⟨⟨hround, hhalted⟩, hnone⟩, hstopped⟩ := h
    rw [State.mgtRound_due raw light hround hhalted, hnone]
    exact congrArg State.permitRound (if_neg (Bool.not_eq_true _ ▸ hstopped))
  case tripped =>
    obtain ⟨⟨⟨hround, hhalted⟩, htrip⟩, hstate⟩ := h
    rw [State.mgtRound_due raw light hround hhalted, htrip]
    exact congrArg State.permitRound (if_neg hstate)
  case analog => exact (if_neg h.1).trans (if_neg (Bool.not_eq_true _ ▸ h.2))
  case gate =>
    obtain ⟨⟨⟨⟨⟨hthere, hruns⟩, hgate⟩, hclk⟩, hidle⟩, hlong⟩ := h
    exact if_pos ⟨hthere, hruns, hgate, hclk, by rw [hidle, Bool.not_false], hlong⟩
  case ungate => exact if_pos ⟨h.1.1, h.1.2, h.2⟩

end Sys2Proof.Machine
end

