-- ==== Sys2Proof/Proofs/Power.lean ====
section
/-!
PROOFS. Power requests, STANDBY, reset and the supply (R437-R448, R475).
-/
namespace Sys2Proof.Machine

open Sys2Proof

/-- The always-on part finds a module whose clocks stand. -/
theorem StoppedEventCompletes.of_clockless {c : TS → Instr} {due : State → TS → Bool} {effect : State → TS → State}
    (h : StoppedEventCompletes c (fun a t => a.clockless && due a t) effect) : StoppedEventCompletes c due effect := by
  intro s t hstopped hdue
  have hclockless : (s.stood t).clockless = true := (Bool.and_eq_true_iff.mp hstopped).2
  exact h s t hstopped (Bool.and_eq_true_iff.mpr ⟨hclockless, hdue⟩)

/-- Taking a level leaves the power state. -/
theorem State.setPin_power (s : State) (id : Nat) (level : Bool) :
    (s.setPin id level).power.state = s.power.state ∧ (s.setPin id level).power.inReset = s.power.inReset := by
  dsimp only [State.setPin]
  repeat' split
  all_goals exact ⟨rfl, rfl⟩

/-- An edge at a module whose clocks stand is latched, and wakes it in STANDBY where Docent selects it (R475). -/
theorem State.aonEdge_clockless {a : State} {id : Nat} (rising : Bool) (hclockless : a.clockless = true) (hone : 1 ≤ id) (hmost : id ≤ 26) :
    a.aonEdge id rising =
      if a.power.state = 1 && !a.power.inReset && (bit ((a.aonLatch id rising).docCfg id) 8 &&
          docSelects ((a.aonLatch id rising).docSense id) (a.pinActive id rising)) then (a.aonLatch id rising).wake id
      else a.aonLatch id rising := by
  obtain ⟨hstate, hreset⟩ : (a.aonLatch id rising).power.state = a.power.state ∧ (a.aonLatch id rising).power.inReset = a.power.inReset :=
    a.setPin_power id rising
  have hid : ¬(id = 0 ∨ id > 26) := by omega
  dsimp only [State.aonEdge]
  rw [if_neg (by simpa [hclockless] using hid), hstate, hreset]

theorem State.resetRelease_out (a : State) (boot : Boot) (hreset : a.power.inReset = true) (hhalted : a.power.halted ≠ 2) :
    a.resetRelease boot = (a.updPower fun p => { p with inReset := false }).resumeTime.startUp boot 1 := by
  dsimp only [State.resetRelease]
  rw [if_neg (by simp [hreset])]
  exact if_neg hhalted

/-- Settles O60: each branch is the one the condition names. -/
theorem powerCompletes : Obligations.PowerCompletes := by
  refine ⟨fun at_ => .of_next (fun a _ => a.standbyEnter) fun _ _ _ => rfl,
    fun raw => .of_eventWhen (fun a _ => (a.standbyRound raw).finish) (fun a _ => a) (fun _ _ _ => rfl) fun _ _ _ => rfl,
    fun src rising => .of_clockless (.of_eventWhen (fun a _ => a.aonInput src rising) (fun a _ => a) ?edge ?latch),
    fun src rising => .of_clockless (.of_eventWhen (fun a _ => a.aonInput src rising) (fun a _ => a) ?edge' ?wakes),
    .of_eventWhen (fun a _ => a.wakeTimer.finish) (fun a _ => a) (fun _ _ _ => rfl) ?timer, .of_next (fun a _ => a.resetAssert) ?reset,
    fun boot => .of_eventWhen (fun a _ => (a.resetRelease boot).finish) (fun a _ => a) (fun _ _ _ => rfl) ?release,
    .of_next (fun a _ => a.vinLoss) ?loss, ?rise, .of_body State.bodyPowerRequest ?same, .of_body State.bodyPowerRequest ?taken,
    fun q => .of_next (fun a _ => a.powerReached) ?up, fun q => .of_next (fun a _ => a.powerReached) ?down⟩
  case edge | edge' =>
    intro s t hdue
    simp only [Bool.and_eq_true, decide_eq_true_eq] at hdue
    have hthere : Decidable.decide (1 ≤ src ∧ src ≤ 26) = true := by simp [hdue]
    have hexec : exec (.aonEdgeLatch t src rising) s =
      s.onUnit (1 ≤ src ∧ src ≤ 26) "AON source" (s.eventWhen t id fun s => s.aonInput src rising) := rfl
    rw [hexec, hthere, State.onUnit_there]
    rfl
  case rise =>
    intro s t boot hoff
    have hexec : exec (.vinRise t boot) s =
      .next (if s.power.state = 0 then ((State.vinRise { s with out := [] } t boot).finish).gatePath else s.event t id) := rfl
    rw [hexec, if_pos hoff]
    exact congrArg (fun s : State => Host.Outcome.next s.finish.gatePath) (if_neg (Classical.not_not.mpr hoff))
  all_goals
    intro a t
    intros
    rename_i h
    simp only [Bool.and_eq_true, Bool.or_eq_true, Bool.not_eq_true', decide_eq_true_eq] at h
  case latch =>
    obtain ⟨hclockless, ⟨hone, hmost⟩, hquiet⟩ := h
    rw [State.aonInput, State.aonEdge_clockless rising hclockless hone hmost]
    refine congrArg State.finish (if_neg ?_)
    rw [Bool.not_eq_true]
    obtain (hstate | hreset) | hdeaf := hquiet
    · simp [hstate]
    · simp [hreset]
    · rw [hdeaf, Bool.and_false]
  case wakes =>
    obtain ⟨hclockless, ⟨⟨⟨⟨hone, hmost⟩, hstate⟩, hreset⟩, hcfg⟩, hsel⟩ := h
    rw [State.aonInput, State.aonEdge_clockless rising hclockless hone hmost]
    refine congrArg State.finish (if_pos ?_)
    simp [hstate, hreset, hcfg, hsel]
  case timer =>
    obtain ⟨⟨⟨hstate, hreset⟩, hset⟩, hlong⟩ := h
    exact congrArg State.finish (if_pos ⟨hstate, by simp [hreset], hset, hlong⟩)
  case reset =>
    obtain ⟨hon, hclocks⟩ := h
    have hreset : a.power.inReset = false := by
      simp only [State.clockless, Bool.or_eq_false_iff] at hclocks
      exact hclocks.1.2
    dsimp only [State.resetAssert]
    rw [if_neg (by simp [hon, hreset]), if_neg (by simp [hclocks])]
  case release =>
    obtain ⟨hreset, hhalted⟩ := h
    rw [a.resetRelease_out boot hreset hhalted]
  case loss =>
    obtain ⟨hon, hclocks⟩ := h
    dsimp only [State.vinLoss]
    rw [if_neg hon, if_neg (by simp [hclocks])]
  case same =>
    obtain ⟨⟨⟨hone, hmost⟩, hon⟩, hsame⟩ := h
    rw [State.bodyPowerRequest]
    exact State.unless_of (by simp [Nat.ne_of_gt hone, Nat.not_lt.mpr hmost, hon]) (if_pos hsame)
  case taken =>
    obtain ⟨⟨⟨⟨hone, hmost⟩, hon⟩, hother⟩, hgood⟩ := h
    rw [State.bodyPowerRequest]
    exact State.unless_of (by simp [Nat.ne_of_gt hone, Nat.not_lt.mpr hmost, hon]) ((if_neg hother).trans (if_neg (by simp [hgood])))
  case up =>
    obtain ⟨⟨⟨hreq, htwin⟩, hstate⟩, htarget⟩ := h
    rw [State.powerReached, hreq]
    exact (if_neg htwin).trans (if_pos ⟨hstate, htarget⟩)
  case down =>
    obtain ⟨⟨⟨hreq, htwin⟩, hstate⟩, htarget⟩ := h
    rw [State.powerReached, hreq]
    exact (if_neg htwin).trans ((if_neg (by simp [hstate])).trans (if_pos ⟨hstate, htarget⟩))

end Sys2Proof.Machine
end
